-- ==== Sys2Proof/Word.lean ====
section
/-! DEFINITION. The word types of the model (R10): bytes, the register widths and byte strings. -/
namespace Sys2Proof

/-- One byte. -/
abbrev Byte := BitVec 8
/-- A byte string, in the order in which it stands in memory or in a packet. -/
abbrev Bytes := List Byte
abbrev U16 := BitVec 16
abbrev U32 := BitVec 32
/-- A 64-bit register (R8). -/
abbrev U64 := BitVec 64
/-- One 128-bit word of a timed instruction stream (R65). -/
abbrev Word128 := BitVec 128

end Sys2Proof
end

