-- ==== Sys2Proof/Syntax.lean ====
section
/-! DEFINITION. The commands of the block: one constructor of `Instr` for each row of opcode_table.json, with the operands
that the row's event carries. -/
namespace Sys2Proof

/-- A head word that a timed instruction stream issues, with its continuation words (R65). -/
structure Issue where
  /-- Issuing core (R13). -/
  core : Fin 8
  /-- Stream of the core, by UNIT code: 0 matrix, 1 vector, 2 update, 3 to 6 DMA engines 0 to 3 (R65). -/
  unit : Fin 7
  head : Word128
  cont : List Word128
deriving DecidableEq, Repr

/-- A command that an HBM command stream issues (R70); `half` is the second fc of the ac. -/
structure HbmIssue where
  pc : Fin 640
  half : Bool
  word : U64
deriving DecidableEq, Repr

/-- The error severity that a read burst returns (R237). -/
inductive Severity where
  | clean | corrected | uncorrected
deriving DecidableEq, Repr

/-- How a received Ethernet frame was protected by MACsec (R296). -/
inductive Protection where
  | bare | verified | failed
deriving DecidableEq, Repr

/-- What a port looks at of a frame before its content: the port it came to, the VLAN identifier (0: untagged), its protection, whether
its IP packet is a fragment (R294, R296). -/
structure Frame where
  port : Fin 2
  vlan : BitVec 12
  prot : Protection
  fragmented : Bool
deriving DecidableEq, Repr

/-- A message of IEEE 1588 that a slave clock takes: a one-step Sync or the Follow_Up of a two-step one, a Sync that its Follow_Up
follows, a Delay_Resp, any other (R297). -/
inductive PtpKind where
  | sync | syncTwoStep | followUp | delayResp | other
deriving DecidableEq, Repr

/-- The header of a message of IEEE 1588 (R297). -/
structure PtpHeader where
  kind : PtpKind
  domain : Byte
deriving DecidableEq, Repr

/-- What a fine monitor gate measured of a source: its deviation from its monitor's reference and from COMPARE_REF, in ppm (R333, R334). -/
structure FineGate where
  ppm : Int
  compare : Int
deriving DecidableEq, Repr

/-- The control flit by which a port's neighbour reports LOCKED, or its loss (R394, R406). -/
structure LockReport where
  port : Fin 16
  locked : Bool
deriving DecidableEq, Repr

/-- One FCP packet with its frame (R294, R298): header fields as received, the parameters, the 16-byte tag. The opcode is
the row's own. `src` names the host address and UDP port it came from (R295); `v6` and `target` the address it went to. -/
structure Packet where
  port : Fin 2
  src : Nat
  v6 : Bool
  target : BitVec 128
  vlan : BitVec 12
  prot : Protection
  fragmented : Bool
  udpPort : U16
  magic : U32
  version : Byte
  flags : Byte
  session : U16
  seq : U32
  status : U16
  paramLen : U16
  rsv1 : U16
  wall : U64
  rsv2 : U32
  params : Bytes
  tag : Bytes
deriving DecidableEq, Repr

/-- A flit: 48-bit header and 256 bytes of payload, of which the first `used` belong to a transfer (R258; log 145). -/
structure Flit where
  hdr : BitVec 48
  payload : Bytes
  used : Nat
deriving DecidableEq, Repr

/-- The clock sources of R332. -/
inductive Source where
  | localRef | link | int | eth
deriving DecidableEq, Repr

/-- What link training finds on one port (R382 stage 6). -/
structure PortTraining where
  trained : Bool
  failedLanes : List (Fin 9)
deriving DecidableEq, Repr

/-- What the channel measurement finds on one port (R282): flight time in rc, the neighbour's position, and its identity as its control
flits give it: port, serial number and SLOT_ID. -/
structure PortMeasure where
  flightRc : U16
  neighbour : U16
  neighbourPort : Byte
  serial : U64
  slotId : Byte
deriving DecidableEq, Repr

/-- The levels of the strap and permission pins at a release of RESET_N (R412). -/
structure Straps where
  claimEn : Bool
  debugEn : Bool
  clkOrigin : Bool
  slotId : Byte
deriving DecidableEq, Repr

/-- One microsecond's power measurement (R346): input voltage in 10 mV, input current in 10 mA, the 2 µs and 1 ms means in
W, a regulator at its limit. -/
structure PowerMeasure where
  vIn : U16
  iIn : U16
  mean2us : Nat
  mean1ms : Nat
  regLimit : Bool
deriving DecidableEq, Repr

/-- The commands of the block. Each constructor is the row of opcode_table.json named in its comment. -/
inductive Instr where
  -- timed instruction streams: common operations (R67)
  | nop (i : Issue)
  | delay (i : Issue)
  | signal (i : Issue)
  | set (i : Issue)
  | expect (i : Issue)
  -- barriers
  | barrierDue
  | barrierToken (port : Fin 16) (grid : BitVec 2)
  | barrierRelease
  | holdNotice
  -- matrix array
  | mmul (i : Issue)
  | mmulPack (i : Issue)
  -- vector engine
  | vchain (i : Issue)
  | softmax (i : Issue)
  | norm (i : Issue)
  | accsum (i : Issue)
  | rsum (i : Issue)
  | rmean (i : Issue)
  | rmax (i : Issue)
  | rmin (i : Issue)
  | rargmax (i : Issue)
  | rargmin (i : Issue)
  | rcount (i : Issue)
  | rsumf (i : Issue)
  | rprod (i : Issue)
  | rlse (i : Issue)
  | scan (i : Issue)
  | dscan (i : Issue)
  | gather (i : Issue)
  | scatter (i : Issue)
  | compact (i : Issue)
  -- update engine
  | unorm (i : Issue)
  | gstore (i : Issue)
  | uclip (i : Issue)
  | update (i : Issue)
  | uclose (i : Issue)
  | stepcalc (i : Issue)
  | gnorm (i : Issue)
  | recast (i : Issue)
  | driftCheck (i : Issue)
  | ledger (i : Issue)
  | tables (i : Issue)
  | hash (i : Issue)
  -- DMA engines
  | move (i : Issue)
  | fill (i : Issue)
  | holdLatencyEnd
  | put (i : Issue)
  | get (i : Issue)
  | addI48 (i : Issue)
  | setBits (i : Issue)
  | clrBits (i : Issue)
  | remoteSignal (i : Issue)
  -- HBM command streams
  | hbmNop (h : HbmIssue)
  | act (h : HbmIssue)
  | rd (h : HbmIssue) (sev : Severity)
  | wr (h : HbmIssue)
  | pre (h : HbmIssue)
  | refpb (h : HbmIssue)
  | hbmDelay (h : HbmIssue)
  -- fabric and links
  | fabricSlot (channel : Fin 136) (dir : Bool) (half : Bool)
  | flitTransmit (port : Fin 16)
  | flitReceive (port : Fin 16) (flit : Flit) (damaged : Bool)
  | nak (port : Fin 16) (slot : BitVec 15)
  | flitDelivery (port : Fin 16)
  | deadlineMiss (port : Fin 16)
  | soakToken (port : Fin 16) (grid : BitVec 2)
  | soakStop
  | restartToken (port : Fin 16) (grid : BitVec 2)
  | soakRelease
  | laneFailure (port : Fin 16) (lane : Fin 9)
  | laneFailureReport (port : Fin 16) (lane : Fin 9)
  | laneRemap (port : Fin 16)
  | portUp (port : Fin 16) (m : PortMeasure)
  | lockedReport (r : LockReport)
  -- Feltodo Command Protocol
  | fcpNop (p : Packet)
  | sessionOpen (p : Packet)
  | sessionAuth (p : Packet)
  | sessionClose (p : Packet)
  | sessionThaw (p : Packet)
  | subscribe (p : Packet)
  | sessionList (p : Packet)
  | setOperatorKey (p : Packet) (claimEn : Bool)
  | setSeatKey (p : Packet)
  | unclaim (p : Packet)
  | jobStatus (p : Packet)
  | loadImage (p : Packet)
  | startAtBarrier (p : Packet)
  | haltAtBarrier (p : Packet)
  | unload (p : Packet)
  | setOpPoint (p : Packet)
  | ringWrite (p : Packet)
  | ringPublish (p : Packet)
  | ringStatus (p : Packet)
  | replayLoad (p : Packet)
  | memRead (p : Packet)
  | memWrite (p : Packet)
  | regionRead (p : Packet)
  | counterRead (p : Packet)
  | ckptRequest (p : Packet)
  | ckptAck (p : Packet)
  | ckptStatus (p : Packet)
  | ckptChunk
  | ckptResend
  | restoreBegin (p : Packet)
  | restoreData (p : Packet)
  | restoreEnd (p : Packet)
  | logRead (p : Packet)
  | logAck (p : Packet)
  | inputLogRead (p : Packet)
  | inputLogAck (p : Packet)
  | telemetryRead (p : Packet)
  | faultLogRead (p : Packet)
  | cfgRead (p : Packet)
  | cfgWrite (p : Packet)
  | rootSrcWrite (p : Packet)
  | rootRelock
  | logClear (p : Packet)
  | declare (p : Packet)
  | policyClippedClear (p : Packet)
  | cfgSave (p : Packet)
  | setTime (p : Packet)
  | macsecKey (p : Packet)
  | healthRead (p : Packet)
  | testRun (p : Packet) (failed : List (Fin 8 × Fin 40))
  | attest (p : Packet) (claimEn : Bool)
  | identityRead (p : Packet) (claimEn : Bool)
  | fwBegin (p : Packet)
  | fwData (p : Packet)
  | fwCommit (p : Packet) (readBackOk : Bool)
  | recoveryLoad (p : Packet)
  | recoveryRewriteDone
  | openSpyhole (p : Packet) (debugEn : Bool)
  | notice
  | sessionIdle (session : U16)
  | pendingSessionExpiry (session : U16)
  -- Ethernet
  | pauseFrame (port : Fin 2)
  | neighbourDiscovery (f : Frame) (target : BitVec 128) (src : Nat)
  | arp (f : Frame) (target : U32) (src : Nat)
  | echo (f : Frame) (v6 : Bool) (target : BitVec 128) (src : Nat) (data : Bytes)
  | ptpMessage (f : Frame) (m : PtpHeader) (locked : Bool) (taiNs : U64)
  -- clocks, power, heat
  | fineMonitorGate (src : Source) (gate : FineGate)
  | grossMonitorGate (src : Source) (deviation : Option Int)
  | sourceReadyCount (src : Source)
  | railSettled
  | avsStep (vReqMv : U16)
  | droop
  | powerSample (m : PowerMeasure)
  | dieSensorSample (readings : List (BitVec 16))
  | stackSensorSample (stack : Fin 20) (reading : BitVec 16)
  | coolantSample (inlet outlet : BitVec 16) (flow : Nat)
  -- tests and health
  | drawRingWindow (core : Fin 8)
  | testSliceDone (core : Fin 8) (pass : Bool) (detail : U32) (ecc : Bool)
  | healthRecordWrite
  | trngFail
  -- power input, reset and start-up
  | inputPowerOn
  | inrushEnd
  | inputUnderVoltage
  | pwrEnRise
  | pwrOk
  | pwrEnFall
  | railFault (rail : Fin 9)
  | sb3v3Loss
  | resetNLow
  | resetNRise (straps : Straps)
  | bootRom
  | firmwareLoad
  | recovery
  | rootLock
  | hbmTraining
  | powerOnPass (failed : List (Fin 8 × Fin 40))
  | linkTraining (ports : List PortTraining)
  | clockFollow (depth : BitVec 6)
  | unfollowed
  | channelMeasurement (ports : List PortMeasure) (parentWall : U64)
  | ready (ms : U32)
  | stageOverrun
  -- test access port and spy-hole
  | extest
  | idcode
  | samplePreload
  | clamp
  | highz
  | bypass
  | acExtest
  | trstN
  | spyScan (core : Byte) (unit : U16) (addr : U32)
  | spyFrozenState (core : Byte) (unit : U16) (addr : U32)
  | spyTrace (core : Byte) (unit : U16) (addr : U32)
  | spyData
  -- dropped packets, Ethernet links, pins
  | ingressDrop (port : Fin 2)
  | badTag (p : Packet)
  | badOpcode (p : Packet) (opcode : U16)
  | ethLinkUp (port : Fin 2)
  | ethLinkDown (port : Fin 2)
  | s1Break
  | sb3v3Return
deriving DecidableEq, Repr

end Sys2Proof
end

