-- ==== Sys2Proof/Decode.lean ====
section
/-! DEFINITION. Decoding: opcode_table.json gives no row bits, so no word spells a command. The fields of stream words are read in
Machine/Operands.lean, by the command that they come with. -/
namespace Sys2Proof

/-- The command that a word spells by the table's bits: none, since no row has bits. -/
def decodeTableWord (_nbits _w : Nat) : Option Instr := none

end Sys2Proof
end

