-- ==== Sys2Proof/Machine/Bits.lean ====
section
/-! DEFINITION. Byte order, bit fields and sparse tables: the helpers that read and build the manual's layouts (R6). -/
namespace Sys2Proof.Machine

/-- The number that bytes spell, least significant byte first (memory and flash records, R6). -/
def leNat : Bytes → Nat
  | [] => 0
  | b :: bs => b.toNat + 256 * leNat bs

/-- `k` bytes of `n`, least significant byte first (R6). -/
def leBytes : Nat → Nat → Bytes
  | 0, _ => []
  | k + 1, n => BitVec.ofNat 8 n :: leBytes k (n / 256)

/-- The number that bytes spell, most significant byte first (packets, R6). -/
def beNat (bs : Bytes) : Nat := leNat bs.reverse

/-- `k` bytes of `n`, most significant byte first (R6). -/
def beBytes (k n : Nat) : Bytes := (leBytes k n).reverse

/-- Field of `len` bits at bit `lo` of `x` (R6). -/
def field (x lo len : Nat) : Nat := x / 2 ^ lo % 2 ^ len

/-- Bit `k` of `x`. -/
def bitAt (x k : Nat) : Bool := x / 2 ^ k % 2 == 1

/-- The two's-complement value of the low `w` bits of `x` (R10). -/
def toSigned (w x : Nat) : Int :=
  let y := x % 2 ^ w
  if y < 2 ^ (w - 1) then (y : Int) else (y : Int) - (2 ^ w : Nat)

/-- The low `w` bits of an integer in two's complement (R10). -/
def ofSigned (w : Nat) (x : Int) : Nat := (x % (2 ^ w : Nat)).toNat

/-- The bytes `off` to `off + len − 1` of a byte string; bytes past its end read 0. -/
def slice (off len : Nat) (bs : Bytes) : Bytes :=
  let t := (bs.drop off).take len
  t ++ List.replicate (len - t.length) 0

/-- Little-endian field of `k` bytes at `off`. -/
def leAt (bs : Bytes) (off k : Nat) : Nat := leNat (slice off k bs)

/-- Big-endian field of `k` bytes at `off`. -/
def beAt (bs : Bytes) (off k : Nat) : Nat := beNat (slice off k bs)

/-- All bytes of a range are 0 (reserved fields). -/
def zeroAt (bs : Bytes) (off k : Nat) : Bool := leAt bs off k == 0

/-- A byte string cut or padded with 0 to `n` bytes. -/
def padTo (n : Nat) (bs : Bytes) : Bytes := slice 0 n bs

/-- `a` rounded up to a multiple of `m`. -/
def roundUp (a m : Nat) : Nat := (a + m - 1) / m * m

/-- Quotient rounded up. -/
def ceilDiv (a b : Nat) : Nat := (a + b - 1) / b

/-- Saturating count of a register field of `w` bits (R254, R290, R329). -/
def satInc {w : Nat} (x : BitVec w) : BitVec w := if x == BitVec.allOnes w then x else x + 1

/-- 16 bits as bytes, least significant first. -/
def le16 (n : Nat) : Bytes := leBytes 2 n
def le32 (n : Nat) : Bytes := leBytes 4 n
def le64 (n : Nat) : Bytes := leBytes 8 n
def be16 (n : Nat) : Bytes := beBytes 2 n
def be32 (n : Nat) : Bytes := beBytes 4 n
def be64 (n : Nat) : Bytes := beBytes 8 n

/-- One byte of a number. -/
def u8 (n : Nat) : Bytes := [BitVec.ofNat 8 n]

/-- A Boolean as a bit. -/
def bit (b : Bool) : Nat := if b then 1 else 0

/-- Sum of `f i` for `i < n`. -/
def sumBelow (n : Nat) (f : Nat → Nat) : Nat := (List.range n).foldl (fun a i => a + f i) 0

/-- Entry of a sparse table at a key, or the default. -/
def tabGet {α : Type} (d : α) (k : Nat) : List (Nat × α) → α
  | [] => d
  | (k', v) :: t => if k' = k then v else tabGet d k t

/-- Sparse table with one entry set; keys stay in rising order. -/
def tabSet {α : Type} (k : Nat) (v : α) : List (Nat × α) → List (Nat × α)
  | [] => [(k, v)]
  | (k', v') :: t => if k = k' then (k, v) :: t else if k < k' then (k, v) :: (k', v') :: t else (k', v') :: tabSet k v t

/-- Sparse table without a key. -/
def tabDel {α : Type} (k : Nat) (t : List (Nat × α)) : List (Nat × α) := t.filter (fun p => p.1 != k)

/-- The first index of a list, from a start, whose entry satisfies `p`. -/
def findIdxFrom {α : Type} (p : α → Bool) : Nat → List α → Option Nat
  | _, [] => none
  | i, a :: t => if p a then some i else findIdxFrom p (i + 1) t

/-- Replace entry `i` of a list. -/
def setAt {α : Type} (l : List α) (i : Nat) (a : α) : List α := l.set i a

/-- The pieces of `n` elements of a list (the last may be short), at most `fuel` of them. -/
def chunksFuel {α : Type} (n : Nat) : Nat → List α → List (List α)
  | 0, _ => []
  | fuel + 1, l => if l.isEmpty then [] else l.take n :: chunksFuel n fuel (l.drop n)

def chunks {α : Type} (n : Nat) (l : List α) : List (List α) := chunksFuel n l.length l

end Sys2Proof.Machine
end

