-- ==== Sys2Proof/Machine/Crc.lean ====
section
/-! DEFINITION. CRC-32C as R239 states it: polynomial 0x1EDC_6F41, reflected input and output, initial value and final XOR
0xFFFF_FFFF. -/
namespace Sys2Proof.Machine

/-- One reflected shift step; 0x82F6_3B78 is the reflected polynomial. -/
def crcBit (c : U32) : U32 := if c.getLsbD 0 then (c >>> 1) ^^^ 0x82F63B78#32 else c >>> 1

/-- One byte into the CRC register. -/
def crcByte (c : U32) (b : Byte) : U32 :=
  let x := c ^^^ b.setWidth 32
  crcBit (crcBit (crcBit (crcBit (crcBit (crcBit (crcBit (crcBit x)))))))

/-- CRC-32C of a byte string (R239). -/
def crc32c (bs : Bytes) : U32 := (bs.foldl crcByte 0xFFFFFFFF#32) ^^^ 0xFFFFFFFF#32

end Sys2Proof.Machine
end

