-- ==== Sys2Proof/Machine/Sha.lean ====
section
/-! DEFINITION. SHA-256 (FIPS 180-4) and HMAC-SHA-256 (FIPS 198-1), the standards that R51, R201, R299 and R396 name. -/
namespace Sys2Proof.Machine

/-- The round constants of FIPS 180-4. -/
def shaK : List U32 :=
  [0x428A2F98#32, 0x71374491#32, 0xB5C0FBCF#32, 0xE9B5DBA5#32, 0x3956C25B#32, 0x59F111F1#32, 0x923F82A4#32, 0xAB1C5ED5#32] ++
  [0xD807AA98#32, 0x12835B01#32, 0x243185BE#32, 0x550C7DC3#32, 0x72BE5D74#32, 0x80DEB1FE#32, 0x9BDC06A7#32, 0xC19BF174#32] ++
  [0xE49B69C1#32, 0xEFBE4786#32, 0x0FC19DC6#32, 0x240CA1CC#32, 0x2DE92C6F#32, 0x4A7484AA#32, 0x5CB0A9DC#32, 0x76F988DA#32] ++
  [0x983E5152#32, 0xA831C66D#32, 0xB00327C8#32, 0xBF597FC7#32, 0xC6E00BF3#32, 0xD5A79147#32, 0x06CA6351#32, 0x14292967#32] ++
  [0x27B70A85#32, 0x2E1B2138#32, 0x4D2C6DFC#32, 0x53380D13#32, 0x650A7354#32, 0x766A0ABB#32, 0x81C2C92E#32, 0x92722C85#32] ++
  [0xA2BFE8A1#32, 0xA81A664B#32, 0xC24B8B70#32, 0xC76C51A3#32, 0xD192E819#32, 0xD6990624#32, 0xF40E3585#32, 0x106AA070#32] ++
  [0x19A4C116#32, 0x1E376C08#32, 0x2748774C#32, 0x34B0BCB5#32, 0x391C0CB3#32, 0x4ED8AA4A#32, 0x5B9CCA4F#32, 0x682E6FF3#32] ++
  [0x748F82EE#32, 0x78A5636F#32, 0x84C87814#32, 0x8CC70208#32, 0x90BEFFFA#32, 0xA4506CEB#32, 0xBEF9A3F7#32, 0xC67178F2#32]

/-- The initial hash value of FIPS 180-4. -/
def shaInit : List U32 := [0x6A09E667#32, 0xBB67AE85#32, 0x3C6EF372#32, 0xA54FF53A#32, 0x510E527F#32, 0x9B05688C#32, 0x1F83D9AB#32, 0x5BE0CD19#32]

def rotr (x : U32) (n : Nat) : U32 := (x >>> n) ||| (x <<< (32 - n))
def shaCh (x y z : U32) : U32 := (x &&& y) ^^^ (~~~x &&& z)
def shaMaj (x y z : U32) : U32 := (x &&& y) ^^^ (x &&& z) ^^^ (y &&& z)
def shaBig0 (x : U32) : U32 := rotr x 2 ^^^ rotr x 13 ^^^ rotr x 22
def shaBig1 (x : U32) : U32 := rotr x 6 ^^^ rotr x 11 ^^^ rotr x 25
def shaSmall0 (x : U32) : U32 := rotr x 7 ^^^ rotr x 18 ^^^ (x >>> 3)
def shaSmall1 (x : U32) : U32 := rotr x 17 ^^^ rotr x 19 ^^^ (x >>> 10)

/-- The message schedule, newest word first, extended by `n` words. -/
def shaExtend : Nat → List U32 → List U32
  | 0, w => w
  | n + 1, w =>
    shaExtend n ((shaSmall1 (w.getD 1 0) + w.getD 6 0 + shaSmall0 (w.getD 14 0) + w.getD 15 0) :: w)

/-- The working variables a to h. -/
structure ShaVars where
  a : U32
  b : U32
  c : U32
  d : U32
  e : U32
  f : U32
  g : U32
  h : U32

/-- One round. -/
def shaRound (v : ShaVars) (kw : U32 × U32) : ShaVars :=
  let t1 := v.h + shaBig1 v.e + shaCh v.e v.f v.g + kw.1 + kw.2
  let t2 := shaBig0 v.a + shaMaj v.a v.b v.c
  ⟨t1 + t2, v.a, v.b, v.c, v.d + t1, v.e, v.f, v.g⟩

/-- One 64-byte block into a hash value of eight words. -/
def shaBlock (hv : List U32) (blk : Bytes) : List U32 :=
  let w0 := (chunks 4 (padTo 64 blk)).map (fun c => BitVec.ofNat 32 (beNat c))
  let w := (shaExtend 48 w0.reverse).reverse
  let g := fun i => hv.getD i 0
  let v := (shaK.zip w).foldl shaRound ⟨g 0, g 1, g 2, g 3, g 4, g 5, g 6, g 7⟩
  [g 0 + v.a, g 1 + v.b, g 2 + v.c, g 3 + v.d, g 4 + v.e, g 5 + v.f, g 6 + v.g, g 7 + v.h]

/-- The padding of a message of `n` bytes. -/
def shaPad (n : Nat) : Bytes :=
  (0x80 : Byte) :: (List.replicate ((119 - n % 64) % 64) 0 ++ be64 (8 * n))

/-- The digest bytes of a hash value. -/
def shaDigest (hv : List U32) : Bytes := hv.flatMap (fun x => be32 x.toNat)

/-- SHA-256 of a byte string. -/
def sha256 (m : Bytes) : Bytes :=
  shaDigest ((chunks 64 (m ++ shaPad m.length)).foldl shaBlock shaInit)

/-- HMAC-SHA-256. -/
def hmac (key msg : Bytes) : Bytes :=
  let k := padTo 64 (if key.length > 64 then sha256 key else key)
  let ip := k.map (fun b => b ^^^ (0x36 : Byte))
  let op := k.map (fun b => b ^^^ (0x5C : Byte))
  sha256 (op ++ sha256 (ip ++ msg))

/-- The bytes of an ASCII label (R304, R397). -/
def ascii (s : String) : Bytes := s.toList.map (fun c => BitVec.ofNat 8 c.toNat)

end Sys2Proof.Machine
end

