-- ==== Sys2Proof/Config.lean ====
section
/-! DEFINITION. What one part or stepping fixes, and the free values: constants without a body, so that no proof can see
their value (log 1, log 4). -/
namespace Sys2Proof.Config

/-- ORG_ID.STEP_MAJOR and STEP_MINOR of the stepping (R24). -/
opaque stepMajor : BitVec 4
opaque stepMinor : BitVec 4
/-- ORG_ID.LC_MASK above bit 0; bit 0 is set on every stepping (R24). -/
opaque lcMaskUpper : BitVec 7
/-- Fuses of the part (R385). -/
opaque deviceSeed : Bytes
opaque deviceId : Bytes
opaque fwKeyHash : Bytes
opaque serial : U64
opaque macBase : BitVec 48
/-- V_FLOOR of the part at an operating point, in mV (R385 TRIM, R343). -/
opaque vFloorMv : Nat → U16
/-- The firmware image that the flash of the part holds as shipped (R386). -/
opaque shippedFirmware : Bytes
/-- SHA-256 of the Tchirok issuing public key and the certificate signature (R398). -/
opaque deviceCertificate : Bytes
/-- The device nonces that the TRNG draws (R303, R396): free values, drawn with the counter `State.free`. -/
opaque trngBytes : Nat → Bytes
/-- Data that the manual leaves undefined, such as what a BUSY read port gets (R231): free, by counter and index. -/
opaque freeByte : Nat → Nat → Byte
/-- What a scan through the spy-hole port shows of a unit, whose layout the manual does not give (R402): by counter. -/
opaque spyWord : Nat → U64
/-- A free 32-bit value, by counter. -/
opaque freeWord : Nat → U32
/-- SLH-DSA-SHA2-192s verification (FIPS 205): public key, message, signature (R388). -/
opaque slhVerify192s : Bytes → Bytes → Bytes → Bool
/-- SLH-DSA-SHA2-128f verification: public key, message, signature (R366). -/
opaque slhVerify128f : Bytes → Bytes → Bytes → Bool
/-- SLH-DSA-SHA2-128f signing, deterministic: SK.seed, SK.prf, PK.seed, message (R396). -/
opaque slhSign128f : Bytes → Bytes → Bytes → Bytes → Bytes
/-- The public key of SK.seed, SK.prf, PK.seed (R397). -/
opaque slhPublic128f : Bytes → Bytes → Bytes → Bytes

/-- What a chain reads of a stream that its descriptor declares absent (R210, R212): by row and column. -/
opaque absentStream : Nat → Nat → Nat
/-- Where the regions of an image hold the committed state, which no section says (R370, R375): by image digest, for each tensor its
id, a region of its pair, and its tiles as global and local index, in ascending global index. -/
opaque shelfTensors : Bytes → List (Nat × Nat × List (Nat × Nat))
/-- Where an image holds its fingerprint tables, which no section says (R201): region and offset of the parameter table and of the
ledger table, by image digest. -/
opaque fprintTables : Bytes → (Nat × Nat) × (Nat × Nat)
/-- Payload of a GET request flit, which the manual leaves open (R265 to R268): from the head word and the continuation word. -/
opaque getRequest : BitVec 128 → BitVec 128 → Bytes
/-- What a GET request flit asks for: region, view, byte offset and length in 64-byte units. -/
opaque getFields : Bytes → Nat × Nat × Nat × Nat
/-- Payload of a control flit, which the manual leaves open (R261, R282, R394): what it reports (0 a failed lane, 1 LOCKED, 2 rc count
and identity) and its values. -/
opaque controlPayload : Nat → List Nat → Bytes
/-- The idle pattern, which fills what a flit does not use of its 256 bytes (R257, R258, R271): by byte of the payload. -/
opaque idlePattern : Nat → Byte
/-- Whether two accesses of ports whose fc the manual does not fix fall into one fc of their ac (R109, R205, R230): from the ac and the
port and first word of each. -/
opaque sharedFc : Nat → Nat → Nat → Nat → Nat → Bool
/-- OPCODE of a notice, which the manual leaves open (R298, R301). -/
opaque noticeOpcode : Nat

end Sys2Proof.Config
end

