-- ==== Sys2Proof/Machine/Num.lean ====
section
/-! DEFINITION. Number formats, their decoding and every rounding into them (R122, R123, R143, R144, R149), and f32
arithmetic (R10, R215). Values are exact: a finite value is ±m·2^e. -/
namespace Sys2Proof.Machine

/-- A floating-point format of R122: exponent bits, mantissa bits, bias, and the code of its largest finite magnitude. -/
structure FloatFmt where
  eb : Nat
  mb : Nat
  bias : Nat
  maxCode : Nat
  signed : Bool
deriving DecidableEq, Repr

def fE4M3 : FloatFmt := ⟨4, 3, 7, 0x7E, true⟩
def fE5M2 : FloatFmt := ⟨5, 2, 15, 0x7B, true⟩
def fE3M2 : FloatFmt := ⟨3, 2, 3, 0x1F, true⟩
def fE2M3 : FloatFmt := ⟨2, 3, 1, 0x1F, true⟩
def fE2M1 : FloatFmt := ⟨2, 1, 1, 0x7, true⟩
def fU8E5M3 : FloatFmt := ⟨5, 3, 15, 0xFE, false⟩
def fBF16 : FloatFmt := ⟨8, 7, 127, 0x7F7F, true⟩
def fFP16 : FloatFmt := ⟨5, 10, 15, 0x7BFF, true⟩
def fFP32 : FloatFmt := ⟨8, 23, 127, 0x7F7FFFFF, true⟩

/-- An exact value: a NaN with its f32 cause code (R149), an infinity, or ±m·2^e with signed zeros. -/
inductive Val where
  | nan (cause : Nat)
  | inf (neg : Bool)
  | fin (neg : Bool) (m : Nat) (e : Int)
deriving DecidableEq, Repr

/-- The f32 canonical NaNs of R149. -/
def nanInvalid : Nat := 0x7FC00100
def nanOperation : Nat := 0x7FC00200
def nanOperand : Nat := 0x7FC00300
def nanBlock : Nat := 0x7FC00400
def nanEmptyMean : Nat := 0x7FC00E00

def Val.isNan : Val → Bool
  | .nan _ => true
  | _ => false

def Val.isFin : Val → Bool
  | .fin _ _ _ => true
  | _ => false

/-- The sign of a value. -/
def Val.neg : Val → Bool
  | .nan _ => false
  | .inf n => n
  | .fin n _ _ => n

def Val.isZero : Val → Bool
  | .fin _ 0 _ => true
  | _ => false

/-- The value scaled by 2^k. -/
def Val.scale (k : Int) : Val → Val
  | .fin n m e => .fin n m (e + k)
  | v => v

/-- A signed integer times 2^e. -/
def Val.ofInt (x : Int) (e : Int := 0) : Val := .fin (decide (x < 0)) x.natAbs e

/-- Magnitude code of a finite encoding split into significand and exponent. -/
def FloatFmt.splitCode (f : FloatFmt) (code : Nat) : Nat × Int :=
  let ex := code / 2 ^ f.mb
  let man := code % 2 ^ f.mb
  if ex = 0 then (man, (1 : Int) - f.bias - f.mb) else (2 ^ f.mb + man, (ex : Int) - f.bias - f.mb)

/-- Bits of an encoding, sign included. -/
def FloatFmt.width (f : FloatFmt) : Nat := f.eb + f.mb + (if f.signed then 1 else 0)

/-- floor(log2 (n / d)) of a positive quotient. -/
def floorLog2 (n d : Nat) : Int :=
  let k : Int := (Nat.log2 n : Int) - (Nat.log2 d : Int)
  let lt := if k ≥ 0 then decide (n < d * 2 ^ k.toNat) else decide (n * 2 ^ (-k).toNat < d)
  if lt then k - 1 else k

/-- n / d · 2^k as an integer quotient and remainder over a denominator. -/
def scaledDiv (n d : Nat) (k : Int) : Nat × Nat × Nat :=
  let n' := if k ≥ 0 then n * 2 ^ k.toNat else n
  let d' := if k ≥ 0 then d else d * 2 ^ (-k).toNat
  (n' / d', n' % d', d')

/-- Round half to even, from quotient, remainder and denominator. -/
def rneOf (q : Nat × Nat × Nat) : Nat :=
  let (i, r, d) := q
  if 2 * r < d then i else if d < 2 * r then i + 1 else if i % 2 = 0 then i else i + 1

/-- How a value is rounded: to nearest even, or by a keyed 32-bit draw (R144). -/
inductive Rounding where
  | nearest
  | draw (u : Nat)
deriving DecidableEq, Repr

/-- The magnitude code of n/d rounded into a format, unbounded above (R143, R144); `neg` is the sign of the value, which
decides which neighbour is the lower one. -/
def FloatFmt.roundCode (f : FloatFmt) (r : Rounding) (neg : Bool) (n d : Nat) : Nat :=
  if n = 0 then 0 else
  let emin : Int := (1 : Int) - f.bias
  let ex := max (floorLog2 n d) emin
  let (i, rem, den) := scaledDiv n d ((f.mb : Int) - ex)
  let base := (ex - emin).toNat * 2 ^ f.mb
  match r with
  | .nearest => base + rneOf (i, rem, den)
  | .draw u =>
    if rem = 0 then base + i
    else if neg then
      -- lo = −(i+1), hi = −i: the result is hi when u < f
      let fr := (2 ^ 32 * (den - rem)) / den
      if u < fr then base + i else base + i + 1
    else
      let fr := (2 ^ 32 * rem) / den
      if u < fr then base + i + 1 else base + i

/-- A rounded, saturating conversion: the code of the magnitude and whether the largest finite magnitude was exceeded. With
a draw, saturation is judged on the exact value (R144). -/
def FloatFmt.roundSat (f : FloatFmt) (r : Rounding) (neg : Bool) (n d : Nat) : Nat × Bool :=
  let c := f.roundCode r neg n d
  let above := match r with
    | .nearest => decide (f.maxCode < c)
    | .draw _ =>
      let (m, e) := f.splitCode f.maxCode
      let (i, rem, _) := scaledDiv n d (-e)
      decide (m < i) || (i == m && rem != 0)
  if above then (f.maxCode, true) else (min c f.maxCode, false)

/-- A non-negative value m·2^e as a fraction. -/
def dyNum (m : Nat) (e : Int) : Nat := if e ≥ 0 then m * 2 ^ e.toNat else m
def dyDen (e : Int) : Nat := if e ≥ 0 then 1 else 2 ^ (-e).toNat

/-- Put the sign on a magnitude code. -/
def FloatFmt.withSign (f : FloatFmt) (neg : Bool) (code : Nat) : Nat :=
  if neg && f.signed then 2 ^ (f.eb + f.mb) + code else code

/-! ### f32 -/

/-- An f32 bit pattern as a value; any NaN is an operand NaN. -/
def f32Val (x : Nat) : Val :=
  let neg := bitAt x 31
  let code := x % 2 ^ 31
  if code = 0x7F800000 then .inf neg
  else if code > 0x7F800000 then .nan nanOperand
  else let (m, e) := fFP32.splitCode code; .fin neg m e

/-- The f32 nearest to ±n/d, IEEE overflow to infinity (R10). -/
def f32Round (neg : Bool) (n d : Nat) : Nat :=
  let c := fFP32.roundCode .nearest neg n d
  let c := if c ≥ 0x7F800000 then 0x7F800000 else c
  fFP32.withSign neg c

/-- The f32 of a value, with the cause of a NaN kept. -/
def f32Of : Val → Nat
  | .nan c => c
  | .inf neg => fFP32.withSign neg 0x7F800000
  | .fin neg m e => f32Round neg (dyNum m e) (dyDen e)

/-- Exact sum of two finite values as integer times 2^e; a zero sum is +0 unless both are −0. -/
def finAdd (na : Bool) (ma : Nat) (ea : Int) (nb : Bool) (mb : Nat) (eb : Int) : Val :=
  let e := min ea eb
  let x : Int := (if na then -1 else 1) * ((ma : Int) * 2 ^ (ea - e).toNat)
  let y : Int := (if nb then -1 else 1) * ((mb : Int) * 2 ^ (eb - e).toNat)
  let s := x + y
  if s = 0 then .fin (na && nb) 0 0 else .fin (decide (s < 0)) s.natAbs e

/-- A NaN operand gives 0x7FC0_0300 (R215). -/
def f32Bin (op : Val → Val → Val) (a b : Nat) : Nat :=
  match f32Val a, f32Val b with
  | .nan _, _ => nanOperand
  | _, .nan _ => nanOperand
  | x, y => f32Of (op x y)

def vAdd : Val → Val → Val
  | .inf n, .inf m => if n = m then .inf n else .nan nanOperation
  | .inf n, _ => .inf n
  | _, .inf n => .inf n
  | .fin na ma ea, .fin nb mb eb => finAdd na ma ea nb mb eb
  | .nan c, _ => .nan c
  | _, .nan c => .nan c

def vNeg : Val → Val
  | .fin n m e => .fin (!n) m e
  | .inf n => .inf (!n)
  | v => v

def vMul : Val → Val → Val
  | .nan c, _ => .nan c
  | _, .nan c => .nan c
  | .inf n, .inf m => .inf (n != m)
  | .inf n, .fin m x _ => if x = 0 then .nan nanOperation else .inf (n != m)
  | .fin m x _, .inf n => if x = 0 then .nan nanOperation else .inf (n != m)
  | .fin na ma ea, .fin nb mb eb => .fin (na != nb) (ma * mb) (ea + eb)

/-- f32 addition, subtraction and multiplication, correctly rounded (R215). -/
def f32Add (a b : Nat) : Nat := f32Bin vAdd a b
def f32Sub (a b : Nat) : Nat := f32Bin (fun x y => vAdd x (vNeg y)) a b
def f32Mul (a b : Nat) : Nat := f32Bin vMul a b

/-- f32 division, correctly rounded (R215). -/
def f32Div (a b : Nat) : Nat :=
  match f32Val a, f32Val b with
  | .nan _, _ => nanOperand
  | _, .nan _ => nanOperand
  | .inf _, .inf _ => nanOperation
  | .inf n, .fin m _ _ => fFP32.withSign (n != m) 0x7F800000
  | .fin n _ _, .inf m => fFP32.withSign (n != m) 0
  | .fin n ma ea, .fin m mb eb =>
    if mb = 0 then (if ma = 0 then nanOperation else fFP32.withSign (n != m) 0x7F800000)
    else f32Round (n != m) (dyNum ma ea * dyDen eb) (dyNum mb eb * dyDen ea)

/-- Integer square root by bits: the largest r with r·r ≤ n, by binary search over `fuel` bits. -/
def isqrtBits (n : Nat) : Nat → Nat → Nat
  | 0, r => r
  | k + 1, r =>
    let r' := r + 2 ^ k
    if r' * r' ≤ n then isqrtBits n k r' else isqrtBits n k r

def isqrt (n : Nat) : Nat := isqrtBits n (Nat.log2 n / 2 + 1) 0

/-- The square root of n/d rounded once to f32: a root of 2·60 more bits with a sticky bit below it decides every rounding,
because a root is never a tie (it would need a significand of 49 bits or fewer). -/
def f32SqrtFrac (n d : Nat) : Nat :=
  if n = 0 then 0 else
  -- scale so that n·2^(2k)/d has at least 120 bits
  let k : Nat := 130 + Nat.log2 d
  let q := n * 2 ^ (2 * k) / d
  let r := isqrt q
  let exact := r * r = q ∧ n * 2 ^ (2 * k) % d = 0
  let m := 2 * r + (if exact then 0 else 1)
  f32Round false m (2 ^ (k + 1))

/-- f32 square root, correctly rounded (R215): −0 stays −0, a negative is invalid. -/
def f32Sqrt (a : Nat) : Nat :=
  match f32Val a with
  | .nan _ => nanOperand
  | .inf n => if n then nanOperation else 0x7F800000
  | .fin n m e => if m = 0 then a else if n then nanOperation else f32SqrtFrac (dyNum m e) (dyDen e)

/-- f32 reciprocal root, correctly rounded (R215). -/
def f32Rsqrt (a : Nat) : Nat :=
  match f32Val a with
  | .nan _ => nanOperand
  | .inf n => if n then nanOperation else 0
  | .fin n m e =>
    if m = 0 then fFP32.withSign n 0x7F800000
    else if n then nanOperation else f32SqrtFrac (dyDen e) (dyNum m e)

/-- Sign changes work on the bit (R215). -/
def f32Neg (a : Nat) : Nat :=
  match f32Val a with
  | .nan _ => nanOperand
  | _ => if a < 2 ^ 31 then a + 2 ^ 31 else a - 2 ^ 31

def f32Abs (a : Nat) : Nat :=
  match f32Val a with
  | .nan _ => nanOperand
  | _ => a % 2 ^ 31

/-- A total order of non-NaN f32 patterns with −0 below +0 (R215). -/
def f32Key (a : Nat) : Int := if a < 2 ^ 31 then (a : Int) else -((a - 2 ^ 31 : Nat) : Int) - 1

def f32Max (a b : Nat) : Nat :=
  if (f32Val a).isNan || (f32Val b).isNan then nanOperand else if f32Key a < f32Key b then b else a

def f32Min (a b : Nat) : Nat :=
  if (f32Val a).isNan || (f32Val b).isNan then nanOperand else if f32Key b < f32Key a then b else a

/-- Numerical comparisons; a NaN compares false, and the zeros are equal. -/
def f32Lt (a b : Nat) : Bool :=
  match f32Val a, f32Val b with
  | .nan _, _ => false
  | _, .nan _ => false
  | x, y => if x.isZero && y.isZero then false else decide (f32Key a < f32Key b)

def f32EqNum (a b : Nat) : Bool :=
  match f32Val a, f32Val b with
  | .nan _, _ => false
  | _, .nan _ => false
  | x, y => (x.isZero && y.isZero) || a == b

/-- The f32 of an integer, rounded to nearest even. -/
def f32OfInt (x : Int) : Nat := f32Round (decide (x < 0)) x.natAbs 1

/-- Largest integral f32 not above a (R215 FLOOR). -/
def f32Floor (a : Nat) : Nat :=
  match f32Val a with
  | .nan _ => nanOperand
  | .inf _ => a
  | .fin n m e =>
    if m = 0 then a
    else if e ≥ 0 then a
    else
      let x : Int := if n then -(m : Int) else m
      let q := x / (2 ^ (-e).toNat : Nat)
      if q = 0 then fFP32.withSign n 0 else f32OfInt q

/-- The nearest integer of a finite f32, half to even. -/
def f32ToIntRne (a : Nat) : Int :=
  match f32Val a with
  | .fin n m e =>
    let q := rneOf (scaledDiv m 1 e)
    if n then -(q : Int) else q
  | _ => 0

def f32One : Nat := 0x3F800000
def f32MaxFinite : Nat := 0x7F7FFFFF

/-! ### Stored elements (R115, R211) -/

/-- The format codes of R211 (0 to 8 agree with R115). -/
def fmtOf : Nat → Option FloatFmt
  | 0 => some fE4M3 | 1 => some fE5M2 | 2 => some fE4M3 | 3 => some fE5M2 | 4 => some fE3M2 | 5 => some fE2M3
  | 6 => some fE2M1 | 7 => some fBF16 | 8 => some fFP16 | 10 => some fFP32 | 11 => some fU8E5M3
  | _ => none

/-- Stored bits per element of a code (R115, R211). -/
def fmtBits : Nat → Nat
  | 4 => 6 | 5 => 6 | 6 => 4 | 7 => 16 | 8 => 16 | 10 => 32 | 12 => 128 | 13 => 64 | 14 => 32 | 15 => 32
  | _ => 8

/-- Codes with an E8M0 scale per 32 elements. -/
def fmtScaled (c : Nat) : Bool := decide (2 ≤ c ∧ c ≤ 6) || c == 9

/-- The value of a stored element without its block scale (R122, R123, R427, R431). -/
def elemVal (code bits : Nat) : Val :=
  match code with
  | 9 => Val.ofInt (toSigned 8 bits) (-6)
  | 13 => Val.ofInt (toSigned 48 bits)
  | 14 => Val.ofInt (toSigned 32 bits)
  | 15 => Val.ofInt bits
  | _ =>
    match fmtOf code with
    | none => .fin false 0 0
    | some f =>
      let neg := f.signed && bitAt bits (f.eb + f.mb)
      let c := bits % 2 ^ (f.eb + f.mb)
      if c ≤ f.maxCode then let (m, e) := f.splitCode c; .fin neg m e
      else if (code = 1 ∨ code = 3 ∨ code = 7 ∨ code = 8 ∨ code = 10) ∧ c = f.maxCode + 1 then .inf neg
      else if code = 4 ∨ code = 5 ∨ code = 6 then .fin neg 0 0
      else .nan nanOperand

/-- An element of an MX block with its E8M0 scale field; 0xFF makes it NaN (R124, R214). -/
def scaledVal (v : Val) (scale : Nat) : Val :=
  if scale = 0xFF then .nan nanBlock else v.scale ((scale : Int) - 127)

/-- Canonical NaN code of an output format (R149); formats without a NaN give 0. -/
def canonicalNan (code cause : Nat) : Nat :=
  match code with
  | 0 => 0x7F | 1 => 0x7E | 2 => 0x7F | 3 => 0x7E | 7 => 0x7FC0 | 8 => 0x7E00 | 10 => cause | 11 => 0xFF
  | _ => 0

/-- emax of the block scale rule for a vector output code (R194, R214). -/
def fmtEmax : Nat → Int
  | 2 => 8 | 3 => 15 | 4 => 4 | 5 => 2 | 6 => 2 | _ => 0

/-- Element `i` of `w` bits in a dense stream of bytes from an address: its bits (R115). -/
def denseBits (rd : Nat → Byte) (addr w i : Nat) : Nat :=
  let b0 := i * w / 8
  let sh := i * w % 8
  let n := ceilDiv (sh + w) 8
  leNat ((List.range n).map (fun k => rd (addr + b0 + k))) / 2 ^ sh % 2 ^ w

end Sys2Proof.Machine
end

