-- ==== Sys2Proof/Machine/Acc.lean ====
section
/-! DEFINITION. Order-free accumulation: contributions, the 120-bit lane, ACC96 records and every exit from a lane
(R125 to R134, R137, R142 to R147, R154). -/
namespace Sys2Proof.Machine

/-- A lane: the 120-bit integer T and the flags INV and CLAMP (R126). -/
structure Lane where
  t : BitVec 120
  inv : Bool
  clamp : Bool
deriving DecidableEq, Repr

def Lane.zero : Lane := ⟨0, false, false⟩

/-- floor(m·2^e / 2^(A − 72)) (R130, R131). -/
def floorAt (a : Int) (m : Int) (e : Int) : Int :=
  let sh := e - (a - 72)
  if sh ≥ 0 then m * 2 ^ sh.toNat else m / (2 ^ (-sh).toNat : Nat)

/-- A contribution outside ACC96 is replaced by the nearer end and sets CLAMP (R132). -/
def clampContribution (c : Int) : Int × Bool :=
  if c > 2 ^ 95 - 1 then (2 ^ 95 - 1, true) else if c < -(2 ^ 95) then (-(2 ^ 95), true) else (c, false)

/-- Add one contribution (R126, R132). -/
def Lane.addInt (l : Lane) (c : Int) : Lane :=
  let (c', k) := clampContribution c
  ⟨l.t + BitVec.ofInt 120 c', l.inv, l.clamp || k⟩

/-- Add the exact value of one element or product as a contribution; a NaN or infinity makes the lane invalid
(R125, R131). -/
def Lane.addVal (a : Int) (l : Lane) (v : Val) : Lane :=
  match v with
  | .fin n m e => l.addInt (floorAt a (if n then -(m : Int) else m) e)
  | _ => { l with inv := true }

/-- Add an ACC96 record or another lane (R127, R134). -/
def Lane.addLane (l r : Lane) : Lane := ⟨l.t + r.t, l.inv || r.inv, l.clamp || r.clamp⟩

/-- The 16 bytes of an ACC96 record (R127). -/
def Lane.record (l : Lane) : Bytes :=
  leBytes 15 l.t.toNat ++ u8 (bit l.inv + 2 * bit l.clamp)

/-- A record read back as a lane (R127). -/
def Lane.ofRecord (bs : Bytes) : Lane :=
  let f := leAt bs 15 1
  ⟨BitVec.ofNat 120 (leAt bs 0 15), bitAt f 0, bitAt f 1⟩

/-- Saturation to ACC96 at an exit: Q and OVF (R142). -/
def Lane.saturate (l : Lane) : Int × Bool :=
  let x := l.t.toInt
  if x > 2 ^ 95 - 1 then (2 ^ 95 - 1, true) else if x < -(2 ^ 95) then (-(2 ^ 95), true) else (x, l.clamp)

/-- The bitmap bit that a saturated value sets (R137). -/
def bitmapOf (q : Int) (inv : Bool) : Nat := if q = 0 ∨ inv then 0 else 2 ^ Nat.log2 q.natAbs

/-- The bitmap and status that an output stage ORs into a working slot (R137): bits 1 OVF, 2 INV, 3 FMT_SAT. -/
structure Gather where
  bitmap : Nat
  ovf : Bool
  inv : Bool
  fmtSat : Bool
deriving DecidableEq, Repr

def Gather.none : Gather := ⟨0, false, false, false⟩
def Gather.or (x y : Gather) : Gather :=
  ⟨x.bitmap ||| y.bitmap, x.ovf || y.ovf, x.inv || y.inv, x.fmtSat || y.fmtSat⟩
/-- The status word of a working slot (R137). -/
def Gather.status (g : Gather) : Nat := 2 * bit g.ovf + 4 * bit g.inv + 8 * bit g.fmtSat
/-- The 16 bytes ORed into a working slot (R137). -/
def Gather.slotBytes (g : Gather) : Bytes := leBytes 12 g.bitmap ++ le16 g.status ++ [0, 0]

/-- What leaves a lane: the stored bits and what is gathered. -/
structure Exit where
  bits : Nat
  gather : Gather
deriving DecidableEq, Repr

/-- A value n/d with a sign into a format: the code with its sign (a zero is +0) and FMT_SAT (R143, R144). -/
def roundValue (f : FloatFmt) (r : Rounding) (neg : Bool) (n d : Nat) : Nat × Bool :=
  let (c, sat) := f.roundSat r neg n d
  (if c = 0 then 0 else f.withSign neg c, sat)

/-- Q·2^(A − 72), divided by `cnt`, as a sign and a fraction. -/
def laneFraction (a : Int) (q : Int) (cnt : Nat) : Bool × Nat × Nat :=
  (decide (q < 0), dyNum q.natAbs (a - 72), dyDen (a - 72) * cnt)

/-- Exit into a floating-point output code at anchor A (R142 to R146); `cnt` is the divisor of a mean (R217). -/
def Lane.exitFloat (l : Lane) (a : Int) (code : Nat) (r : Rounding) (cnt : Nat := 1) : Exit :=
  let (q, ovf) := l.saturate
  if l.inv then ⟨canonicalNan code nanInvalid, ⟨0, ovf, true, false⟩⟩ else
  match fmtOf code with
  | none => ⟨0, ⟨bitmapOf q false, ovf, false, false⟩⟩
  | some f =>
    let (neg, n, d) := laneFraction a q cnt
    let (bits, sat) := roundValue f r neg n d
    ⟨bits, ⟨bitmapOf q false, ovf, false, sat⟩⟩

/-- The anchored integer of a saturated value (R147): q and OVF. -/
def anchoredInt (q : Int) : Int × Bool :=
  let x := q / (2 ^ 40 : Nat)
  if x > 2 ^ 47 - 1 then (2 ^ 47 - 1, true) else if x < -(2 ^ 47) then (-(2 ^ 47), true) else (x, false)

/-- The quantum floor and bound of R154; `d` is the quantum, `u` is EXCH_CFG.U. -/
def quantumBound (d u : Nat) (q : Int) : Int × Bool :=
  let q := q / (2 ^ d : Nat) * (2 ^ d : Nat)
  let b : Int := 2 ^ (39 - u)
  if q > b - 2 ^ d then (b - 2 ^ d, true) else if q < -b then (-b, true) else (q, false)

/-- An i48 sum that saturates (R119, R270): the sum and OVF. -/
def i48Add (x y : Int) : Int × Bool :=
  let s := x + y
  if s > 2 ^ 47 - 1 then (2 ^ 47 - 1, true) else if s < -(2 ^ 47) then (-(2 ^ 47), true) else (s, false)

/-- An i48 in 8 bytes: bits [63:48] copy bit 47 on a write (R431). -/
def i48Bytes (x : Int) : Bytes := le64 (ofSigned 64 x)
/-- An i48 read from 8 bytes: bits [63:48] are ignored (R431). -/
def i48Of (bs : Bytes) : Int := toSigned 48 (leNat bs)

/-- log2 of the lane LSB L of a pair of operand formats (R129, codes of R115). -/
def laneLsb (fa fb : Nat) : Int :=
  let e4 := fun c => c == 0 || c == 2
  let e5 := fun c => c == 1 || c == 3
  if e4 fa && e4 fb then -18 else if e5 fa && e5 fb then -10
  else if (e4 fa || e5 fa) && (e4 fb || e5 fb) then -17 else -8

/-- One product floored to a multiple of L, in units of L; none when an operand is NaN or infinite (R125, R129). -/
def groupProduct (lsb : Int) (x y : Val) : Option Int :=
  match vMul x y with
  | .fin n m e =>
    let s : Int := if n then -(m : Int) else m
    let sh := e - lsb
    some (if sh ≥ 0 then s * 2 ^ sh.toNat else s / (2 ^ (-sh).toNat : Nat))
  | _ => none

/-- The contribution of a group sum S with scale exponents sa and sb at anchor A (R130). -/
def groupContribution (lsb sa sb a s : Int) : Int :=
  let sh := lsb + sa + sb - (a - 72)
  if sh ≥ 0 then s * 2 ^ sh.toNat else s / (2 ^ (-sh).toNat : Nat)

end Sys2Proof.Machine
end

