-- ==== Sys2Proof/Machine/Mem.lean ====
section
/-! DEFINITION. Byte memories in one canonical form: addresses strictly rising, and no entry equal to what an unlisted
address reads as (byte 0: DESIGN CHOICE, unsafe, log 2: the manual gives unwritten bytes no defined value, R64). -/
namespace Sys2Proof.Machine

/-- A memory: the bytes that differ from the unlisted value. -/
abbrev Memory := List Host.Cell

namespace Memory

/-- What an unlisted address reads as (DESIGN CHOICE, log 2). -/
def unlisted : Byte := 0

/-- Canonical form, above a bound. -/
def wfFrom : Nat → Memory → Bool
  | _, [] => true
  | lo, (a, b) :: t => decide (lo ≤ a) && b != unlisted && wfFrom (a + 1) t

/-- Canonical form: addresses strictly rise and no entry holds the unlisted value. -/
def wf (m : Memory) : Bool := wfFrom 0 m

/-- One byte. -/
def read : Memory → Nat → Byte
  | [], _ => unlisted
  | (k, b) :: t, a => if k = a then b else read t a

/-- One byte written, the canonical form kept. -/
def write : Memory → Nat → Byte → Memory
  | [], a, v => if v = unlisted then [] else [(a, v)]
  | (k, b) :: t, a, v =>
    if a = k then (if v = unlisted then t else (k, v) :: t)
    else if a < k then (if v = unlisted then (k, b) :: t else (a, v) :: (k, b) :: t)
    else (k, b) :: write t a v

/-- `len` bytes from an address. -/
def readBytes (m : Memory) (a len : Nat) : Bytes := (List.range len).map (fun i => read m (a + i))

/-- Bytes written from an address upward. -/
def writeBytes (m : Memory) (a : Nat) : Bytes → Memory
  | [] => m
  | b :: bs => writeBytes (write m a b) (a + 1) bs

/-- Little-endian number of `k` bytes. -/
def readLe (m : Memory) (a k : Nat) : Nat := leNat (readBytes m a k)

end Memory
end Sys2Proof.Machine
end

