-- ==== Sys2Proof/Machine/State.lean ====
section
/-! DEFINITION. The state of the module as plain data: everything the manual gives it, the queue of waiting commands, the
instructions in progress with the effects that wait for their architectural ac, and `State.reset`. -/
namespace Sys2Proof.Machine

/-! ### The loaded image (R57 to R64, R428) -/

structure Wait where
  counter : Nat
  base : Nat
  step : Nat
deriving DecidableEq, Repr

/-- A ring take (R321). -/
structure Take where
  ring : Nat
  count : Nat
  region : Nat
  counter : Nat
  entryBytes : Nat
  slots : Nat
deriving DecidableEq, Repr

/-- A barrier record (R61, R77). -/
structure BarrierRec where
  id : Nat
  commit : Bool
  turn : Bool
  restart : Bool
  input : Bool
  turnTo : Nat
  offset : Nat
  waits : List Wait
  takes : List Take
deriving DecidableEq, Repr

structure ImageHeader where
  paired : Bool
  levelB : Bool
  twoPrograms : Bool
  testWindows : Bool
  lc : Nat
  n : Nat
  position : Nat
  placementHash : Bytes
  manifestDigest : Bytes
  clusterDigest : Bytes
  imageDigest : Bytes
  stepLen0 : Nat
  stepLen1 : Nat
  soakPeriod : Nat
  powerPeak : Nat
  testWindowsMin : Nat
  numericVersion : Nat
  jexazRelease : Nat
deriving DecidableEq, Repr

/-- One port's slot table of a program (R263). -/
structure LinkTable where
  cycle : Nat
  entries : List Word128
deriving DecidableEq, Repr

structure PlacementPort where
  neighbour : Nat
  port : Nat
  role : Nat
deriving DecidableEq, Repr

structure Placement where
  n : Nat
  origin : Nat
  kind : Nat
  depth : Nat
  dim : List Nat
  ports : List (List PlacementPort)
deriving DecidableEq, Repr

/-- Link allowances (R288). -/
structure Allowances where
  soakReach : Nat
  upReach : Nat
  downReach : Nat
  barrierLead : Nat
  allow : List Nat
deriving DecidableEq, Repr

structure SeedEntry where
  anchorId : Nat
  h : Nat
  margin : Nat
  kind : Nat
  gxKeep : Nat
  seedAnchor : Int
  tensorId : Nat
deriving DecidableEq, Repr

structure Seed where
  u : Nat
  workBase : Nat
  groupBase : Nat
  commitBase : Nat
  ledgerRegion : Nat
  entries : List SeedEntry
deriving DecidableEq, Repr

structure TensorEntry where
  tensorId : Nat
  rows : Nat
  cols : Nat
  format : Nat
  twLog2 : Nat
  flags : Nat
  anchorId : Nat
  driftPeriod : Nat
deriving DecidableEq, Repr

structure Manifest where
  levelB : Bool
  numericVersion : Nat
  microBatch : Nat
  globalMb : Nat
  samplingUse : Nat
  padId : Nat
  tensors : List TensorEntry
deriving DecidableEq, Repr

structure PowerEntry where
  offset : Nat
  program : Nat
  point : Nat
  meanW : Nat
  peakW : Nat
deriving DecidableEq, Repr

structure Window where
  offset : Nat
  length : Nat
  program : Nat
deriving DecidableEq, Repr

structure InitData where
  region : Nat
  offset : Nat
  data : Bytes
deriving DecidableEq, Repr

/-- One program of an image: 56 streams (8·core + unit), 640 HBM streams, 136 fabric tables, 16 link tables, the barriers. -/
structure Program where
  stepLen : Nat
  streams : List (List Word128)
  hbm : List (List U64)
  fabric : List (List Word128)
  links : List LinkTable
  barriers : List BarrierRec
deriving DecidableEq, Repr

structure Image where
  hdr : ImageHeader
  programs : List Program
  seed : Seed
  points : Nat
  power : List PowerEntry
  windows : List (List Window)
  placement : Placement
  allow : Allowances
  manifest : Manifest
  init : List InitData
deriving DecidableEq, Repr

/-- A region table entry (R246). -/
structure Region where
  base : Nat
  size : Nat
  place : Nat
  cores : Nat
  owner : Nat
  check : Bool
  pair : Bool
  shelf : Bool
  ledger : Bool
  perm : Nat
  partner : Nat
  checkRegion : Nat
  rowBytes : Nat
  thLog2 : Nat
  small : Bool
deriving DecidableEq, Repr

/-! ### Cores (R16) -/

/-- An ECC error that a code word or burst holds (R232, R237): uncorrectable or not, a fault of the cell or transient. -/
structure EccMark where
  uncorrectable : Bool
  hard : Bool
deriving DecidableEq, Repr

/-- Position of a stream: the next word, the ac its DELTA counts from, and whether its master is frozen (R66, R249). -/
structure StreamPos where
  pos : Nat
  base : Nat
  frozen : Bool
deriving DecidableEq, Repr

/-- What the issue rules keep of the previous matrix instruction (R97, R103). -/
structure MatrixPrev where
  gang : Nat
  pace : Nat
  lastPassFirst : Nat
  pathFree : Nat
deriving DecidableEq, Repr

inductive GroupState where
  | undecided | update | abandon
deriving DecidableEq, Repr

/-- An entry of a core's group table (R181). -/
structure GroupEntry where
  ng : Nat
  nsat : Bool
  combined : Nat
  lead : Int
  st : GroupState
  clip : Nat
  gn : Nat
  clipped : Bool
  lagClipped : Bool
  overNsat : Bool
  dw2 : Lane
  w2 : Lane
deriving DecidableEq, Repr

def GroupEntry.initial : GroupEntry :=
  ⟨0, false, 0, 0, .undecided, 0x3F800000, 0, false, false, false, Lane.zero, Lane.zero⟩

/-- What STEPCALC holds until the final barrier (R188). -/
structure StepCalc where
  lr : Nat
  bc1 : Nat
  bc2 : Nat
  lagOn : Bool
  lag : Nat
  globCeil : Nat
deriving DecidableEq, Repr

/-- A SHA-256 state slot (R201): hash value, bytes absorbed, bytes of the open block. -/
structure ShaSlot where
  hv : List U32
  buf : Bytes
  len : Nat
deriving DecidableEq, Repr

/-- The flags of VEC_STATUS (R226). -/
structure VecFlags where
  clamp : Bool
  fmtSat : Bool
  ovf : Bool
  inv : Bool
  empty : Bool
deriving DecidableEq, Repr

/-- The test controller's view of a core (R359, R379, R380): next slice, consecutive passing slices, full passes since power-on
and in-field passes since LOAD_IMAGE, windows since LOAD_IMAGE, a slice under way. -/
structure TestCore where
  next : Nat
  passRun : Nat
  passes : Nat
  loadPasses : Nat
  windows : Nat
  busy : Bool
deriving DecidableEq, Repr

structure CoreState where
  mem : Memory
  ecc : List (Nat × EccMark)
  /-- Tiles that came over HBM or a link, by the slice address of their provenance byte: a failure of one is no cause of SUSPECT (R363). -/
  crossed : List Nat
  anchors : List (Nat × Int)
  tensorIds : List (Nat × Nat)
  quanta : List (Nat × Nat)
  groups : List (Nat × GroupEntry)
  stepCalc : StepCalc
  gnorm : Nat
  sha : List (Nat × ShaSlot)
  streams : Vector StreamPos 7
  busy : Vector Nat 7
  matrix : Option MatrixPrev
  vecFlags : VecFlags
  vecCount : U32
  ropFrozen : Bool
  trace : List (Nat × Word128)
  test : TestCore
deriving DecidableEq, Repr

/-! ### Delayed effects -/

/-- A fault record (R253). -/
structure FaultRec where
  kind : Nat
  flags : Nat
  master : Nat
  region : Nat
  op : Nat
  place : Nat
  sched : Nat
  wall : Nat
  address : Nat
  barrierSeq : Nat
  instr : Nat
  opcode : Nat
  progressA : Nat
  progressB : Nat
  detail : Nat
deriving DecidableEq, Repr

/-- How a scratchpad word is written: through the plain, SET or CLR window (R228). -/
inductive WriteOp where
  | plain | set | clr
deriving DecidableEq, Repr

/-- An effect of an issued instruction, which becomes visible in its architectural ac and not before (R26, R43). -/
inductive Effect where
  /-- Bytes into a slice, by the port of a service order (R230). -/
  | sp (core : Fin 8) (addr : Nat) (op : WriteOp) (port : Nat) (data : Bytes)
  | hbm (addr : Nat) (data : Bytes)
  /-- An i48 add into a destination of a slice by a remote operation; the core's working slot takes an OVF (R270). -/
  | i48 (core : Fin 8) (addr port : Nat) (anchorId : Nat) (x : Int)
  /-- Elements `lo` to `hi` − 1 of an arrived GX tile image: added, or put as i48 words, at the quantum that the receiver's table then
  gives (R271). -/
  | gx (core : Fin 8) (add : Bool) (addr anchorId lo hi : Nat) (image : Bytes)
  | counterSet (c : Nat) (v : U32)
  | counterAdd (c : Nat) (v : U32)
  | slotOr (core : Fin 8) (anchorId : Nat) (g : Gather)
  | vecDone (core : Fin 8) (f : VecFlags)
  | tables (core : Fin 8) (id : Nat) (anchor : Int) (quantum : Nat)
  | normAdd (core : Fin 8) (group : Nat) (x : Nat) (nsat : Bool)
  | groupSet (core : Fin 8) (group : Nat) (e : GroupEntry)
  | lanesAdd (core : Fin 8) (group : Nat) (dw2 w2 : Lane)
  | fmtSat
  | stepCalc (core : Fin 8) (c : StepCalc)
  | gnorm (x : Nat)
  | shaSlot (core : Fin 8) (slot : Nat) (x : ShaSlot)
  | fprint (d : Bytes)
  | ratioBand (entry : Bytes) (group : Nat)
  /-- A read of a slice by a port: no change, but a bank can serve one word per fc (R231). -/
  | spRead (core : Fin 8) (addr len port : Nat)
  /-- A fault that the instruction meets later than its issue (R242, R249). -/
  | fault (r : FaultRec)
  /-- Bytes of a 512-byte part of a transfer into HBM that a unit has ready for its fabric slot, with their address (R20, R60). -/
  | fabricOut (unit part addr : Nat) (data : Bytes)
  /-- An ECC mark that a write of whole code words removes, or a correction that a read counts (R232, R237). -/
  | corrected (hbm : Bool) (n : Nat)
  /-- A read of HBM corrects the burst at an address (R237). -/
  | rowCorrected (addr : Nat)
  /-- The module becomes SUSPECT: reason and the core that the evidence names (R363). -/
  | suspect (reason core : Nat)
  /-- A row joins the HBM repair list of the health record: a health record entry (R237, R363, R366). -/
  | repair (entry : Nat)
  /-- The tile of the check entry with a provenance byte at an address of a slice came over HBM or a link (R363). -/
  | crossed (core : Fin 8) (addr : Nat)
  /-- A flit is ready for the booked position of a port that starts in a schedule cycle (R267). -/
  | book (port : Fin 16) (start : Nat) (flit : Flit)
deriving DecidableEq, Repr

/-- Who made an access: MASTER code of R253, head-word index and opcode of its instruction; for an arrival, the master that sent it
and the ac in which that master read it (R249, R268); PROGRESS_A and PROGRESS_B at the access (R253). -/
structure Origin where
  master : Nat
  instr : Nat
  opcode : Nat
  via : Option (Nat × Nat)
  pa : Nat
  pb : Nat
deriving DecidableEq, Repr

/-- An effect, the schedule cycle in which it happens (a later cycle sees it), the fc of that ac, and its origin. -/
structure Timed where
  at_ : Nat
  half : Bool
  org : Origin
  eff : Effect
deriving DecidableEq, Repr

/-- Bytes that a memory held before a change in a schedule cycle: a slice's, or HBM's. -/
structure Former where
  at_ : Nat
  slice : Option (Fin 8)
  addr : Nat
  bytes : Bytes
deriving DecidableEq, Repr

/-- A read of a slice that a bank collision spoiled (R231): its ac, the address, the undefined data that it got and what stood there. -/
structure Spoil where
  at_ : Nat
  core : Fin 8
  addr : Nat
  got : Bytes
  held : Bytes
deriving DecidableEq, Repr

/-- A master that faulted makes no access after the ac of its fault (R249); data that it read in that ac does not go on where the read
met an uncorrectable error (R232). -/
structure Stop where
  master : Nat
  at_ : Nat
  bad : Bool
deriving DecidableEq, Repr

/-! ### HBM and fabric -/

/-- State of one bank (R430): the open row and the fc of its last commands, if any. -/
structure Bank where
  row : Option Nat
  actAt : Option Nat
  rdAt : Option Nat
  wrAt : Option Nat
  preAt : Option Nat
  refAt : Option Nat
deriving DecidableEq, Repr

structure HbmState where
  mem : Memory
  ecc : List (Nat × EccMark)
  banks : List (Nat × Bank)
  rowCorrections : List (Nat × Nat)
  pos : List (Nat × StreamPos)
  /-- Wall count of the stop from which the controllers run the hold loop (R236). -/
  loopFrom : Option Nat
deriving DecidableEq, Repr

/-- A part of a transfer that a unit has ready for its fabric slots, with its HBM address (R20, R60). -/
structure FabricPart where
  unit : Nat
  part : Nat
  addr : Nat
  data : Bytes
deriving DecidableEq, Repr

/-- Bytes of HBM that a slot brought to a unit, with their address and the ac of the slot (R244). -/
structure FabricGot where
  unit : Nat
  at_ : Nat
  addr : Nat
  data : Bytes
deriving DecidableEq, Repr

/-- Data waiting in the fabric: by controller channel and slot the bursts of a slot, each with its HBM address; what units wait to send;
what they received. -/
structure FabricState where
  slots : List (Nat × List (Nat × Bytes))
  out : List FabricPart
  inn : List FabricGot
deriving DecidableEq, Repr

/-! ### Links (chapter 10) -/

/-- A good flit that waits for its delivery ac, with the receive entry of its position (R263, R268). -/
structure Arrival where
  deliver : Nat
  start : Nat
  slot : Nat
  entry : Word128
  poison : Bool
  payload : Bytes
deriving DecidableEq, Repr

/-- A damaged flit, its deadline, how often it has been asked for, and the wall count at which one that missed is asked for again
(R273, R274). -/
structure Damaged where
  start : Nat
  slot : Nat
  deadline : Nat
  copies : Nat
  missed : Bool
  again : Nat
deriving DecidableEq, Repr

/-- A damaged position still to be reported: its slot and start, and the wall count of its decode (R273). -/
structure Nak where
  slot : Nat
  start : Nat
  wall : Nat
deriving DecidableEq, Repr

/-- A flit that was sent or waits to be sent, with the schedule cycle in which its original position starts; it goes out in a
position later than the wall count `wall`. `copies` counts the copies that were asked for (R273, R274). -/
structure Outgoing where
  slot : Nat
  start : Nat
  wall : Nat
  copies : Nat
  flit : Flit
deriving DecidableEq, Repr

/-- A flit of a GET reply that waits for its position: the remote-operation port of the serving core reads its bytes there (R18). -/
structure ReplyPart where
  start : Nat
  slot : Nat
  since : Nat
  core : Fin 8
  region : Nat
  addr : Nat
  len : Nat
deriving DecidableEq, Repr

/-- A control flit (R261, R282, R394). -/
inductive Control where
  | laneFailure (lane : Nat)
  | identity
  | locked
deriving DecidableEq, Repr

/-- The copied CRCs and provenance bytes of the tiles that follow a check flit into a region (R272). -/
structure CheckRun where
  core : Nat
  region : Nat
  entries : List (Nat × Byte)
deriving DecidableEq, Repr

structure PortState where
  st : BitVec 3
  neighbourOk : Bool
  excess : Byte
  flightRc : U16
  spareFor : BitVec 4
  retries : U16
  misses : Byte
  neighbour : Nat
  neighbourPort : Nat
  /-- The neighbour's identity as its control flits gave it (R282). -/
  neighbourSerial : U64
  neighbourSlot : Byte
  /-- Failed physical lanes, of the lanes that this port receives on (true) or sends on (R256, R261). -/
  failed : List (Bool × Nat)
  remap : Option (Nat × Nat)
  naks : List Nak
  copies : List Outgoing
  shifted : List Outgoing
  sent : List Outgoing
  booked : List (Nat × Flit)
  replies : List ReplyPart
  /-- Checkpoint flits that a copy or a shifted flit displaced (R291). -/
  ckptLate : List Outgoing
  control : List Control
  arrivals : List Arrival
  damaged : List Damaged
  checkRuns : List CheckRun
  /-- Arrived parts of tiles that are not yet whole: 2^34 × region + offset, bytes (R272). -/
  tileBuf : List (Nat × Bytes)
  /-- Arrived parts of GX tile images: 2^34 × region + offset of the tile (R271). -/
  gxBuf : List (Nat × Bytes)
  childReady : Bool
  childRestart : Bool
  parentGo : Option Nat
  parentRestart : Option Nat
  lockedIn : Bool
  last : Option Flit
deriving DecidableEq, Repr

structure LinkState where
  followDepth : BitVec 6
  locked : Bool
  origin : Bool
  followPort : BitVec 4
  followLane : BitVec 4
  soaks : U32
  soakCause : BitVec 4
  soakLocal : Bool
  firstPort : BitVec 5
  soakStop : U64
  offset : U64
  /-- Stop point that the module has learned of and not yet reached (R275). -/
  stopAt : Option Nat
  /-- Soak causes held: code and source tag (R346, R347, R423). -/
  causes : List (Nat × Nat)
  /-- Causes raised while the module already stood: each is logged as the soak ends (R291). -/
  joined : List Nat
  /-- Wall count at which the module stopped (R319). -/
  stopWall : Nat
  /-- A soak is in progress: the module stands at S, or holds at b with a cause (R276, R279). -/
  active : Bool
  /-- BARRIER has been sent upward for the coming barrier (R285). -/
  sentUp : Bool
  /-- The release of the coming barrier that goes down the tree: its GRID, and W_R where one was chosen (R285). -/
  goDown : Option Nat
  releaseAt : Option Nat
  /-- RESTART has been sent upward for the present restart barrier (R278). -/
  restartUp : Bool
  /-- The release of the restart barrier that goes down the tree: its GRID and W_R (R278). -/
  restartDown : Option Nat
  restartAt : Option Nat
deriving DecidableEq, Repr

/-! ### Jobs (chapter 3) -/

inductive JobState where
  | empty | loaded | running | hold | soak | halted | faultHeld
deriving DecidableEq, Repr

def JobState.code : JobState → Nat
  | .empty => 0 | .loaded => 1 | .running => 2 | .hold => 3 | .soak => 4 | .halted => 5 | .faultHeld => 6

/-- Where a started job goes on (R284): at a fresh or restored start, at action 4 of its barrier, at the evaluation of its
barrier, or at the stop point of a soak. -/
inductive Resume where
  | start | action4 | evaluate | soakPoint
deriving DecidableEq, Repr

/-- A pending barrier-class value of a register (R84, R85): register number, the bits written and their values, and the
barrier named (0: the next). -/
structure Shadow where
  reg : Nat
  value : U64
  mask : U64
  seq : Nat
  live : Bool
deriving DecidableEq, Repr

structure JobCtl where
  st : JobState
  program : Nat
  stepStart : Nat
  /-- Schedule cycle at which the step after this one begins. -/
  nextStart : Nat
  /-- Commits since START_AT_BARRIER, which SEQ_CFG.STEP_NOTICE counts (R83). -/
  commits : Nat
  lastBarrier : U16
  barrierSeq : U64
  stepNum : U64
  /-- PARAM_STEP of the commit record: the last committed step (R175). -/
  paramStep : U64
  /-- The barrier at which the job stands: its record, held or halted. -/
  barrier : Option BarrierRec
  holdCause : Nat
  holdWall : Nat
  holdNoticed : Bool
  /-- Waits of the coming barrier already met in its lead (R285): barrier id and wait index. -/
  waitsMet : List (Nat × Nat)
  halt : Option Nat
  resume : Resume
  /-- START_AT_BARRIER has been taken and its restart barrier has not released (R284). -/
  starting : Bool
  /-- The barrier of the present ac is ready and waits for its token until the ac ends (R285, R291). -/
  tokenDue : Bool
  restored : Bool
  inputCount : U64
  replay : Bool
  /-- Schedule cycle f of the cause of a hold (R249). -/
  faultAt : Option Nat
  /-- The FAULT event of the hold is due at the end of the ac (R249). -/
  faultDue : Bool
  shadows : List Shadow
  g : Bool
  lg : Bool
  lagClipEn : Bool
  abandoned : Bool
  abandonGroup : U16
  clipped : U16
  fmtSat : Bool
  fprint : Bytes
  ovfRecords : U16
  invRecords : U16
  suspectStop : Bool
deriving DecidableEq, Repr

/-- An instruction in progress: its words, its ac of issue, its origin, the job's fields and its core's tables as they stood at issue
(R135, R171), and the reads that a collision spoiled (R231). Each ac brings the effects that its plan has in it. -/
structure Running where
  issue : Issue
  at_ : Nat
  org : Origin
  job : JobCtl
  core : CoreState
  spoils : List Spoil
deriving DecidableEq, Repr

/-! ### Configuration registers with no other home -/

structure CfgRegs where
  seqCfg : U64
  jobSeed : U64
  workBase : U32
  exchU : BitVec 5
  commitBase : U32
  groupBase : U32
  corrLimit : U16
  corrNotice : U16
  netCfg : Vector U64 2
  ipv6Prefix : Vector U64 2
  udpPort : U16
  sessionIdle : U16
  ptpDomain : Byte
  logAckReq : Bool
  stageBase : BitVec 24
  stageSize : BitVec 24
  monGate : Byte
  monWindow : U16
  compareRef : BitVec 3
  modeLink : Bool
  modeLocal : Bool
  rootSrc : BitVec 2
  avsPolicy : U64
  capW : U16
  ocFastW : U16
  dieSoak : Byte
  dieNotice : Byte
  hbmNotice : Byte
  /-- HEALTH_CTL.CORE (R380). -/
  healthCore : Byte
  testsOff : Bool
deriving DecidableEq, Repr

/-! ### Faults and logs -/

structure FaultLog where
  job : List FaultRec
  dropped : Byte
  session : List FaultRec
  sessionFaults : U16
  hbmCorrected : U16
  spCorrected : U16
  hbmUncorrected : U16
  spUncorrected : U16
  /-- Corrections since the last ECC_CORRECTED notice (R319). -/
  sinceNotice : Nat
deriving DecidableEq, Repr

/-- An event record with its attachment (R318, R319). -/
structure EventRec where
  seq : Nat
  timeNs : Nat
  wall : Nat
  sched : Nat
  kind : Nat
  flags : Nat
  data : Bytes
  attach : Bytes
deriving DecidableEq, Repr

structure LogState where
  events : List EventRec
  nextSeq : Nat
  acked : Nat
  lost : Byte
  low : Bool
  input : List Bytes
  inputNext : Nat
  inputAcked : Nat
  inputLow : Bool
  hold : Bool
  /-- Notices of logged events that wait for room in egress (R90). -/
  waiting : List EventRec
deriving DecidableEq, Repr

/-! ### FCP (chapter 11) -/

inductive SessionSt where
  | pending | open_ | frozen
deriving DecidableEq, Repr

/-- A recorded sequence (R305). -/
structure SeqRec where
  seq : Nat
  tag4 : Bytes
  status : Nat
  reply : Bytes
deriving DecidableEq, Repr

structure Session where
  id : Nat
  seat : Nat
  st : SessionSt
  key : Bytes
  hostNonce : Bytes
  devNonce : Bytes
  high : Nat
  seen : List SeqRec
  mask : U64
  port : Fin 2
  src : Nat
  notices : Nat
  chunks : Nat
  /-- The attestation report that the session holds (R399). -/
  report : Option Bytes
deriving DecidableEq, Repr

/-- A packet that the module sends (R298). -/
structure OutPacket where
  port : Fin 2
  dst : Nat
  flags : Nat
  session : Nat
  seq : Nat
  opcode : Nat
  status : Nat
  wall : Nat
  params : Bytes
  tag : Bytes
  /-- The UDP port that it leaves from, and whether its frame is protected by MACsec (R295, R296). -/
  sport : Nat := 0
  sealed : Bool := false
deriving DecidableEq, Repr

/-- What a port sends beside FCP: kind (0 neighbour, 1 ARP, 2 ICMPv6 echo, 3 ICMPv4 echo, 4 PTP Delay_Req), address, destination, data,
and whether its frame is protected (R294, R296, R297). -/
structure Answer where
  kind : Nat
  target : Nat
  dst : Nat
  data : Bytes
  sealed : Bool
deriving DecidableEq, Repr

structure Ring where
  id : Nat
  published : Nat
  taken : Nat
  window : Nat
deriving DecidableEq, Repr

/-- A replay record (R328). -/
structure ReplayRec where
  type : Nat
  ring : Nat
  length : Nat
  entry : Nat
  index : Nat
  crc : Nat
deriving DecidableEq, Repr

/-- A MACsec secure association (R296, R312). -/
structure Macsec where
  port : Nat
  an : Nat
  dir : Nat
  ssci : Nat
  sci : Nat
  salt : Bytes
  key : Bytes
deriving DecidableEq, Repr

structure EthState where
  ingressDrop : U16
  badTag : U16
  replay : U16
  pauseRx : Byte
  link : BitVec 2
  egress : List OutPacket
  /-- Line-rate credit of the transmitter in 1/17 byte (R89). -/
  credit : Nat
  answers : List Answer
  /-- The ingress buffer: packets that wait for the command queue, each as the command that runs it (R89). -/
  ingress : List (Packet × Instr)
  /-- The port's slave clock is locked, and a two-step Sync waits for its Follow_Up (R297). -/
  ptpLocked : Bool
  ptpWaits : Bool
deriving DecidableEq, Repr

/-- The time mapping (R297): TAI ns at a wall count, from PTP or from SET_TIME. -/
structure TimeMap where
  taiNs : Nat
  wall : Nat
  ptp : Bool
deriving DecidableEq, Repr

/-- A command of the command queue, as the command that runs it; the fabric slots that its memory access still waits for, by attachment:
a core's number or an HBM controller's code, and 512-byte parts (R21, R306). -/
structure Held where
  packet : Packet
  cmd : Instr
  slots : List (Nat × Nat)
deriving DecidableEq, Repr

structure FcpState where
  sessions : List Session
  time : Option TimeMap
  rings : List Ring
  replayRecs : List ReplayRec
  /-- The attestation report that session 0 holds (R399). -/
  report0 : Option Bytes
  /-- The command queue of both ports: accepted commands that wait for an earlier one of their session, for fabric slots, or for room
  in egress (R21, R89, R306). -/
  held : List Held
deriving DecidableEq, Repr

/-! ### Checkpoints (chapter 13) -/

/-- The capture that the engine makes at every COMMIT barrier (R369). -/
structure Capture where
  record : Bytes
  /-- What the engine met as it read the record: a CRC that fails, or an uncorrectable error (R251). -/
  fault : Option FaultRec
  counters : List (Nat × U32)
  barrierSeq : Nat
  sched : Nat
  stepNum : Nat
  classB : List (Nat × U64)
  program : Nat
deriving DecidableEq, Repr

structure CkptState where
  step : Nat
  holding : Bool
  buddy : Bool
  st : Nat
  stream : Nat
  session : Nat
  target : Nat
  data : Bytes
  sent : Nat
  acked : Nat
  read : Nat
  /-- Bytes that the engine has fetched through reserved slots while the schedule runs (R21). -/
  fetched : Nat
  /-- The first tile that fails at use: its offset in the stream and the fault (R370). -/
  failAt : Option (Nat × FaultRec)
  capture : Option Capture
  restoreLen : Nat
  restoreStream : Option Nat
  restoreBuf : Memory
  /-- Streams that arrive from a buddy, by region: bytes so far and the stream's length (R374). -/
  inbox : List (Nat × Nat × Nat)
deriving DecidableEq, Repr

/-! ### Clocks, power, heat, tests, boot, security, pins -/

/-- A root source's monitor (R333, R334): enabled, ready, consecutive good and bad fine gates, gross failure, ppm. -/
structure SourceMon where
  enabled : Bool
  ready : Bool
  good : Nat
  bad : Nat
  ppm : U16
deriving DecidableEq, Repr

structure ClockState where
  localMon : SourceMon
  linkMon : SourceMon
  ethMon : SourceMon
  ethFailed : Bool
  clockLost : Bool
  rootLocked : Bool
  rootActive : BitVec 2
  relocking : Bool
deriving DecidableEq, Repr

structure PowerState where
  active : BitVec 2
  permitted : BitVec 4
  pending : Option (BitVec 2 × Nat)
  vReady : Bool
  ramping : Bool
  coreTarget : Nat
  sramTarget : Nat
  vCore : Nat
  vReq : U16
  policyClipped : Bool
  aboveMax : Bool
  atFloor : Bool
  pIn : U16
  pPeak : U16
  vIn : U16
  iIn : U16
  /-- µs for which a raise or release condition of R346 has held: over-current clear, under-voltage, voltage good. -/
  ocClear : Nat
  underV : Nat
  goodV : Nat
  /-- A change accepted in EMPTY whose rails have not settled, and the replies that wait for them (R340). -/
  emptyTarget : Option (BitVec 2)
  waitReplies : List OutPacket
deriving DecidableEq, Repr

structure ThermState where
  die : List (BitVec 16)
  stackTemps : List (BitVec 16)
  dieNotice : List Nat
  dieSoak : List Nat
  hbmNotice : List Nat
  hbmSoak : List Nat
  inlet : BitVec 16
  outlet : BitVec 16
  flow : Nat
  inletNotice : Bool
  outletNotice : Bool
  lowFlow : Bool
  lowFor : Nat
  goodFor : Nat
deriving DecidableEq, Repr

structure TestState where
  suspect : Bool
  untested : Bool
  powerOnOk : Bool
  failedCores : Byte
  windows : U32
deriving DecidableEq, Repr

/-- A health record (R366), less MAGIC, FORMAT and DEVICE_ID, which are constant. -/
structure Health where
  /-- The identity key that signed the record is the opened one (R366, R397). -/
  signer : Bool
  suspect : Bool
  opened : Bool
  generation : Nat
  reason : Nat
  core : Nat
  slice : Nat
  releases : Nat
  timeNs : Nat
  evidence : Bytes
  passes : Nat
  hbmRows : List Nat
  spRows : List Nat
  lanes : List Nat
deriving DecidableEq, Repr

/-- The key store (R386): seat keys 1 to 5 and MACsec keys. -/
structure KeyStore where
  generation : Nat
  seats : List (Nat × Bytes)
  macsec : List Macsec
deriving DecidableEq, Repr

/-- Saved configuration of CFG_SAVE (R315). -/
structure SavedCfg where
  netCfg : Vector U64 2
  ipv6Prefix : Vector U64 2
  fcpCfg : U64
deriving DecidableEq, Repr

structure FlashState where
  firmware : Bytes
  healthA : Option Health
  healthB : Option Health
  keysA : Option KeyStore
  keysB : Option KeyStore
  saved : Option SavedCfg
deriving DecidableEq, Repr

/-- The fuses that can change in service (R385); the others are Config constants. -/
structure FuseState where
  svn : Nat
  identityKill : Bool
deriving DecidableEq, Repr

structure BootState where
  stage : BitVec 4
  ready : Bool
  recovered : Bool
  linksPending : Bool
  unfollowed : Bool
  readyMs : U32
  overrun : Bool
  /-- The running firmware: digest, VERSION, SVN (R387, R399). -/
  fwDigest : Bytes
  fwVersion : Nat
  fwSvn : Nat
  sram : Memory
  /-- Extents of the image that have arrived (R391): offset and length. -/
  sramGot : List (Nat × Nat)
  rewriting : Bool
deriving DecidableEq, Repr

structure SecState where
  trngFail : Bool
  fwPending : Bool
  fwLength : Nat
  spyholeOpen : Bool
  /-- A health record rewrite is due (R364): reason, core, slice, evidence. -/
  healthDue : Option Health
deriving DecidableEq, Repr

/-- What a die's instruction register selects (R400, R402). -/
inductive JtagSel where
  | bypass | idcode | boundary | extest | clamp | highz | acExtest | spyCtrl | spyData
deriving DecidableEq, Repr

/-- An access that SPY_CTRL began (R402): OP, core, unit, next word address, whether the module's state allows it. -/
structure SpyAccess where
  op : Nat
  core : Nat
  unit : Nat
  addr : Nat
  allowed : Bool
deriving DecidableEq, Repr

structure JtagState where
  sel : JtagSel
  /-- The levels that SAMPLE/PRELOAD captured. -/
  sample : List Bool
  spy : Option SpyAccess
  /-- The last word that SPY_DATA gave. -/
  dataOut : U64
deriving DecidableEq, Repr

inductive InputStage where
  | off | charging | charged
deriving DecidableEq, Repr

structure PinState where
  pwrEn : Bool
  resetN : Bool
  claimEn : Bool
  debugEn : Bool
  clkOrigin : Bool
  slotId : Byte
  s1 : Bool
  sb3v3 : Bool
  inputGood : Bool
  stage : InputStage
  rails : Bool
  pwrOk : Bool
  trip : Bool
deriving DecidableEq, Repr

/-- The counter block (R73): values and owners of used counters (1 job, 2 host), and the image's initial values, which a restore
takes (R376). -/
structure CounterBlock where
  values : List (Nat × U32)
  owners : List (Nat × Nat)
  initial : List (Nat × U32)
deriving DecidableEq, Repr

/-- The state of the block. -/
structure State where
  wall : U64
  sched : U64
  cores : Vector CoreState 8
  hbm : HbmState
  fabric : FabricState
  counters : CounterBlock
  image : Option Image
  regions : List Region
  job : JobCtl
  cfg : CfgRegs
  links : LinkState
  ports : Vector PortState 16
  faults : FaultLog
  log : LogState
  fcp : FcpState
  eth : Vector EthState 2
  ckpt : CkptState
  clock : ClockState
  power : PowerState
  therm : ThermState
  test : TestState
  flash : FlashState
  fuses : FuseState
  boot : BootState
  sec : SecState
  jtag : JtagState
  pins : PinState
  inflight : List Timed
  running : List Running
  past : List Former
  stopped : List Stop
  ckptMaster : Bool
  testMaster : Bool
  free : Nat
  /-- The commands that fall due in the present ac have been queued (the model's own; log 11). -/
  offered : Bool
  pending : List Instr
deriving DecidableEq, Repr

/-- Why a run of the model stops with a fault: nothing does; a fault of R251 is an effect on the state. -/
inductive Fault where
deriving DecidableEq, Repr

/-- Why the model gives a command no meaning. -/
inductive Refusal where
  /-- An instruction that the model does not yet give a meaning. Safe. -/
  | notModelled (mnemonic : String)
  /-- The command's words are not the row's: another opcode, a reserved bit or code, or a wrong number of continuation
  words. The loader refuses such a word (R87 check 9), so no stream issues it: ground (i). Safe. -/
  | malformedWord
deriving DecidableEq, Repr

/-! ### Reset -/

def StreamPos.initial : StreamPos := ⟨0, 0, false⟩

def CoreState.initial : CoreState where
  mem := []
  ecc := []
  crossed := []
  anchors := []
  tensorIds := []
  quanta := []
  groups := []
  stepCalc := ⟨0, 0, 0, false, 0, 0⟩
  gnorm := 0
  sha := []
  streams := Vector.replicate 7 StreamPos.initial
  busy := Vector.replicate 7 0
  matrix := none
  vecFlags := ⟨false, false, false, false, false⟩
  vecCount := 0
  ropFrozen := false
  trace := []
  test := ⟨0, 0, 0, 0, 0, false⟩

def PortState.initial : PortState where
  st := 0
  neighbourOk := false
  excess := 0
  flightRc := 0
  spareFor := 0xF
  retries := 0
  misses := 0
  neighbour := 0xFFFF
  neighbourPort := 0
  neighbourSerial := 0
  neighbourSlot := 0
  failed := []
  remap := none
  naks := []
  copies := []
  shifted := []
  sent := []
  booked := []
  replies := []
  ckptLate := []
  control := []
  arrivals := []
  damaged := []
  checkRuns := []
  tileBuf := []
  gxBuf := []
  childReady := false
  childRestart := false
  parentGo := none
  parentRestart := none
  lockedIn := false
  last := none

def LinkState.initial (origin : Bool) : LinkState where
  followDepth := 0
  locked := false
  origin := origin
  followPort := 0
  followLane := 0
  soaks := 0
  soakCause := 0
  soakLocal := false
  firstPort := 0x1F
  soakStop := 0
  offset := 0
  stopAt := none
  causes := []
  joined := []
  stopWall := 0
  active := false
  sentUp := false
  goDown := none
  releaseAt := none
  restartUp := false
  restartDown := none
  restartAt := none

def JobCtl.initial : JobCtl where
  st := .empty
  program := 0
  stepStart := 0
  nextStart := 0
  commits := 0
  lastBarrier := 0xFFFF
  barrierSeq := 0
  stepNum := 0
  paramStep := BitVec.allOnes 64
  barrier := none
  holdCause := 0
  holdWall := 0
  holdNoticed := false
  waitsMet := []
  halt := none
  resume := .start
  starting := false
  tokenDue := false
  restored := false
  inputCount := 0
  replay := false
  faultAt := none
  faultDue := false
  shadows := []
  g := false
  lg := false
  lagClipEn := false
  abandoned := false
  abandonGroup := 0xFFFF
  clipped := 0
  fmtSat := false
  fprint := []
  ovfRecords := 0
  invRecords := 0
  suspectStop := false

/-- The configuration registers at reset. JOB_SEED and COMMIT_BASE have no reset value: 0 by DESIGN CHOICE (log 3). -/
def CfgRegs.initial : CfgRegs where
  seqCfg := 0x00000001000CF850
  jobSeed := 0
  workBase := 0
  exchU := 0
  commitBase := 0
  groupBase := 0
  corrLimit := 0x10
  corrNotice := 0x100
  netCfg := Vector.replicate 2 0x00000000010008CA
  ipv6Prefix := Vector.replicate 2 0
  udpPort := 0xB8D0
  sessionIdle := 0x258
  ptpDomain := 0
  logAckReq := true
  stageBase := 0x740000
  stageSize := 0x40000
  monGate := 0x0A
  monWindow := 0xC8
  compareRef := 3
  modeLink := false
  modeLocal := false
  rootSrc := 2
  avsPolicy := 0x1E0A2C18402C503C
  capW := 0xBB8
  ocFastW := 0xCE4
  dieSoak := 0x69
  dieNotice := 0x5F
  hbmNotice := 0x50
  healthCore := 0xFF
  testsOff := false

def EthState.initial : EthState := ⟨0, 0, 0, 0, 0, [], 0, [], [], false, false⟩

def CkptState.initial : CkptState where
  step := 0
  holding := false
  buddy := false
  st := 0
  stream := 0
  session := 0
  target := 0
  data := []
  sent := 0
  acked := 0
  read := 0
  fetched := 0
  failAt := none
  capture := none
  restoreLen := 0
  restoreStream := none
  restoreBuf := []
  inbox := []

def SourceMon.initial : SourceMon := ⟨false, false, 0, 0, 0⟩

def ClockState.initial : ClockState where
  localMon := SourceMon.initial
  linkMon := SourceMon.initial
  ethMon := SourceMon.initial
  ethFailed := false
  clockLost := false
  rootLocked := false
  rootActive := 2
  relocking := false

/-- Power state at reset; the rails start at their P0 targets of 800 mV (R419), and V_CORE_MV reads 0 until sampled. -/
def PowerState.initial : PowerState where
  active := 0
  permitted := 0xF
  pending := none
  vReady := false
  ramping := false
  coreTarget := 800
  sramTarget := 800
  vCore := 0
  vReq := 0
  policyClipped := false
  aboveMax := false
  atFloor := false
  pIn := 0
  pPeak := 0
  vIn := 0
  iIn := 0
  ocClear := 0
  underV := 0
  goodV := 0
  emptyTarget := none
  waitReplies := []

def ThermState.initial : ThermState where
  die := List.replicate 72 0
  stackTemps := List.replicate 20 0
  dieNotice := []
  dieSoak := []
  hbmNotice := []
  hbmSoak := []
  inlet := 0
  outlet := 0
  flow := 0
  inletNotice := false
  outletNotice := false
  lowFlow := false
  lowFor := 0
  goodFor := 0

/-- The flash of a new module (R310: unclaimed, no keys): DESIGN CHOICE of a part fresh from manufacture (log 5). -/
def FlashState.shipped : FlashState where
  firmware := Config.shippedFirmware
  healthA := none
  healthB := none
  keysA := none
  keysB := none
  saved := none

def BootState.initial : BootState where
  stage := 1
  ready := false
  recovered := false
  linksPending := false
  unfollowed := false
  readyMs := 0
  overrun := false
  fwDigest := []
  fwVersion := 0
  fwSvn := 0
  sram := []
  sramGot := []
  rewriting := false

/-- Pins right after the release of RESET_N with power good; the straps read low (R412 pull-downs; log 5). -/
def PinState.initial : PinState where
  pwrEn := true
  resetN := true
  claimEn := false
  debugEn := false
  clkOrigin := false
  slotId := 0
  s1 := true
  sb3v3 := true
  inputGood := true
  stage := .charged
  rails := true
  pwrOk := true
  trip := false

def FaultLog.initial : FaultLog := ⟨[], 0, [], 0, 0, 0, 0, 0, 0⟩
def LogState.initial : LogState := ⟨[], 0, 0, 0, false, [], 0, 0, false, false, []⟩
def FcpState.initial : FcpState := ⟨[], none, [], [], none, []⟩

/-- Everything that a reset gives its value, over what survives it: flash, fuses, pins and their latches (R383, R403). -/
def State.volatileReset (flash : FlashState) (fuses : FuseState) (pins : PinState) (suspect : Bool) : State where
  wall := 0
  sched := 0
  cores := Vector.replicate 8 CoreState.initial
  hbm := ⟨[], [], [], [], [], none⟩
  fabric := ⟨[], [], []⟩
  counters := ⟨[], [], []⟩
  image := none
  regions := []
  job := JobCtl.initial
  cfg := CfgRegs.initial
  links := LinkState.initial pins.clkOrigin
  ports := Vector.replicate 16 PortState.initial
  faults := FaultLog.initial
  log := LogState.initial
  fcp := FcpState.initial
  eth := Vector.replicate 2 EthState.initial
  ckpt := CkptState.initial
  clock := ClockState.initial
  power := PowerState.initial
  therm := ThermState.initial
  test := ⟨suspect, true, false, 0, 0⟩
  flash := flash
  fuses := fuses
  boot := BootState.initial
  sec := ⟨false, false, 0, false, none⟩
  jtag := ⟨.idcode, [], none, 0⟩
  pins := pins
  inflight := []
  running := []
  past := []
  stopped := []
  ckptMaster := false
  testMaster := false
  free := 0
  offered := false
  pending := []

/-- The module right after the release of RESET_N on a new part: stage 1 of start-up, queue empty (R8, R382, R403). -/
def State.reset : State :=
  State.volatileReset FlashState.shipped ⟨0, false⟩ PinState.initial false

end Sys2Proof.Machine
end

