-- ==== Sys2Proof/Machine/Events.lean ====
section
/-! DEFINITION. The event log, notices and the egress queues (R89, R90, R295, R299, R301, R308, R318 to R320, R429). -/
namespace Sys2Proof.Machine

/-- Dividers of the ARR domain at P0 to P3: rc per ac (R339). -/
def arrDivider (point : Nat) : Nat :=
  match point with
  | 0 => 8 | 1 => 10 | 2 => 16 | _ => 32

/-- rc per ac at the active operating point. -/
def State.divider (s : State) : Nat := arrDivider s.power.active.toNat

/-- TAI nanoseconds at a wall count, 0 when no time is known (R297, R318). One ac lasts D × 5/34 ns, at the active point
(DEDUCED, log 20). -/
def State.timeNs (s : State) (wall : Nat) : Nat :=
  match s.fcp.time with
  | none => 0
  | some t => (t.taiNs + ((wall : Int) - t.wall) * (5 * s.divider : Nat) / 34).toNat % 2 ^ 64

/-- Bits 0 and 1 of an event's FLAGS: where the time comes from (R318). -/
def State.timeFlags (s : State) : Nat :=
  match s.fcp.time with
  | none => 0
  | some t => if t.ptp then 1 else 2

/-- The 64 bytes of an event record (R318). -/
def EventRec.bytes (r : EventRec) : Bytes :=
  le64 r.seq ++ le64 r.timeNs ++ le64 r.wall ++ le64 r.sched ++ le16 r.kind ++ le16 r.flags ++ le32 0 ++ padTo 24 r.data

/-- Capacity of the event log (R23, R320). -/
def eventLogSize : Nat := 16384

/-- Records that the log holds and LOG_ACK has not confirmed (R320). -/
def State.eventUnacked (s : State) : Nat := min (s.log.nextSeq - s.log.acked) s.log.events.length

/-- Records that no INPUT_LOG_ACK has confirmed (R326). -/
def State.inputUnacked (s : State) : Nat := s.log.inputNext - s.log.inputAcked

/-! ### Egress -/

/-- The header of a packet that the module sends, with its parameters (R298). -/
def OutPacket.body (p : OutPacket) : Bytes :=
  be32 0x46454C54 ++ u8 1 ++ u8 p.flags ++ be16 p.session ++ be32 p.seq ++ be16 p.opcode ++ be16 p.status
    ++ be16 p.params.length ++ be16 0 ++ be64 p.wall ++ be32 0 ++ p.params

/-- Bytes of a packet, header, parameters and tag. -/
def OutPacket.size (p : OutPacket) : Nat := 48 + p.params.length

/-- The tag of R299 under a key; UNAUTH packets carry 16 zero bytes. -/
def OutPacket.sign (key : Option Bytes) (p : OutPacket) : OutPacket :=
  match key with
  | none => { p with tag := List.replicate 16 0 }
  | some k => { p with tag := (hmac k p.body).take 16 }

def egressSize : Nat := 2 ^ 20

/-- Bytes that wait in a port's egress queue. -/
def EthState.occupancy (e : EthState) : Nat := e.egress.foldl (fun a p => a + p.size) 0

/-- A port's registers: MTU, VLAN, MACsec (R329). -/
def State.mtu (s : State) (port : Fin 2) : Nat := 4 * field (s.cfg.netCfg[port]).toNat 0 12
def State.vlan (s : State) (port : Fin 2) : Nat := field (s.cfg.netCfg[port]).toNat 12 12
def State.macsecOn (s : State) (port : Fin 2) : Bool := bitAt (s.cfg.netCfg[port]).toNat 25

/-- Put a packet into its port's egress queue: it leaves from FCP_CFG.UDP_PORT, protected where MACsec is on (R89, R295, R296). -/
def State.send (p : OutPacket) (s : State) : State :=
  let e := s.eth[p.port]
  let p := { p with sport := s.cfg.udpPort.toNat, sealed := s.macsecOn p.port }
  { s with eth := s.eth.set p.port { e with egress := e.egress ++ [p] } }

/-- One more notice packet of a session, built and queued (R301). -/
def noticeTo (r : EventRec) (x : Session) (s : State) : State :=
  let n := x.notices + 1
  let p : OutPacket :=
    { port := x.port, dst := x.src, flags := 2, session := x.id, seq := n % 2 ^ 32, opcode := Config.noticeOpcode % 2 ^ 16,
      status := 0, wall := s.wall.toNat, params := r.bytes ++ r.attach, tag := [] }
  s.send (p.sign (some x.key))

/-- The sessions that an event's notices go to (R301, R308). -/
def Session.hears (r : EventRec) (x : Session) : Bool := x.st == .open_ && bitAt x.mask.toNat r.kind

/-- All notices of an event enter egress (R301). -/
def State.notify (r : EventRec) (s : State) : State :=
  let heard := s.fcp.sessions.filter (Session.hears r)
  let s := heard.foldl (fun s x => noticeTo r x s) s
  { s with fcp := { s.fcp with sessions := s.fcp.sessions.map (fun x =>
      if Session.hears r x then { x with notices := x.notices + 1 } else x) } }

/-- Room in egress for an event's notices on every port that they leave by (R89, R90). -/
def State.roomFor (r : EventRec) (s : State) : Bool :=
  let per := 112 + r.attach.length
  [(0 : Fin 2), 1].all (fun p =>
    let n := (s.fcp.sessions.filter (fun x => Session.hears r x && x.port == p)).length
    n == 0 || decide (s.eth[p].occupancy + n * per ≤ egressSize))

/-- Notices enter egress in the order in which they were raised; one that finds no room waits (R90). -/
def State.raiseNotice (r : EventRec) (s : State) : State :=
  if s.log.waiting.isEmpty && s.roomFor r then s.notify r
  else { s with log := { s.log with waiting := s.log.waiting ++ [r] } }

/-! ### The event log -/

/-- FLAGS bits that a kind always carries: 3 CONTRACT for kinds 1 to 4 (R319). -/
def contractFlag (kind : Nat) : Nat := if 1 ≤ kind ∧ kind ≤ 4 then 8 else 0

/-- Append one event record and raise its notices, or count it as lost (R318, R320). -/
def State.addEvent (kind flags sched wall : Nat) (data attach : Bytes) (s : State) : State :=
  if s.cfg.logAckReq && decide (eventLogSize ≤ s.eventUnacked) then
    { s with log := { s.log with lost := satInc s.log.lost } }
  else
    let r : EventRec :=
      { seq := s.log.nextSeq, timeNs := s.timeNs wall, wall := wall, sched := sched, kind := kind,
        flags := s.timeFlags + (if attach.isEmpty then 0 else 4) + contractFlag kind + flags, data := data, attach := attach }
    let kept := s.log.events ++ [r]
    let s := { s with log := { s.log with
      events := if kept.length > eventLogSize then kept.drop 1 else kept, nextSeq := s.log.nextSeq + 1 } }
    s.raiseNotice r

/-- LOG_LOW of the event log, once for each rise above 75 % (R429). -/
def State.eventLow (s : State) : State :=
  let above := s.cfg.logAckReq && decide (eventLogSize * 3 / 4 < s.eventUnacked)
  if above && !s.log.low then
    let s := { s with log := { s.log with low := true } }
    s.addEvent 19 0 s.sched.toNat s.wall.toNat (u8 0) []
  else if !above then { s with log := { s.log with low := false } } else s

/-- An event at given counts (R319). -/
def State.eventAt (kind flags sched wall : Nat) (data attach : Bytes) (s : State) : State :=
  (s.addEvent kind flags sched wall data attach).eventLow

/-- An event of the present ac (R319). -/
def State.event (kind : Nat) (data : Bytes) (attach : Bytes) (s : State) : State :=
  s.eventAt kind 0 s.sched.toNat s.wall.toNat data attach

/-- The event log's reserve of 256 records is reached (R320). -/
def State.logFull (s : State) : Bool :=
  s.cfg.logAckReq && decide (eventLogSize < s.eventUnacked + 256)

/-- LOG_LOW of the input log (R429); it holds 65,536 records (R326). -/
def State.inputLow (s : State) : State :=
  let above := decide (65536 * 3 / 4 < s.inputUnacked)
  if above && !s.log.inputLow then
    ({ s with log := { s.log with inputLow := true } }).event 19 (u8 1) []
  else if !above then { s with log := { s.log with inputLow := false } } else s

/-- A boundary instruction that takes effect in EMPTY only (R400). -/
def JtagSel.drives : JtagSel → Bool
  | .extest | .clamp | .highz | .acExtest => true
  | .bypass | .idcode | .boundary | .spyCtrl | .spyData => false

/-- A change of the job state with its JOB_STATE event (R82, R319); outside EMPTY the boundary instructions that drive pins select the
bypass register (R400). -/
def State.setJobState (st : JobState) (status : Nat) (s : State) : State :=
  let old := s.job.st
  let sel := if st != .empty && s.jtag.sel.drives then JtagSel.bypass else s.jtag.sel
  let s := { s with job := { s.job with st := st }, jtag := { s.jtag with sel := sel } }
  if old == st && status == 0 then s else s.event 20 (u8 old.code ++ u8 st.code ++ le16 status) []

/-! ### Fault records and frozen sessions -/

/-- The 64 bytes of a fault record (R253). -/
def FaultRec.bytes (r : FaultRec) : Bytes :=
  u8 r.kind ++ u8 r.flags ++ le16 r.master ++ le16 r.region ++ u8 r.op ++ u8 r.place ++ le64 r.sched ++ le64 r.wall
    ++ le64 r.address ++ le64 r.barrierSeq ++ le32 r.instr ++ le16 r.opcode ++ le16 0 ++ le64 r.progressA
    ++ le32 r.progressB ++ le32 r.detail

/-- Freeze a session: its state, a record in the session fault ring of 64, and SESSION_FROZEN (R250, R308). -/
def State.freezeSession (id status seq : Nat) (r : FaultRec) (s : State) : State :=
  let ring := s.faults.session ++ [r]
  let frozen := s.fcp.sessions.map (fun x : Session => if x.id = id then { x with st := SessionSt.frozen } else x)
  let s := { s with
    fcp := { s.fcp with sessions := frozen },
    faults := { s.faults with session := ring.drop (ring.length - 64), sessionFaults := s.faults.sessionFaults + 1 } }
  s.event 8 (le16 id ++ le16 status ++ le32 seq) r.bytes

/-! ### SUSPECT and the health record (R363, R364, R366) -/

/-- A new part's health record (log 5). -/
def Health.blank : Health := ⟨false, false, false, 0, 0, 0xFF, 0xFF, 0, 0, [], 0, [], [], []⟩

/-- The signature of a copy verifies: the module alone writes the record, so a copy's signature verifies where the identity key of
today made it (R366, R397; DEDUCED, log 155). -/
def State.verifiesHealth (s : State) (h : Health) : Bool := h.signer == s.fuses.identityKill

/-- The copy in use: the one with the higher GENERATION whose signature verifies (R366). -/
def State.healthInUse (s : State) : Option Health :=
  match s.flash.healthA.filter s.verifiesHealth, s.flash.healthB.filter s.verifiesHealth with
  | some a, some b => if a.generation < b.generation then some b else some a
  | some a, none => some a
  | none, b => b

/-- The record as the next write will make it. -/
def State.healthNow (s : State) : Health := s.sec.healthDue.getD (s.healthInUse.getD Health.blank)

/-- A change of the health record that is written by the next health record write (R364, R366). -/
def State.changeHealth (f : Health → Health) (s : State) : State :=
  { s with sec := { s.sec with healthDue := some (f s.healthNow) } }

/-- A row joins the HBM repair list, which holds up to 1,024 entries (R237, R366). -/
def State.addRepair (entry : Nat) (s : State) : State :=
  let known := s.healthNow.hbmRows.any (fun e => e % 2 ^ 30 == entry % 2 ^ 30)
  if known || decide (1024 ≤ s.healthNow.hbmRows.length) then s
  else s.changeHealth (fun h => { h with hbmRows := h.hbmRows ++ [entry] })

/-- DATA of a SUSPECT event (R379). -/
def suspectData (reason core slice step seq : Nat) : Bytes :=
  u8 reason ++ u8 core ++ u8 slice ++ List.replicate 5 0 ++ le64 step ++ le64 seq

/-- The module becomes SUSPECT: the status bit, the event, the stop at the next barrier, the health record due (R363, R364).
A module that is SUSPECT already stays as it is. -/
def State.makeSuspect (reason core slice : Nat) (evidence : Bytes) (s : State) : State :=
  if s.test.suspect then s else
  let running := s.job.st == .running || s.job.st == .hold || s.job.st == .soak
  let s := s.changeHealth (fun h => { h with
    suspect := true, reason := reason, core := core, slice := slice, timeNs := s.timeNs s.wall.toNat,
    evidence := padTo 64 evidence })
  let s := { s with test := { s.test with suspect := true }, job := { s.job with suspectStop := s.job.suspectStop || running } }
  s.event 10 (suspectData reason core slice s.job.stepNum.toNat s.job.barrierSeq.toNat) []

end Sys2Proof.Machine
end

