-- ==== Sys2Proof/Machine/Ops.lean ====
section
/-! DEFINITION. The operations that commands share: cores and memories, counters, the region check, faults of job masters,
delayed effects and their landing (R73 to R75, R171, R228 to R232, R240, R246 to R249, R253). -/
namespace Sys2Proof.Machine

/-- What a command answers. -/
abbrev Out := Host.Outcome State Fault Refusal

/-! ### Parts of the state -/

def State.core (s : State) (c : Fin 8) : CoreState := s.cores[c]
def State.setCore (c : Fin 8) (k : CoreState) (s : State) : State := { s with cores := s.cores.set c k }
def State.modCore (c : Fin 8) (f : CoreState → CoreState) (s : State) : State := s.setCore c (f (s.core c))
def State.port (s : State) (p : Fin 16) : PortState := s.ports[p]
def State.setPort (p : Fin 16) (x : PortState) (s : State) : State := { s with ports := s.ports.set p x }
def State.modPort (p : Fin 16) (f : PortState → PortState) (s : State) : State := s.setPort p (f (s.port p))

/-- The cores of R13 and the ports of R13. -/
def allCores : List (Fin 8) := [0, 1, 2, 3, 4, 5, 6, 7]
def allPorts : List (Fin 16) := [0, 1, 2, 3, 4, 5, 6, 7, 8, 9, 10, 11, 12, 13, 14, 15]

/-- The present schedule cycle. -/
def State.now (s : State) : Nat := s.sched.toNat

/-- The schedule runs in this ac: not before a start has released, and not while the root relocks (R21, R39, R82, R337). -/
def State.scheduleRuns (s : State) : Bool := s.job.st == .running && !s.job.starting && !s.clock.relocking

/-- A flag of the loaded image's header. -/
def State.imageFlag (f : ImageHeader → Bool) (s : State) : Bool :=
  match s.image with
  | some im => f im.hdr
  | none => false

/-- The loaded image is paired (R353). -/
def State.paired (s : State) : Bool := s.imageFlag (·.paired)

/-- The secondary core of a core's pair (R353). -/
def secondary (c : Fin 8) : Fin 8 := ⟨c.val / 2 * 2 + 1, by omega⟩

/-- A core is the secondary of a pair: nothing that leaves it is forwarded (R354). -/
def State.silent (s : State) (c : Fin 8) : Bool := s.paired && c.val % 2 == 1

/-- The cores that an arrival addressed to a core reaches: both of a pair whose primary it is (R354). -/
def State.reached (s : State) (c : Fin 8) : List (Fin 8) := if s.paired && c.val % 2 == 0 then [c, secondary c] else [c]

/-- The active program's sections. -/
def State.prog (s : State) : Option Program := match s.image with | some im => im.programs[s.job.program]? | none => none

def Program.empty : Program := ⟨0, [], [], [], [], []⟩
def State.program! (s : State) : Program := (s.prog).getD Program.empty

/-- A draw of a free value: the counter and the next state (log 1). -/
def State.drawFree (s : State) : Nat × State := (s.free, { s with free := s.free + 1 })

/-! ### Counters (R73, R74) -/

def State.counter (s : State) (c : Nat) : Nat := (tabGet 0 c s.counters.values).toNat
def State.setCounter (c v : Nat) (s : State) : State :=
  { s with counters := { s.counters with values := tabSet c (BitVec.ofNat 32 v) s.counters.values } }
def State.counterOwner (s : State) (c : Nat) : Nat := tabGet 0 c s.counters.owners

/-! ### Fabric tables (R60) -/

/-- One direction of a fabric entry: KIND, SRC, DST, PART (R60). -/
structure FabricHalf where
  kind : Nat
  src : Nat
  dst : Nat
  part : Nat
deriving DecidableEq, Repr

def fabricHalf (w : Word128) (dir : Bool) : FabricHalf :=
  let lo := if dir then 0 else 64
  ⟨field w.toNat (lo + 60) 4, field w.toNat (lo + 52) 8, field w.toNat (lo + 44) 8, field w.toNat (lo + 24) 20⟩

/-! ### Scratchpad addresses (R228) -/

def sliceSize : Nat := 0x0C000000
def hbmSize : Nat := 0x7800000000

/-- The window of a slice address and its offset; none outside the three windows. -/
def spWindow (a : Nat) : Option (WriteOp × Nat) :=
  if a < 0x0C000000 then some (.plain, a)
  else if 0x10000000 ≤ a ∧ a < 0x1C000000 then some (.set, a - 0x10000000)
  else if 0x20000000 ≤ a ∧ a < 0x2C000000 then some (.clr, a - 0x20000000)
  else none

/-- The offset of a slice address: the address modulo 0x1000_0000 (R228). -/
def spOffset (a : Nat) : Nat := a % 0x10000000

/-- How an access that is made at an address writes its word, and at which offset: the address's window decides (R228). -/
def spTarget (op : WriteOp) (a : Nat) : WriteOp × Nat :=
  match op, spWindow a with
  | .plain, some (w, o) => (w, o)
  | op, _ => (op, spOffset a)

/-- A byte, bytes and a little-endian number of a slice at an address of any window; SET and CLR read as plain (R228). -/
def Memory.via (m : Memory) (a : Nat) : Byte := m.read (spOffset a)
def Memory.viaBytes (m : Memory) (a len : Nat) : Bytes := m.readBytes (spOffset a) len
def Memory.viaLe (m : Memory) (a k : Nat) : Nat := m.readLe (spOffset a) k

/-- OP of a slice access in a fault record: 0 read, 1 write, 2 SET, 3 CLR (R253). -/
def accessOp (right a : Nat) : Nat :=
  if right = 0 then 0 else match spWindow a with | some (.set, _) => 2 | some (.clr, _) => 3 | _ => 1

/-- The bank of an offset (R10, R228). -/
def bankOf (o : Nat) : Nat := o / 64 % 64

/-- Bytes written through a window (R228, R229). -/
def spWrite (op : WriteOp) (m : Memory) (a : Nat) (data : Bytes) : Memory :=
  match op with
  | .plain => m.writeBytes a data
  | .set => m.writeBytes a (List.zipWith (· ||| ·) (m.readBytes a data.length) data)
  | .clr => m.writeBytes a (List.zipWith (fun x d => x &&& ~~~d) (m.readBytes a data.length) data)

/-- A row of a pseudo-channel as a health record entry (R366): cause in [31:30]. -/
def rowEntry (pc bank row cause : Nat) : Nat := pc + 2 ^ 10 * bank + 2 ^ 16 * row + 2 ^ 30 * cause

/-- The row of an HBM address as a health record entry (R233, R366). -/
def rowEntryAt (a cause : Nat) : Nat :=
  let t := a / 2048
  let o := t / 640 * 2048 + a % 2048
  rowEntry (t % 640) (o / 1024 % 48) (o / 49152) cause

/-! ### Shelves and regions (R171, R246, R248) -/

/-- The shelf that a view names, and whether it is of the ledger (R171). -/
def State.viewShelf (s : State) (view : Nat) : Option (Bool × Bool) :=
  match view with
  | 1 => some (false, s.job.g)
  | 2 => some (false, !s.job.g)
  | 3 => some (false, if s.job.abandoned then s.job.g else !s.job.g)
  | 4 => some (true, s.job.lg)
  | 5 => some (true, !s.job.lg)
  | _ => none

def Region.bytes (r : Region) : Nat := r.size * 65536
def Region.used (r : Region) : Bool := r.place != 0
def Region.inHbm (r : Region) : Bool := r.place == 1 || r.place == 3
def Region.inSlice (r : Region) (c : Fin 8) : Bool := (r.place == 2 || r.place == 4) && bitAt r.cores c
/-- A right of a master class: 0 R, 1 W, 2 S (R246, R247). -/
def Region.grants (r : Region) (cls right : Nat) : Bool := bitAt r.perm (4 * cls + right)

def unusedRegion : Region := ⟨0, 0, 0, 0, 0, false, false, false, false, 0, 0xFFFF, 0xFFFF, 0, 0, false⟩
def State.region (s : State) (i : Nat) : Region := s.regions.getD i unusedRegion

/-- The region of a slice that covers an extent (R248). -/
def State.sliceRegion (s : State) (c : Fin 8) (off len : Nat) : Option Nat :=
  findIdxFrom (fun r => r.inSlice c && decide (r.base ≤ off ∧ off + len ≤ r.base + r.bytes)) 0 s.regions

def State.hbmRegion (s : State) (a len : Nat) : Option Nat :=
  findIdxFrom (fun r => r.inHbm && decide (r.base ≤ a ∧ a + len ≤ r.base + r.bytes)) 0 s.regions

/-- Outcome of a region check: pass with the region, or the fault kind with the region that covers the access. -/
inductive Check where
  | pass (region : Nat)
  | fail (kind region : Nat)
deriving DecidableEq, Repr

/-- Check of an extent of a slice, by address and right; an address in the SET or CLR window needs S (R228, R229, R248). -/
def State.checkSlice (s : State) (cls : Nat) (c : Fin 8) (right a len : Nat) : Check :=
  match spWindow a with
  | none => .fail 1 0xFFFF
  | some (w, o) =>
    if sliceSize < o + len then .fail 1 0xFFFF else
    match s.sliceRegion c o len with
    | none => .fail 1 0xFFFF
    | some i =>
      let right := if right = 1 ∧ w ≠ .plain then 2 else right
      if (s.region i).grants cls right then .pass i else .fail 2 i

/-- An access of an instruction: the right that it needs, and its extents, of which the first names its first byte. One region
covers all of it (R248; DEDUCED, log 81). -/
structure Access where
  right : Nat
  ext : List (Nat × Nat)
deriving DecidableEq, Repr

/-- Check of an access of several extents: every extent passes in one region. -/
def State.checkAccess (s : State) (cls : Nat) (c : Fin 8) (right : Nat) : List (Nat × Nat) → Check
  | [] => .pass 0xFFFF
  | (a, n) :: t =>
    match s.checkSlice cls c right a n with
    | .fail k r => .fail k r
    | .pass i =>
      match (t.map (fun e => s.checkSlice cls c right e.1 e.2)).find? (fun x => x != .pass i) with
      | none => .pass i
      | some (.fail k r) => .fail k r
      | some (.pass _) => .fail 1 0xFFFF

/-- All accesses of a list pass, or the first failure: its kind, its region, OP and the first byte of the access (R253). -/
def State.checkAll (s : State) (cls : Nat) (c : Fin 8) : List Access → Option (Nat × Nat × Nat × Nat)
  | [] => none
  | x :: t =>
    let ext := x.ext.filter (fun e => e.2 != 0)
    match s.checkAccess cls c x.right ext with
    | .pass _ => s.checkAll cls c t
    | .fail k r => let a := (ext.headD (0, 0)).1; some (k, r, accessOp x.right a, a)

/-- A region with a view, resolved to its member (R246): the member's index, or a fault kind. -/
def State.resolve (s : State) (region view : Nat) (write : Bool) : Except Nat Nat :=
  let r := s.region region
  if !r.used then .error 1
  else if !r.pair then (if view = 0 then .ok region else .error 2)
  else match s.viewShelf view with
    | none => .error 2
    | some (ledger, shelf) =>
      if ledger != r.ledger then .error 2
      else if write && (view = 1 || view = 3 || view = 4) then .error 2
      else .ok (if r.shelf == shelf then region else r.partner)

/-- Check of an access by region, offset and view (R245, R248). `core` is the slice that a scratchpad region lies in. -/
def State.checkRegion (s : State) (cls : Nat) (core : Fin 8) (region view right off len : Nat) : Check :=
  match s.resolve region view (right != 0) with
  | .error k => .fail k region
  | .ok i =>
    let r := s.region i
    if r.bytes < off + len then .fail 1 i
    else if !(r.inHbm || r.inSlice core) then .fail 1 i
    else if r.grants cls right then .pass i else .fail 2 i

/-! ### Tiles and check areas (R238 to R241) -/

def Region.tileBytes (r : Region) : Nat := if r.small then 1536 else 2048
/-- TB of R240. -/
def Region.segment (r : Region) : Nat := r.tileBytes / 2 ^ r.thLog2
def Region.rowt (r : Region) : Nat := r.rowBytes / r.segment
def Region.tileRow (r : Region) : Nat := 2 ^ r.thLog2 * r.rowBytes
/-- Whole tiles of the region (R240). -/
def Region.tiles (r : Region) : Nat := r.bytes / r.tileRow * r.rowt
/-- Local index of the tile at a region offset (R240). -/
def Region.tileAt (r : Region) (f : Nat) : Nat := f / r.tileRow * r.rowt + f % r.rowBytes / r.segment
/-- Region offsets of a tile's segments. -/
def Region.segments (r : Region) (j : Nat) : List Nat :=
  (List.range (2 ^ r.thLog2)).map (fun k => j / r.rowt * r.tileRow + k * r.rowBytes + j % r.rowt * r.segment)

/-- Columns of a tile: TW of R238. -/
def TensorEntry.tileWidth (t : TensorEntry) : Nat := 2 ^ t.twLog2
/-- Rows of a tile: TH of R238. -/
def TensorEntry.tileHeight (t : TensorEntry) : Nat :=
  if fmtBits t.format = 6 then 2048 / t.tileWidth else 16384 / (t.tileWidth * fmtBits t.format)
/-- Global index of tile (i, j) of a tensor (R238). -/
def TensorEntry.tileIndex (t : TensorEntry) (i j : Nat) : Nat := i * ceilDiv t.cols t.tileWidth + j

/-- Tiles of a tensor (R238). -/
def TensorEntry.tileCount (t : TensorEntry) : Nat := t.tileIndex (ceilDiv t.rows t.tileHeight) 0

/-- Provenance byte (R241). -/
def provenance (core unit engine : Nat) : Byte := BitVec.ofNat 8 (core * 32 + unit * 4 + engine)

/-- The bytes of a tile by a reader of region offsets (R238). -/
def tileData (r : Region) (rd : Nat → Byte) (j : Nat) : Bytes :=
  (r.segments j).flatMap (fun o => (List.range r.segment).map (fun k => rd (o + k)))

/-- Tiles whose every segment lies inside the extents (offset, length) of a write (R242). -/
def coveredTiles (r : Region) (ext : List (Nat × Nat)) : List Nat :=
  let touched := (ext.flatMap (fun e =>
    (List.range (ceilDiv e.2 r.segment + 1)).map (fun k => r.tileAt (min (e.1 + k * r.segment) (e.1 + e.2 - 1))))).eraseDups
  touched.filter (fun j => decide (j < r.tiles) && (r.segments j).all (fun o =>
    ext.any (fun e => decide (e.1 ≤ o ∧ o + r.segment ≤ e.1 + e.2))))

/-! ### ECC (R232, R237) -/

/-- The first uncorrectable mark of an extent and the number of its correctable ones. -/
def eccScan (marks : List (Nat × EccMark)) (gran a len : Nat) : Option Nat × Nat :=
  let hit := marks.filter (fun m => decide (m.1 + gran > a ∧ m.1 < a + len))
  ((hit.find? (fun m => m.2.uncorrectable)).map (·.1), (hit.filter (fun m => !m.2.uncorrectable)).length)

/-- A write removes transient marks: all of the units that it covers, and a correctable one of a unit that it covers in part, which it
corrects first (R232, R237). -/
def eccCleared (marks : List (Nat × EccMark)) (gran a len : Nat) : List (Nat × EccMark) :=
  marks.filter (fun m => m.2.hard || !decide (a ≤ m.1 ∧ m.1 + gran ≤ a + len)
    && (m.2.uncorrectable || !decide (m.1 + gran > a ∧ m.1 < a + len)))

/-- Code words that a partial, SET or CLR write corrects as it reads them (R232). -/
def eccMerged (marks : List (Nat × EccMark)) (op : WriteOp) (a len : Nat) : Nat :=
  (marks.filter (fun m => !m.2.uncorrectable && decide (m.1 + 8 > a ∧ m.1 < a + len)
    && (op != .plain || !decide (a ≤ m.1 ∧ m.1 + 8 ≤ a + len)))).length

/-- A write of extents removes the marks of each (R232, R237). -/
def eccWritten (marks : List (Nat × EccMark)) (gran : Nat) (ext : List (Nat × Nat)) : List (Nat × EccMark) :=
  ext.foldl (fun m e => eccCleared m gran e.1 e.2) marks

/-- A partial write meets an uncorrectable error in a code word that it does not cover (R232). -/
def eccBlocks (marks : List (Nat × EccMark)) (op : WriteOp) (a len : Nat) : Option Nat :=
  ((marks.filter (fun m => m.2.uncorrectable && decide (m.1 + 8 > a ∧ m.1 < a + len)
    && (op != .plain || !decide (a ≤ m.1 ∧ m.1 + 8 ≤ a + len)))).head?).map (·.1)

def satAdd16 (x : U16) (n : Nat) : U16 := if x.toNat + n > 0xFFFF then 0xFFFF else x + BitVec.ofNat 16 n

/-- ECC_COUNT as a register (R254). -/
def State.eccCount (s : State) : Nat :=
  s.faults.hbmCorrected.toNat * 2 ^ 48 + s.faults.spCorrected.toNat * 2 ^ 32 + s.faults.hbmUncorrected.toNat * 2 ^ 16
    + s.faults.spUncorrected.toNat

/-- Corrected errors are counted; every CORR_NOTICE of them raise ECC_CORRECTED (R232, R237, R254, R319). -/
def State.countCorrected (hbm : Bool) (n : Nat) (s : State) : State :=
  let q := s.cfg.corrNotice.toNat
  let since := s.faults.sinceNotice + n
  let f := if hbm then { s.faults with hbmCorrected := satAdd16 s.faults.hbmCorrected n }
    else { s.faults with spCorrected := satAdd16 s.faults.spCorrected n }
  let s := { s with faults := { f with sinceNotice := if q = 0 then 0 else since % q } }
  (List.range (since / q)).foldl (fun s _ => s.event 12 (le64 s.eccCount) []) s

/-- A corrected burst: counted, and its row joins the repair list with its CORR_LIMIT-th correction (R237, R254). The row is a health
record entry of cause 0. -/
def State.correctedRow (row : Nat) (s : State) : State :=
  let n := tabGet 0 row s.hbm.rowCorrections + 1
  let s := { s with hbm := { s.hbm with rowCorrections := tabSet row n s.hbm.rowCorrections } }
  let s := s.countCorrected true 1
  if s.cfg.corrLimit.toNat ≤ n then s.addRepair (row + 2 * 2 ^ 30) else s

/-- The receiver of the lane that gives the follow clock is locked: the lane has not failed (R281, R333; DEDUCED, log 60). -/
def State.linkLocked (s : State) : Bool :=
  if h : s.links.followPort.toNat < 16 then !((s.port ⟨s.links.followPort.toNat, h⟩).failed.contains (true, s.links.followLane.toNat))
  else true

/-- The correctable marks of an extent. -/
def eccGood (marks : List (Nat × EccMark)) (gran a len : Nat) : List Nat :=
  (marks.filter (fun m => !m.2.uncorrectable && decide (m.1 + gran > a ∧ m.1 < a + len))).map (·.1)

/-- The correctable errors that a read meets: of HBM, each is a corrected burst of its row (R232, R237, R254). -/
def State.correct (hbm : Bool) (marks : List Nat) (s : State) : State :=
  marks.foldl (fun s a => if hbm then s.correctedRow (rowEntryAt a 0) else s.countCorrected false 1) s

/-! ### Faults of job masters (R249, R253) -/

/-- MASTER of R253: class and index. -/
def masterCode (cls idx : Nat) : Nat := cls * 4096 + idx
def seqMaster (core unit : Nat) : Nat := masterCode 0 (8 * core + unit)
def dmaMaster (core engine : Nat) : Nat := masterCode 1 (4 * core + engine)
def ropMaster (core : Nat) : Nat := masterCode 2 core
def ckptMasterCode : Nat := masterCode 4 0
def testMasterCode : Nat := masterCode 5 0

/-- The master of a stream's unit: the DMA engine for UNIT 3 to 6, else the core's sequencer (R247). -/
def unitMaster (core unit : Nat) : Nat := if unit < 3 then seqMaster core unit else dmaMaster core (unit - 3)

/-- Freeze the master of a code and its stream (R249). -/
def State.freezeMaster (m : Nat) (s : State) : State :=
  let cls := m / 4096
  let idx := m % 4096
  let stop := fun (core unit : Nat) (s : State) =>
    if h : core < 8 then
      s.modCore ⟨core, h⟩ (fun k => { k with streams := k.streams.mapIdx (fun j p => if j = unit then { p with frozen := true } else p) })
    else s
  match cls with
  | 0 => stop (idx / 8) (idx % 8) s
  | 1 => stop (idx / 4) (idx % 4 + 3) s
  | 2 => if h : idx < 8 then s.modCore ⟨idx, h⟩ (fun k => { k with ropFrozen := true }) else s
  | 4 => { s with ckptMaster := true }
  | _ => { s with testMaster := true }

/-- A checkpoint is streaming (R253, R316). -/
def State.ckptStreaming (s : State) : Bool := s.ckpt.st == 2

/-- Insert a record among those of its ac, in ascending MASTER (R253). -/
def insertFault (r : FaultRec) : List FaultRec → List FaultRec
  | [] => [r]
  | x :: t => if x.sched = r.sched ∧ r.master < x.master then r :: x :: t else x :: insertFault r t

/-- A fault record less the fields that `raiseFault` fills in. -/
def faultRec (kind master region op place address instr opcode progressA progressB detail : Nat) : FaultRec :=
  ⟨kind, 0, master, region, op, place, 0, 0, address, 0, instr, opcode, progressA, progressB, detail⟩

/-- An uncorrectable error is counted, once for each read that meets one (R254). -/
def State.countUncorrected (hbm : Bool) (s : State) : State :=
  { s with faults := if hbm then { s.faults with hbmUncorrected := satInc s.faults.hbmUncorrected }
    else { s.faults with spUncorrected := satInc s.faults.spUncorrected } }

/-- A fault record with its flags and the counts of the present ac (R253). -/
def State.stampRecord (r : FaultRec) (s : State) : FaultRec :=
  let later := match s.job.faultAt with | some g => decide (g < s.now ∧ s.now < g + 8) | none => false
  { r with
    flags := bit (decide (r.master < masterCode 3 0)) + 2 * bit s.job.halt.isSome + 4 * bit s.ckptStreaming + 8 * bit later,
    sched := s.now, wall := s.wall.toNat, barrierSeq := s.job.barrierSeq.toNat }

/-- A master of class SEQ, DMA, ROP, CKPT or TEST faults in this ac: the record, the frozen master with its stream, its stop, and the
hold due at f + 8 (R249, R253). -/
def State.raiseFault (r : FaultRec) (s : State) : State :=
  let f := s.now
  let held := s.job.st != .empty && s.job.st != .faultHeld
  let r := s.stampRecord r
  let full := decide (16 ≤ s.faults.job.length)
  let s := { s with faults := { s.faults with
    job := (if full then s.faults.job else insertFault r s.faults.job),
    dropped := if full then satInc s.faults.dropped else s.faults.dropped } }
  let s := if r.kind = 4 then s.countUncorrected (r.place = 1 || r.place = 3) else s
  let s := s.freezeMaster r.master
  { s with
    stopped := ⟨r.master, f, r.kind == 4⟩ :: s.stopped
    job := (if held then { s.job with
      faultAt := some (s.job.faultAt.getD f), faultDue := s.job.faultDue || s.job.faultAt.isNone } else s.job) }

/-- An effect still takes place, whatever masters have stopped: its own master stopped in no earlier ac, and the master that sent it had
read it by then (R249); what a master read in the ac of an uncorrectable error does not go on (R232). -/
def Timed.goesOn (l : List Stop) (t : Timed) : Bool :=
  l.all (fun x => !(t.org.master == x.master && decide (x.at_ < t.at_))
    && (match t.org.via with
        | some (m, a) => !(m == x.master && (decide (x.at_ < a) || (x.bad && a == x.at_)))
        | none => true))

/-- The FAULT event of a hold, at the end of ac f: record 0 is then the cause (R249, R253, R319). -/
def State.raiseFaultEvent (s : State) : State :=
  if s.job.faultDue then
    let r := s.faults.job.headD (faultRec 0 0 0xFFFF 0 0 0 0 0 0 0 0)
    ({ s with job := { s.job with faultDue := false } }).event 7 (u8 r.kind) r.bytes
  else s

/-- ADDRESS of a slice byte: [34:32] core and [31:0] slice address (R253). -/
def sliceAddress (c : Fin 8) (a : Nat) : Nat := c.val * 2 ^ 32 + a

/-! ### Reading memory as of an ac -/

/-- A slice with bytes written at an address of any window (R228, R229). -/
def spStore (op : WriteOp) (m : Memory) (a : Nat) (data : Bytes) : Memory := spWrite (spTarget op a).1 m (spTarget op a).2 data

/-- A slice with an i48 added to the word at an address, and whether the sum saturated (R119, R270). -/
def spAdd48 (m : Memory) (a : Nat) (x : Int) : Memory × Bool :=
  let y := i48Add (i48Of (m.viaBytes a 8)) x
  (spStore .plain m a (i48Bytes y.1), y.2)

/-- A memory (a core's slice, or HBM) as a read in ac `t` sees it: the changes of that ac and of later ones are taken back (R26, R43). -/
def undo (sl : Option (Fin 8)) (t : Nat) (past : List Former) (m : Memory) : Memory :=
  past.foldl (fun m f => if f.slice == sl && decide (t ≤ f.at_) then m.writeBytes f.addr f.bytes else m) m

def State.sliceAsOf (s : State) (c : Fin 8) (t : Nat) : Memory := undo (some c) t s.past (s.core c).mem
def State.hbmAsOf (s : State) (t : Nat) : Memory := undo none t s.past s.hbm.mem
/-- A core's slice as a read of this ac sees it. -/
def State.sliceNow (s : State) (c : Fin 8) : Memory := s.sliceAsOf c s.now

/-- What an extent holds is kept before it changes, for the reads of this ac and of earlier ones; a change made while schedule time stands
is seen from the ac in which it goes on. -/
def State.remember (sl : Option (Fin 8)) (a n : Nat) (s : State) : State :=
  let m := match sl with | some c => (s.core c).mem | none => s.hbm.mem
  { s with past := ⟨if s.scheduleRuns then s.now else s.now - 1, sl, a, m.readBytes a n⟩ :: s.past }

/-! ### Landing (R26, R43, R74, R231) -/

/-- Service order of the port of an access (R230); 16 for effects that are no access to a bank. -/
def Effect.port : Effect → Nat
  | .sp _ _ _ p _ => p
  | .spRead _ _ _ p => p
  | .i48 _ _ p _ _ => p
  | _ => 16

/-- Words that a port serves in one fc (R230). -/
def portWords (p : Nat) : Nat := if p = 0 ∨ p = 3 then 64 else 16

/-- An access to banks: its ac, its fc and whether the manual fixes the fc, core, address, length, first word, words, OP of R253, port,
master, head word, and whether it is the OR of an output stage into a working slot. -/
structure BankUse where
  at_ : Nat
  half : Bool
  fixed : Bool
  core : Fin 8
  addr : Nat
  len : Nat
  first : Nat
  words : Nat
  op : Nat
  port : Nat
  master : Nat
  instr : Nat
  slot : Bool
deriving DecidableEq, Repr

/-- OP of a write in a fault record (R253). -/
def writeOp (op : WriteOp) : Nat := match op with | .plain => 1 | .set => 2 | .clr => 3

/-- The manual fixes the fc of an access: of the DMA engines and the remote-operation port (R244, R268), and of the elements that GATHER
and SCATTER move (R223). -/
def Timed.fixedFc (t : Timed) (port : Nat) : Bool :=
  decide (5 ≤ port) || (port != 2 && (t.org.opcode == 0x060 || t.org.opcode == 0x061) && decide (t.org.master < 4096 ∧ t.org.master % 8 = 1))

/-- The banks that an effect uses. -/
def Timed.use (t : Timed) : Option BankUse :=
  let span := fun (c : Fin 8) (a n op p : Nat) (slot : Bool) =>
    let o := spOffset a
    some (⟨t.at_, t.half, t.fixedFc p, c, a, n, o / 64, (o % 64 + n + 63) / 64, op, p, t.org.master, t.org.instr, slot⟩ : BankUse)
  match t.eff with
  | .sp c a op p d => span c a d.length (writeOp (spTarget op a).1) p (op == .set && decide (p < 5))
  | .spRead c a n p => span c a n 0 p false
  | .i48 c a p _ _ => span c a 8 4 p false
  | _ => none

/-- Two accesses of one ac fall into one fc; a free value where the manual fixes the fc of not both (log 24). -/
def BankUse.sameFc (x y : BankUse) : Bool :=
  if x.fixed && y.fixed then x.half == y.half else Config.sharedFc x.at_ x.port x.first y.port y.first

/-- Words `i` of an access and `j` of another take one bank, and are not two reads of one word (R231). -/
def BankUse.meets (x y : BankUse) (i j : Nat) : Bool :=
  (x.first + i) % 64 == (y.first + j) % 64 && (x.op != 0 || y.op != 0 || x.first + i != y.first + j)

/-- The offsets, in words, of the words of an access that another access meets. -/
def BankUse.met (x y : BankUse) : List Nat :=
  (List.range (min x.words 64)).filter (fun i => (List.range (min y.words 64)).any (fun j => x.meets y i j))

/-- Two accesses collide: of different ports of R230 on one bank in one fc, or the ORs of two output stages into slots of one word
(R150, R231). -/
def BankUse.collides (x y : BankUse) : Bool :=
  x.at_ == y.at_ && x.core == y.core && (x.port != y.port || (x.slot && y.slot && x.first == y.first))
  && !(x.met y).isEmpty && x.sameFc y

/-- An effect takes place (R43). -/
def State.apply (e : Effect) (s : State) : State :=
  match e with
  | .sp c a op _ data =>
    (s.remember (some c) (spOffset a) data.length).modCore c (fun k => { k with
      mem := spStore op k.mem a data, ecc := eccCleared k.ecc 8 (spOffset a) data.length,
      crossed := k.crossed.filter (fun b => !decide (spOffset a ≤ b ∧ b < spOffset a + data.length)) })
  | .hbm a data =>
    let s := s.remember none a data.length
    { s with hbm := { s.hbm with mem := s.hbm.mem.writeBytes a data, ecc := eccCleared s.hbm.ecc 32 a data.length } }
  | .i48 c a _ id x =>
    ((s.remember (some c) (spOffset a) 8).remember (some c) (s.cfg.workBase.toNat + 16 * id) 16).modCore c (fun k =>
      let y := spAdd48 k.mem a x
      { k with
        mem := (if y.2 then spWrite .set y.1 (s.cfg.workBase.toNat + 16 * id) (Gather.slotBytes ⟨0, true, false, false⟩) else y.1),
        ecc := eccCleared k.ecc 8 (spOffset a) 8 })
  | .counterSet c v => s.setCounter c v.toNat
  | .counterAdd c v => s.setCounter c (s.counter c + v.toNat)
  | .slotOr c id g =>
    (s.remember (some c) (s.cfg.workBase.toNat + 16 * id) 16).modCore c (fun k => { k with mem := spWrite .set k.mem (s.cfg.workBase.toNat + 16 * id) g.slotBytes })
  | .vecDone c f =>
    s.modCore c (fun k => { k with vecCount := k.vecCount + 1, vecFlags :=
      ⟨k.vecFlags.clamp || f.clamp, k.vecFlags.fmtSat || f.fmtSat, k.vecFlags.ovf || f.ovf, k.vecFlags.inv || f.inv,
       k.vecFlags.empty || f.empty⟩ })
  | .tables c id a q =>
    s.modCore c (fun k => { k with anchors := tabSet id a k.anchors, quanta := tabSet id q k.quanta })
  | .normAdd c g x nsat =>
    s.modCore c (fun k =>
      let e := tabGet GroupEntry.initial g k.groups
      { k with groups := tabSet g { e with ng := (e.ng + x) % 2 ^ 256, nsat := e.nsat || nsat || decide (2 ^ 256 ≤ e.ng + x) } k.groups })
  | .groupSet c g e =>
    let known := allCores.any (fun c' => (tabGet GroupEntry.initial g (s.core c').groups).clipped)
    let j := { s.job with
      clipped := if e.clipped && !known then s.job.clipped + 1 else s.job.clipped,
      abandoned := s.job.abandoned || e.st == .abandon,
      abandonGroup := if e.st == .abandon && decide (g < s.job.abandonGroup.toNat) then BitVec.ofNat 16 g
        else s.job.abandonGroup }
    ({ s with job := j }).modCore c (fun k => { k with groups := tabSet g e k.groups })
  | .lanesAdd c g d w =>
    s.modCore c (fun k =>
      let e := tabGet GroupEntry.initial g k.groups
      { k with groups := tabSet g { e with dw2 := e.dw2.addLane d, w2 := e.w2.addLane w } k.groups })
  | .fmtSat => { s with job := { s.job with fmtSat := true } }
  | .stepCalc c x => s.modCore c (fun k => { k with stepCalc := x })
  | .gnorm x => { s with cores := s.cores.map (fun k => { k with gnorm := x }) }
  | .shaSlot c n x => s.modCore c (fun k => { k with sha := tabSet n x k.sha })
  | .fprint d => { s with job := { s.job with fprint := d } }
  | .ratioBand entry g => s.event 11 (le64 s.job.stepNum.toNat ++ le16 g) entry
  | .spRead _ _ _ _ => s
  | .gx _ _ _ _ _ _ _ => s
  | .fault r => s.raiseFault r
  | .fabricOut u part a d => { s with fabric := { s.fabric with out := s.fabric.out ++ [⟨u, part, a, d⟩] } }
  | .corrected hbm n => s.countCorrected hbm n
  | .rowCorrected a => s.correctedRow (rowEntryAt a 0)
  | .suspect r c => s.makeSuspect r c 0xFF (((s.faults.job.head?).map FaultRec.bytes).getD [])
  | .repair e => s.addRepair e
  | .crossed c a => s.modCore c (fun k => { k with crossed := a :: k.crossed })
  | .book p start x => s.modPort p (fun q => { q with booked := q.booked ++ [(start, x)] })

/-- A read of an instruction in progress gets undefined data in the words that another access meets (R231, log 1). -/
def State.spoilRead (x u : BankUse) (s : State) : State :=
  if x.op != 0 then s
  else
    (x.met u).foldl (fun s i =>
      let a := max (spOffset x.addr) (64 * (x.first + i))
      let n := min (spOffset x.addr + x.len) (64 * (x.first + i) + 64) - a
      let (k, s) := s.drawFree
      let sp : Spoil := ⟨x.at_, x.core, a, (List.range n).map (Config.freeByte k), (s.sliceAsOf x.core x.at_).readBytes a n⟩
      { s with running := s.running.map (fun r =>
          if r.org.master == x.master && r.org.instr == x.instr then { r with spoils := r.spoils ++ [sp] } else r) }) s

/-- What a collision does to the reads: a write spoils the earlier reads of its words, and a later read gets undefined data (R231). -/
def State.spoilReads (used : List BankUse) (u : BankUse) (s : State) : State :=
  used.foldl (fun s x =>
    if !x.collides u then s
    else if u.op = 0 then s.spoilRead u x
    else if x.first + x.words ≤ u.first ∨ u.first + u.words ≤ x.first then s else s.spoilRead x u) s

/-- One due effect lands, unless its bank is taken by an earlier access or its code words cannot be read (R231, R232). -/
def landOne (acc : State × List BankUse) (t : Timed) : State × List BankUse :=
  let (s, used) := acc
  match t.use with
  | none => (s.apply t.eff, used)
  | some u =>
    match used.find? (fun x => x.collides u) with
    | some x =>
      ((s.spoilReads used u).raiseFault (faultRec 6 t.org.master ((s.sliceRegion u.core (spOffset u.addr) 1).getD 0xFFFF) u.op 2
        (sliceAddress u.core u.addr) t.org.instr t.org.opcode t.org.pa t.org.pb x.master), used)
    | none =>
      let bad := match t.eff with
        | .sp c a op _ data => eccBlocks (s.core c).ecc (spTarget op a).1 (spOffset a) data.length
        | .i48 c a _ _ _ => eccBlocks (s.core c).ecc .set (spOffset a) 8
        | _ => none
      match bad with
      | some b => (s.raiseFault (faultRec 4 t.org.master ((s.sliceRegion u.core (spOffset u.addr) 1).getD 0xFFFF) u.op 2
          (sliceAddress u.core b) t.org.instr t.org.opcode t.org.pa t.org.pb 0), used ++ [u])
      | none =>
        let n := match t.eff with
          | .sp c a op _ data => eccMerged (s.core c).ecc (spTarget op a).1 (spOffset a) data.length
          | _ => 0
        let s := if n = 0 then s else s.countCorrected false n
        (s.apply t.eff, used ++ [u])

def Effect.isSet : Effect → Bool
  | .counterSet _ _ => true
  | _ => false

/-- The effects due in this ac, in the order in which they take place: SETs first (R74), accesses in the order of their fc and
port (R230), then the rest. -/
def dueOrder (due : List Timed) : List Timed :=
  let rest := due.filter (fun t => !t.eff.isSet)
  due.filter (fun t => t.eff.isSet)
  ++ [false, true].flatMap (fun h => (List.range 16).flatMap (fun p =>
      rest.filter (fun t => t.half == h && t.eff.port == p)))
  ++ rest.filter (fun t => t.eff.port == 16)

/-! ### Issue (R66 to R69) -/

/-- What an instruction does: a fault at issue, or the ac in which its unit becomes free, the last ac in which it has an effect, and
its effects. -/
inductive Plan where
  | fault (r : FaultRec)
  | run (free endAc : Nat) (effs : List Timed)

/-- The effects of a plan, and its last ac. -/
def Plan.effects : Plan → List Timed
  | .fault _ => []
  | .run _ _ effs => effs
def Plan.endAc : Plan → Nat
  | .fault _ => 0
  | .run _ endAc _ => endAc

/-- A stream issues in this ac: the schedule runs and its master is not frozen (R82, R249). -/
def State.canIssue (s : State) (i : Issue) : Bool :=
  s.scheduleRuns && !((s.core i.core).streams[i.unit]).frozen

/-- The number of head words that a trace keeps (R402). -/
def traceLength : Nat := 4096

/-- The stream moves past an issued word; `extra` is the COUNT of a DELAY (R66, R67). -/
def State.advance (i : Issue) (extra : Nat) (s : State) : State :=
  s.modCore i.core (fun k =>
    let p := k.streams[i.unit]
    let tr := k.trace ++ [(s.now, i.head)]
    { k with streams := k.streams.set i.unit { p with pos := p.pos + 1 + i.cont.length, base := s.now + extra },
             trace := tr.drop (tr.length - traceLength) })

/-- Head-word index of an issued word in its stream. -/
def State.headIndex (s : State) (i : Issue) : Nat := ((s.core i.core).streams[i.unit]).pos

/-- Opcode of a head word (R65). -/
def issueOpcode (i : Issue) : Nat := field i.head.toNat 96 10

/-- An origin with the progress of an access (R253). -/
def Origin.along (o : Origin) (pa pb : Nat) : Origin := { o with pa := pa, pb := pb }

/-- The origin of the effects of an issued word. -/
def State.origin (s : State) (i : Issue) : Origin := ⟨unitMaster i.core i.unit, s.headIndex i, issueOpcode i, none, 0, 0⟩

/-- The instruction of an issued word is in progress: it keeps its ac of issue, and the job's fields and its core's tables as the state
of its issue `u` has them (R135, R171). -/
def State.launch (i : Issue) (s u : State) : State :=
  { s with running := s.running ++ [⟨i, u.now, u.origin i, u.job, { u.core i.core with mem := [], ecc := [], crossed := [] }, []⟩] }

/-- A word of a unit's own operations issues (R69): a schedule fault if the unit is busy or its plan is one, else the unit is busy and
the instruction in progress. -/
def State.issueUnit (i : Issue) (plan : State → Origin → Plan) (s : State) : State :=
  if !s.canIssue i then s else
  let o := s.origin i
  let s' := s.advance i 0
  if (s.core i.core).busy[i.unit] > s.now then
    s'.raiseFault (faultRec 7 o.master 0xFFFF 5 0 0 o.instr o.opcode 0 0 0)
  else
    match plan s o with
    | .fault r => s'.raiseFault r
    | .run free _ _ => (s'.modCore i.core (fun k => { k with busy := k.busy.set i.unit free })).launch i s

/-- A fault at issue in the region check (R245, R248). -/
def accessFault (s : State) (o : Origin) (kind region op place address : Nat) : FaultRec :=
  faultRec kind o.master region op (if region < 0xFFFF then (s.region region).place else place) address o.instr o.opcode 0 0 0

/-- A fault at issue of an instruction that works in its slice. -/
def sliceFault (s : State) (o : Origin) (c : Fin 8) (kind region op a : Nat) : Plan :=
  .fault (accessFault s o kind region op 2 (sliceAddress c a))

end Sys2Proof.Machine
end

