-- ==== Sys2Proof/Machine/Regs.lean ====
section
/-! DEFINITION. The registers as hosts read and write them: number, instance, layout, classes and ranges (R8, R24, R83, R84,
R141, R157, R202, R226, R254, R290, R314, R329, R352, R380, R405, R425). -/
namespace Sys2Proof.Machine

/-- A register value out of (lowest bit, value) fields. -/
def packFields (fs : List (Nat × Nat)) : Nat := fs.foldl (fun a f => a + f.2 * 2 ^ f.1) 0

/-! ### Small readings that several registers share -/

/-- The last barrier number that has been released (R80, R85). -/
def State.releasedSeq (s : State) : Nat :=
  if s.job.barrier.isSome then s.job.barrierSeq.toNat - 1 else s.job.barrierSeq.toNat

/-- The number of the next barrier whose action 2 has not begun (R80). -/
def State.nextSeq (s : State) : Nat :=
  if s.job.barrier.isSome && s.job.resume != .action4 then s.job.barrierSeq.toNat else s.job.barrierSeq.toNat + 1

/-- A soak of one of the causes is in progress. -/
def State.soakActive (s : State) (causes : List Nat) : Bool := s.links.active && causes.contains s.links.soakCause.toNat

/-- ALERT_N is low (R351, R423). -/
def State.alert (s : State) : Bool :=
  !s.therm.dieNotice.isEmpty || !s.therm.hbmNotice.isEmpty || s.therm.inletNotice || s.therm.outletNotice
  || s.soakActive [2, 3, 4, 6] || s.power.policyClipped || s.clock.clockLost

/-- An i16 reading of a sensor list at its hottest entry: value and index; the first of equal readings. -/
def hottest (l : List (BitVec 16)) : Nat × Nat :=
  let step := fun (acc : Option (Int × Nat) × Nat) (x : BitVec 16) =>
    match acc with
    | (none, i) => (some (x.toInt, i), i + 1)
    | (some (m, j), i) => (some (if m < x.toInt then (x.toInt, i) else (m, j)), i + 1)
  match (l.foldl step (none, 0)).1 with
  | none => (0, 0)
  | some (m, j) => (ofSigned 16 m, j)

/-- A core is in a draw-ring window in the present ac (R356, R380). -/
def State.coreInWindow (s : State) (c : Nat) : Bool :=
  match s.image with
  | none => false
  | some im =>
    (s.job.st == .running || s.job.st == .soak || s.job.st == .hold) && !s.job.starting
    && (im.windows.getD c []).any (fun w => w.program == s.job.program
      && decide (s.job.stepStart + w.offset ≤ s.now ∧ s.now < s.job.stepStart + w.offset + w.length))

/-- Some core is in a draw-ring window (R380). -/
def State.inWindow (s : State) : Bool := (List.range 8).any s.coreInWindow

/-- Full in-field passes that every core has completed since LOAD_IMAGE (R380). -/
def State.passesAll (s : State) : Nat :=
  min 0xFFFF (allCores.foldl (fun m c => min m (s.core c).test.loadPasses) (s.core 0).test.loadPasses)

def State.seatKey (s : State) (seat : Nat) : Option Bytes :=
  match s.flash.keysA, s.flash.keysB with
  | some a, some b => let k := if a.generation < b.generation then b else a; (k.seats.find? (fun x => x.1 == seat)).map (·.2)
  | some a, none => (a.seats.find? (fun x => x.1 == seat)).map (·.2)
  | none, some b => (b.seats.find? (fun x => x.1 == seat)).map (·.2)
  | none, none => none

/-- The module holds an Operator key (R310). -/
def State.claimed (s : State) : Bool := (s.seatKey 1).isSome

/-- The staging area: base and size (R313). -/
def State.staging (s : State) : Nat × Nat := (65536 * s.cfg.stageBase.toNat, 65536 * s.cfg.stageSize.toNat)

/-! ### Values -/

def State.orgId : Nat :=
  packFields [(48, 0xE0A5), (40, 0x09), (36, Config.stepMajor.toNat), (32, Config.stepMinor.toNat), (28, 7), (24, 8), (19, 0x14),
    (8, 0x10), (1, Config.lcMaskUpper.toNat), (0, 1)]

def State.jobStateReg (s : State) : Nat :=
  packFields [(32, s.job.lastBarrier.toNat), (11, bit s.job.halt.isSome), (10, bit (!s.job.shadows.isEmpty)),
    (9, bit (s.imageFlag (·.levelB))), (8, bit s.paired), (4, s.job.program), (0, s.job.st.code)]

def State.stepState (s : State) : Nat :=
  packFields [(32, s.job.abandonGroup.toNat), (16, s.job.clipped.toNat), (3, bit s.job.fmtSat), (2, bit s.job.lagClipEn),
    (1, bit s.job.abandoned), (0, bit s.job.g)]

def State.vecStatus (s : State) (c : Fin 8) : Nat :=
  let k := s.core c
  packFields [(32, k.vecCount.toNat), (4, bit k.vecFlags.clamp), (3, bit k.vecFlags.fmtSat), (2, bit k.vecFlags.ovf),
    (1, bit k.vecFlags.inv), (0, bit k.vecFlags.empty)]

def State.memFault (s : State) : Nat :=
  packFields [(32, s.faults.sessionFaults.toNat), (24, s.faults.dropped.toNat), (16, s.faults.job.length),
    (8, match s.faults.job with | [] => 0 | r :: _ => r.kind)]

def State.elinkStatus (s : State) (p : Fin 16) : Nat :=
  let x := s.port p
  packFields [(48, x.retries.toNat), (40, x.misses.toNat), (36, x.spareFor.toNat), (33, x.st.toNat), (32, bit x.neighbourOk),
    (24, x.excess.toNat), (8, x.flightRc.toNat)]

def State.followCfg (s : State) : Nat :=
  packFields [(18, s.links.followDepth.toNat), (17, bit s.links.locked), (16, bit s.links.origin), (12, s.links.followPort.toNat),
    (8, s.links.followLane.toNat)]

def State.soakState (s : State) : Nat :=
  packFields [(32, s.links.soaks.toNat), (28, s.links.soakCause.toNat), (27, bit s.links.active), (26, bit s.links.soakLocal),
    (16, s.links.firstPort.toNat)]

/-- The cluster wall count (R283). -/
def State.clusterWall (s : State) : Nat := (s.wall + s.links.offset).toNat

def State.ethStatus (s : State) (p : Fin 2) : Nat :=
  let e := s.eth[p]
  packFields [(48, e.ingressDrop.toNat), (32, e.badTag.toNat), (16, e.replay.toNat), (8, e.pauseRx.toNat), (0, if e.link == 0 then 0 else if bitAt (s.cfg.netCfg[p]).toNat 25 then 2 else 1)]

/-- A port's slave clock is locked (R297). -/
def State.timeLocked (s : State) : Bool := s.eth[(0 : Fin 2)].ptpLocked || s.eth[(1 : Fin 2)].ptpLocked

def State.fcpCfg (s : State) : Nat :=
  packFields [(48, s.cfg.udpPort.toNat), (32, s.cfg.sessionIdle.toNat), (24, s.cfg.ptpDomain.toNat), (1, bit s.cfg.logAckReq),
    (0, bit s.timeLocked)]

def State.logState (s : State) : Nat :=
  packFields [(32, s.inputUnacked % 2 ^ 32), (16, s.eventUnacked % 2 ^ 16), (8, s.log.lost.toNat), (1, bit s.job.replay),
    (0, bit s.log.hold)]

def State.clkCfg (s : State) : Nat :=
  packFields [(40, s.cfg.monGate.toNat), (24, s.cfg.monWindow.toNat), (16, s.cfg.compareRef.toNat), (9, bit s.cfg.modeLink),
    (8, bit s.cfg.modeLocal), (0, s.cfg.rootSrc.toNat)]

def State.clkStatus (s : State) : Nat :=
  packFields [(48, s.clock.localMon.ppm.toNat), (32, if s.clock.linkMon.enabled then s.clock.linkMon.ppm.toNat else 0),
    (16, s.clock.ethMon.ppm.toNat), (8, bit s.clock.clockLost), (7, bit s.clock.rootLocked), (5, s.clock.rootActive.toNat),
    (3, bit s.clock.ethMon.ready), (2, 1), (1, bit s.clock.linkMon.ready), (0, bit s.clock.localMon.ready)]

def State.opPoint (s : State) : Nat :=
  packFields [(20, s.power.permitted.toNat), (19, bit s.power.pending.isSome), (18, bit s.power.vReady),
    (16, match s.power.pending with | some p => p.1.toNat | none => 0), (0, s.power.active.toNat)]

def State.avsStatus (s : State) : Nat :=
  packFields [(48, s.power.vCore), (32, s.power.vReq.toNat), (16, (Config.vFloorMv s.power.active.toNat).toNat),
    (2, bit s.power.policyClipped), (1, bit s.power.aboveMax), (0, bit s.power.atFloor)]

def State.powerStatus (s : State) : Nat :=
  packFields [(48, s.power.pIn.toNat), (32, s.power.pPeak.toNat), (16, s.power.vIn.toNat), (0, s.power.iIn.toNat)]

def State.thermStatus (s : State) : Nat :=
  let d := hottest s.therm.die
  let h := hottest s.therm.stackTemps
  packFields [(48, d.1), (32, h.1), (24, d.2), (16, h.2), (1, bit (!s.therm.hbmSoak.isEmpty)), (0, bit (!s.therm.dieSoak.isEmpty))]

def State.testStatus (s : State) : Nat :=
  packFields [(48, s.passesAll), (40, s.test.failedCores.toNat), (8, s.test.windows.toNat), (4, bit s.inWindow),
    (3, bit s.test.powerOnOk), (1, bit s.test.untested), (0, bit s.test.suspect)]

def State.ckptReg (s : State) : Nat :=
  packFields [(16, s.ckpt.step % 2 ^ 48), (7, bit s.ckpt.holding), (6, bit s.ckpt.buddy), (0, s.ckpt.st)]

def State.bootStatus (s : State) : Nat :=
  packFields [(32, s.boot.readyMs.toNat), (7, bit s.boot.unfollowed), (6, bit s.boot.linksPending), (5, bit s.boot.recovered),
    (4, bit s.boot.ready), (0, s.boot.stage.toNat)]

def State.secStatus (s : State) : Nat :=
  packFields [(58, s.fuses.svn), (52, s.boot.fwSvn),
    (32, sumBelow 5 (fun i => if (s.seatKey (i + 1)).isSome then 2 ^ i else 0)), (7, bit s.sec.trngFail),
    (6, bit s.sec.fwPending), (5, bit s.sec.spyholeOpen), (4, bit s.fuses.identityKill), (3, bit s.claimed)]

def State.modStatus (s : State) : Nat :=
  packFields [(48, s.therm.outlet.toNat), (32, s.therm.inlet.toNat), (24, s.pins.slotId.toNat), (16, min 255 s.therm.flow),
    (6, bit s.therm.lowFlow), (5, bit s.pins.trip), (4, bit s.alert), (3, bit s.pins.clkOrigin), (2, bit s.pins.debugEn),
    (1, bit s.pins.claimEn)]

/-- The value of a register; none where the number or the instance names none (R314). -/
def State.regValue (s : State) (n inst : Nat) : Option Nat :=
  let one := fun (v : Nat) => if inst = 0 then some v else none
  match n with
  | 0x010 => one State.orgId
  | 0x030 => one s.jobStateReg
  | 0x031 => one s.cfg.seqCfg.toNat
  | 0x032 => one s.sched.toNat
  | 0x033 => one s.wall.toNat
  | 0x034 => one s.job.barrierSeq.toNat
  | 0x050 => one s.cfg.jobSeed.toNat
  | 0x051 => one s.cfg.workBase.toNat
  | 0x052 => one (packFields [(32, s.job.ovfRecords.toNat), (16, s.job.invRecords.toNat), (0, bit s.job.lg)])
  | 0x060 => one s.cfg.exchU.toNat
  | 0x070 => one s.job.stepNum.toNat
  | 0x071 => one s.stepState
  | 0x072 => one (s.cfg.commitBase.toNat * 128)
  | 0x073 => one s.cfg.groupBase.toNat
  | 0x080 => if h : inst < 8 then some (s.vecStatus ⟨inst, h⟩) else none
  | 0x090 => one s.memFault
  | 0x091 => one s.eccCount
  | 0x092 => one (packFields [(16, s.cfg.corrLimit.toNat), (0, s.cfg.corrNotice.toNat)])
  | 0x0A0 => if h : inst < 16 then some (s.elinkStatus ⟨inst, h⟩) else none
  | 0x0A1 => one s.followCfg
  | 0x0A2 => one s.links.soakStop.toNat
  | 0x0A3 => one s.soakState
  | 0x0A4 => one s.clusterWall
  | 0x0B0 => if h : inst < 2 then some (s.ethStatus ⟨inst, h⟩) else none
  | 0x0B1 => if h : inst < 2 then some (s.cfg.netCfg[inst]).toNat else none
  | 0x0B2 => if h : inst < 2 then some (s.cfg.ipv6Prefix[inst]).toNat else none
  | 0x0B3 => one s.fcpCfg
  | 0x0B4 => one s.logState
  | 0x0B5 => one (packFields [(40, s.cfg.stageBase.toNat), (16, s.cfg.stageSize.toNat)])
  | 0x0C0 => one s.clkCfg
  | 0x0C1 => one s.clkStatus
  | 0x0C2 => one s.opPoint
  | 0x0C3 => one s.cfg.avsPolicy.toNat
  | 0x0C4 => one s.avsStatus
  | 0x0C5 => one (packFields [(48, s.cfg.capW.toNat), (32, s.cfg.ocFastW.toNat)])
  | 0x0C6 => one s.powerStatus
  | 0x0C7 => one (packFields [(56, s.cfg.dieSoak.toNat), (48, s.cfg.dieNotice.toNat), (40, s.cfg.hbmNotice.toNat)])
  | 0x0C8 => one s.thermStatus
  | 0x0D0 => one (bit s.cfg.testsOff)
  | 0x0D1 => one s.testStatus
  | 0x0D2 => one 0
  | 0x0D3 => one s.ckptReg
  | 0x0E0 => one s.bootStatus
  | 0x0E1 => one s.secStatus
  | 0x0F0 => one s.modStatus
  | _ => none

/-! ### Writable fields -/

inductive RegClass where
  | locked | barrier | free
deriving DecidableEq, Repr

/-- A writable field: lowest bit, width, class. -/
structure RegField where
  lo : Nat
  len : Nat
  cls : RegClass
deriving DecidableEq, Repr

/-- The writable fields of a register: RW, W1C and WO (R8, R314). -/
def regFields (n : Nat) : List RegField :=
  match n with
  | 0x031 => [⟨32, 16, .free⟩, ⟨0, 32, .free⟩]
  | 0x050 => [⟨0, 64, .locked⟩]
  | 0x051 => [⟨0, 32, .locked⟩]
  | 0x060 => [⟨0, 5, .locked⟩]
  | 0x071 => [⟨2, 1, .barrier⟩]
  | 0x072 => [⟨7, 32, .locked⟩]
  | 0x073 => [⟨0, 32, .locked⟩]
  | 0x080 => [⟨0, 5, .free⟩]
  | 0x090 => [⟨0, 1, .free⟩]
  | 0x092 => [⟨16, 16, .free⟩, ⟨0, 16, .free⟩]
  | 0x0A1 => [⟨16, 1, .locked⟩, ⟨12, 4, .locked⟩, ⟨8, 4, .locked⟩]
  | 0x0B1 => [⟨0, 64, .free⟩]
  | 0x0B2 => [⟨0, 64, .free⟩]
  | 0x0B3 => [⟨48, 16, .free⟩, ⟨32, 16, .free⟩, ⟨24, 8, .free⟩, ⟨1, 1, .locked⟩]
  | 0x0B5 => [⟨40, 24, .locked⟩, ⟨16, 24, .locked⟩]
  | 0x0C0 => [⟨40, 8, .free⟩, ⟨24, 16, .free⟩, ⟨16, 3, .locked⟩, ⟨9, 1, .locked⟩, ⟨8, 1, .locked⟩, ⟨0, 2, .locked⟩]
  | 0x0C3 => [⟨0, 64, .free⟩]
  | 0x0C4 => [⟨2, 1, .free⟩]
  | 0x0C5 => [⟨48, 16, .locked⟩, ⟨32, 16, .free⟩]
  | 0x0C7 => [⟨56, 8, .free⟩, ⟨48, 8, .free⟩, ⟨40, 8, .free⟩]
  | 0x0D0 => [⟨0, 1, .locked⟩]
  | 0x0D2 => [⟨8, 8, .free⟩, ⟨0, 1, .free⟩]
  | _ => []

def RegField.mask (f : RegField) : Nat := (2 ^ f.len - 1) * 2 ^ f.lo

/-- The bits of a class that a register lets hosts write. -/
def classMask (n : Nat) (c : RegClass) : Nat := ((regFields n).filter (fun f => f.cls == c)).foldl (fun a f => a + f.mask) 0

def writableMask (n : Nat) : Nat := (regFields n).foldl (fun a f => a + f.mask) 0

/-- The register as it would stand with the masked bits replaced. -/
def mergeBits (old value mask : Nat) : Nat := (old &&& (2 ^ 64 - 1 - mask)) ||| (value &&& mask)

/-- AVS_POLICY: each MIN at most its MAX, each MAX at most 0x5A (R352). -/
def avsPolicyOk (v : Nat) : Bool :=
  [0, 16, 32, 48].all (fun lo => decide (field v lo 8 ≤ field v (lo + 8) 8 ∧ field v (lo + 8) 8 ≤ 0x5A))

/-- Ranges, alignments and joined fields of the register as it would stand (R314). -/
def regInRange (n v : Nat) : Bool :=
  match n with
  | 0x051 => field v 0 32 % 64 == 0
  | 0x060 => decide (field v 0 5 ≤ 24)
  | 0x073 => field v 0 32 % 64 == 0
  | 0x0A1 => decide (field v 8 4 ≤ 8)
  | 0x0B1 => decide (field v 26 6 ≤ 32 ∧ 375 ≤ field v 0 12 ∧ field v 0 12 ≤ 2250)
  | 0x0C0 => decide (1 ≤ field v 40 8 ∧ 50 ≤ field v 24 16 ∧ field v 24 16 ≤ 1000 ∧ field v 16 3 ≤ 3 ∧ field v 0 2 ≤ 2)
  | 0x0C3 => avsPolicyOk v
  | 0x0C5 => decide (1000 ≤ field v 48 16 ∧ field v 48 16 ≤ 3000 ∧ 1000 ≤ field v 32 16 ∧ field v 32 16 ≤ 3300)
  | 0x0C7 => decide (70 ≤ field v 56 8 ∧ field v 56 8 ≤ 105 ∧ field v 48 8 ≤ field v 56 8 ∧ 40 ≤ field v 40 8 ∧ field v 40 8 ≤ 92)
  | _ => true

/-! ### Writing -/

/-- LOG_CLEAR empties the job fault log, in state EMPTY only (R254). -/
def State.clearFaultLog (s : State) : State :=
  if s.job.st == .empty then { s with faults := { s.faults with job := [], dropped := 0 } } else s

/-- A W1C write of VEC_STATUS (R8, R226). -/
def VecFlags.clear (f : VecFlags) (bits : Nat) : VecFlags :=
  ⟨f.clamp && !bitAt bits 4, f.fmtSat && !bitAt bits 3, f.ovf && !bitAt bits 2, f.inv && !bitAt bits 1, f.empty && !bitAt bits 0⟩

/-- POLICY_CLIPPED is cleared by writing 1 (R343, R352). -/
def State.clearPolicyClipped (s : State) : State := { s with power := { s.power with policyClipped := false } }

/-- HEALTH_CTL.DECLARE: SUSPECT with reason 5 and the value written as evidence (R363, R366, R380). -/
def State.declareSuspect (v : Nat) (s : State) : State :=
  s.makeSuspect 5 (field v 8 8) 0xFF (padTo 64 (le64 v))

/-- FOLLOW_CFG is written: LINK on another lane follows afresh, enabled once its port has reported the parent LOCKED (R394). -/
def State.follow (origin : Bool) (port lane : BitVec 4) (s : State) : State :=
  let fresh := !origin && (port != s.links.followPort || lane != s.links.followLane)
  let mon : SourceMon := if fresh then { SourceMon.initial with enabled := (s.port (Fin.ofNat 16 port.toNat)).lockedIn } else s.clock.linkMon
  { s with links := { s.links with origin := origin, followPort := port, followLane := lane }, clock := { s.clock with linkMon := mon } }

/-- A written register takes the value `v`; `bits` are the bits that the write carries as ones (for W1C and WO fields). The root
switch of a ROOT_SRC write is `State.switchRoot`. -/
def State.setReg (n inst v bits : Nat) (s : State) : State :=
  match n with
  | 0x031 => { s with cfg := { s.cfg with seqCfg := BitVec.ofNat 64 v } }
  | 0x050 => { s with cfg := { s.cfg with jobSeed := BitVec.ofNat 64 v } }
  | 0x051 => { s with cfg := { s.cfg with workBase := BitVec.ofNat 32 v } }
  | 0x060 => { s with cfg := { s.cfg with exchU := BitVec.ofNat 5 v } }
  | 0x071 => { s with job := { s.job with lagClipEn := bitAt v 2 } }
  | 0x072 => { s with cfg := { s.cfg with commitBase := BitVec.ofNat 32 (field v 7 32) } }
  | 0x073 => { s with cfg := { s.cfg with groupBase := BitVec.ofNat 32 v } }
  | 0x080 =>
    if h : inst < 8 then s.modCore ⟨inst, h⟩ (fun k => { k with vecFlags := k.vecFlags.clear bits }) else s
  | 0x090 => if bitAt bits 0 then s.clearFaultLog else s
  | 0x092 =>
    { s with cfg := { s.cfg with corrLimit := BitVec.ofNat 16 (field v 16 16), corrNotice := BitVec.ofNat 16 (field v 0 16) } }
  | 0x0A1 => s.follow (bitAt v 16) (BitVec.ofNat 4 (field v 12 4)) (BitVec.ofNat 4 (field v 8 4))
  | 0x0B1 =>
    if h : inst < 2 then
      { s with
        cfg := { s.cfg with netCfg := s.cfg.netCfg.set inst (BitVec.ofNat 64 v) },
        eth := if bitAt v 24 then s.eth else s.eth.set inst { s.eth[inst] with ptpLocked := false, ptpWaits := false } }
    else s
  | 0x0B2 =>
    if h : inst < 2 then { s with cfg := { s.cfg with ipv6Prefix := s.cfg.ipv6Prefix.set inst (BitVec.ofNat 64 v) } } else s
  | 0x0B3 =>
    { s with
      eth := if field v 24 8 = s.cfg.ptpDomain.toNat then s.eth
        else s.eth.map (fun e => { e with ptpLocked := false, ptpWaits := false })
      cfg := { s.cfg with
      udpPort := BitVec.ofNat 16 (field v 48 16), sessionIdle := BitVec.ofNat 16 (field v 32 16),
      ptpDomain := BitVec.ofNat 8 (field v 24 8), logAckReq := bitAt v 1 } }
  | 0x0B5 =>
    { s with cfg := { s.cfg with stageBase := BitVec.ofNat 24 (field v 40 24), stageSize := BitVec.ofNat 24 (field v 16 24) } }
  | 0x0C0 =>
    { s with cfg := { s.cfg with
      monGate := BitVec.ofNat 8 (field v 40 8), monWindow := BitVec.ofNat 16 (field v 24 16),
      compareRef := BitVec.ofNat 3 (field v 16 3), modeLink := bitAt v 9, modeLocal := bitAt v 8,
      rootSrc := BitVec.ofNat 2 (field v 0 2) } }
  | 0x0C3 => { s with cfg := { s.cfg with avsPolicy := BitVec.ofNat 64 v } }
  | 0x0C4 => if bitAt bits 2 then s.clearPolicyClipped else s
  | 0x0C5 =>
    { s with cfg := { s.cfg with capW := BitVec.ofNat 16 (field v 48 16), ocFastW := BitVec.ofNat 16 (field v 32 16) } }
  | 0x0C7 =>
    { s with cfg := { s.cfg with
      dieSoak := BitVec.ofNat 8 (field v 56 8), dieNotice := BitVec.ofNat 8 (field v 48 8),
      hbmNotice := BitVec.ofNat 8 (field v 40 8) } }
  | 0x0D0 => { s with cfg := { s.cfg with testsOff := bitAt v 0 } }
  | 0x0D2 =>
    let s := { s with cfg := { s.cfg with healthCore := BitVec.ofNat 8 (field v 8 8) } }
    if bitAt bits 0 then s.declareSuspect v else s
  | _ => s

/-! ### Barrier-class writes (R84 to R86) -/

/-- FIELD of a register and an instance (R314). -/
def fieldCode (n inst : Nat) : Nat := n * 2 ^ 20 + inst * 2 ^ 16

/-- The barrier number at which a pending write becomes active (R80, R86). -/
def State.shadowTarget (s : State) (x : Shadow) : Nat := if x.seq = 0 then s.nextSeq else x.seq

/-- The pending writes of a register that fall due first, with their barrier (R86). -/
def State.firstPending (s : State) (reg : Nat) : Option (Nat × List Shadow) :=
  match s.job.shadows.filter (fun x => x.reg == reg) with
  | [] => none
  | x :: t =>
    let first := t.foldl (fun m y => min m (s.shadowTarget y)) (s.shadowTarget x)
    some (first, (x :: t).filter (fun y => s.shadowTarget y == first))

/-- The register as it will act once a list of pending writes is active (R86). -/
def mergeShadows (active : Nat) (l : List Shadow) : Nat := l.foldl (fun v x => mergeBits v x.value.toNat x.mask.toNat) active

/-- A pending write replaces an earlier one to the same field (R85). -/
def State.addShadow (x : Shadow) (s : State) : State :=
  let clash := fun (y : Shadow) => y.reg == x.reg && (y.mask &&& x.mask) != 0 && y.live && x.live
  { s with job := { s.job with shadows := (s.job.shadows.filter (fun y => !clash y)) ++ [x] } }

/-- The shadow writes that a barrier number makes active: those that name it or none (R80, R85); in `exact` only those that name
it (R85: a resume at action 4). -/
def State.dueShadows (s : State) (seq : Nat) (exact : Bool) : List Shadow :=
  s.job.shadows.filter (fun x => x.seq == seq || (!exact && x.seq == 0))

/-- One register's due writes become active with one record (R35, R85). -/
def activateReg (seq : Nat) (due : List Shadow) (reg : Nat) (s : State) : State :=
  let n := reg / 2 ^ 20
  let inst := reg / 2 ^ 16 % 16
  match s.regValue n inst with
  | none => s
  | some old =>
    let v := (due.filter (fun x => x.reg == reg)).foldl (fun v x => mergeBits v x.value.toNat x.mask.toNat) old
    let s := s.setReg n inst v 0
    let now := (s.regValue n inst).getD v
    s.event 3 (le32 reg ++ le32 0 ++ le64 now ++ le64 seq) []

/-- Action 2: due barrier-class writes become active and are logged (R79, R85). -/
def State.activate (seq : Nat) (exact : Bool) (s : State) : State :=
  let due := s.dueShadows seq exact
  let regs := (due.map (·.reg)).eraseDups
  let s := { s with job := { s.job with shadows := s.job.shadows.filter (fun x => !due.contains x) } }
  regs.foldl (fun s r => activateReg seq due r s) s

end Sys2Proof.Machine
end

