-- ==== Sys2Proof/Machine/Mix.lean ====
section
/-! DEFINITION. Mix-64, the keyed counter mixer behind all job randomness (R148). -/
namespace Sys2Proof.Machine

def mixC0 : U64 := 0x6B439A1ED2075C39#64
def mixM1 : U64 := 0xA24BAED4963EE407#64
def mixM2 : U64 := 0x9FB21C651E98DF25#64

/-- One fold of R148. -/
def mixFold (h w : U64) : U64 :=
  let h := (h ^^^ w) * mixM1
  let h := h ^^^ (h >>> 31)
  let h := h * mixM2
  h ^^^ (h >>> 29)

/-- Mix-64 of a key (R148). -/
def mix64 (seed step : U64) (tensor row col : U32) (use : Byte) : U64 :=
  let h := mixFold mixC0 seed
  let h := mixFold h step
  let h := mixFold h (((tensor.setWidth 64) <<< 32) ||| ((use.setWidth 64) <<< 24))
  let h := mixFold h (((row.setWidth 64) <<< 32) ||| (col.setWidth 64))
  mixFold h 5

/-- Bits [63:32] of a draw (R144, R168, R215). -/
def drawHigh (h : U64) : Nat := h.toNat / 2 ^ 32

end Sys2Proof.Machine
end

