-- ==== Sys2Proof/Machine/Output.lean ====
section
/-! DEFINITION. What the output stages of the array and the vector and update engines share: check entries, working slots,
ECC of operands, rounding draws (R119, R137, R144, R232, R240 to R242). -/
namespace Sys2Proof.Machine

/-- The CRC and provenance of a check entry (R240). -/
def entryAt (m : Memory) (c r : Region) (j : Nat) : Nat × Byte :=
  (m.readLe (c.base + 4 * j) 4, m.read (c.base + 4 * r.tiles + j))

/-- Writes of a tile's check entry into the check region of a place, by a port (R230, R240). -/
def entryWrite (hbm : Bool) (core : Fin 8) (port t : Nat) (o : Origin) (c r : Region) (j : Nat) (crc : Nat) (prov : Byte) :
    List Timed :=
  let put := fun a d => if hbm then Effect.hbm a d else Effect.sp core a .plain port d
  [⟨t, false, o, put (c.base + 4 * j) (le32 crc)⟩, ⟨t, false, o, put (c.base + 4 * r.tiles + j) [prov]⟩]

/-- Address of a tile's provenance byte (R240). -/
def State.provAt (s : State) (r : Region) (j : Nat) : Nat := (s.region r.checkRegion).base + 4 * r.tiles + j

/-- A tile of a slice came over HBM or a link (R363). -/
def State.hasCrossed (s : State) (core : Fin 8) (r : Region) (j : Nat) : Bool := (s.core core).crossed.contains (s.provAt r j)

/-- The tile whose check entry is written into a slice came over HBM or a link (R363). -/
def crossing (s : State) (core : Fin 8) (t : Nat) (o : Origin) (r : Region) (j : Nat) : List Timed :=
  if r.inHbm then [] else [⟨t, false, o, .crossed core (s.provAt r j)⟩]

/-- What a tile that fails at use adds to its fault: the module becomes SUSPECT where the core that produced the tile verified it in
its own slice, and it crossed neither HBM nor a link since; of a tile in HBM the row of its first byte joins the repair list (R363). -/
def crcEvidence (s : State) (r : Region) (core : Fin 8) (j : Nat) (prov : Byte) : List Effect :=
  if r.inHbm then [.repair (rowEntryAt (r.base + (r.segments j).headD 0) 3)]
  else if prov.toNat / 4 % 8 ≤ 2 ∧ prov.toNat / 32 = core.val ∧ !s.hasCrossed core r j then [.suspect 3 core.val]
  else []

/-- A part of an output: its address, its length, and the ac in which its last byte is written. -/
structure OutPart where
  addr : Nat
  len : Nat
  at_ : Nat
deriving DecidableEq, Repr

/-- The ac in which the last byte of a tile is written. -/
def tileWritten (r : Region) (parts : List OutPart) (j : Nat) : Nat :=
  ((parts.filter (fun p => (r.segments j).any (fun o =>
    decide (spOffset p.addr < r.base + o + r.segment ∧ r.base + o < spOffset p.addr + p.len)))).map (·.at_)).foldl max 0

/-- Check entries of the whole tiles that the extents of an output cover, in whatever CHECK region they lie, computed while writing and
written with the last byte of the tile (R119, R209, R242); `writes` are the output's effects. -/
def sealOutput (s : State) (core : Fin 8) (unit port : Nat) (o : Origin) (ext : List (Nat × Nat)) (parts : List OutPart)
    (writes : List Timed) : List Timed :=
  let regionOf := fun (e : Nat × Nat) => s.sliceRegion core (spOffset e.1) e.2
  ((ext.filterMap regionOf).eraseDups).flatMap (fun idx =>
    let r := s.region idx
    if !r.check then [] else
    (coveredTiles r ((ext.filter (fun e => regionOf e == some idx)).map (fun e => (spOffset e.1 - r.base, e.2)))).flatMap (fun j =>
      let t := tileWritten r parts j
      let mem := (writes.filter (fun x => x.at_ == t)).foldl (fun m x => match x.eff with
        | .sp _ a op _ d => spStore op m a d
        | _ => m) (s.sliceAsOf core t)
      entryWrite false core port t o (s.region r.checkRegion) r j (crc32c (tileData r (fun f => mem.read (r.base + f)) j)).toNat
        (provenance core unit 0)))

/-- The OR into a working slot, through the SET window (R137). -/
def slotWrite (s : State) (core : Fin 8) (t : Nat) (o : Origin) (port anchorId : Nat) (g : Gather) : Timed :=
  ⟨t, false, o, .sp core (s.cfg.workBase.toNat + 16 * anchorId) .set port g.slotBytes⟩

/-- The OR into a working slot, as an access to check: its address in the SET window (R137, R248). -/
def slotAccess (s : State) (anchorId : Nat) : Access :=
  ⟨1, [(0x10000000 + s.cfg.workBase.toNat + 16 * anchorId, 16)]⟩

/-- A read that an instruction makes: its port (R230), its ac, PROGRESS_A and PROGRESS_B of R253 at it, address and length. -/
structure SliceRead where
  port : Nat
  at_ : Nat
  pa : Nat
  pb : Nat
  addr : Nat
  len : Nat
deriving DecidableEq, Repr

/-- The first of a list in each ac. -/
def firstInAc (l : List (SliceRead × Nat)) : List (SliceRead × Nat) :=
  l.foldl (fun acc x => if acc.any (fun y => y.1.at_ == x.1.at_) then acc else acc ++ [x]) []

/-- ECC of the code words that an instruction reads from its slice, as effects in the ac of each read: an uncorrectable word is its
fault, and each correction counts (R232, R254). -/
def operandEcc (s : State) (core : Fin 8) (o : Origin) (reads : List SliceRead) : List Timed :=
  let marks := (s.core core).ecc
  if marks.isEmpty then [] else
  let hits := fun (bad : Bool) => reads.flatMap (fun r =>
    let a := spOffset r.addr
    (marks.filter (fun m => m.2.uncorrectable == bad && decide (m.1 + 8 > a ∧ m.1 < a + r.len))).map (fun m => (r, m.1)))
  ((firstInAc (hits true)).map (fun (r, a) => ⟨r.at_, false, o, .fault (faultRec 4 o.master ((s.sliceRegion core a 8).getD 0xFFFF) 0 2
        (sliceAddress core a) o.instr o.opcode r.pa r.pb 0)⟩))
  ++ (((hits false).map (fun x => (x.1.at_, x.2))).eraseDups).map (fun x => ⟨x.1, false, o, .corrected false 1⟩)

/-- What the reads of an instruction bring: each uses its bank in its ac (R109, R179, R205, R230), and meets the errors of its code
words (R232). -/
def operandReads (s : State) (core : Fin 8) (o : Origin) (reads : List SliceRead) : List Timed :=
  operandEcc s core o reads
  ++ (reads.filter (fun r => r.len != 0)).map (fun r => ⟨r.at_, false, o.along r.pa r.pb, .spRead core r.addr r.len r.port⟩)

/-- The keyed 32-bit draw of an element (R144, R148); the step is STEP_NUM (R202). -/
def State.draw (s : State) (tensor row col use : Nat) : Nat :=
  drawHigh (mix64 s.cfg.jobSeed s.job.stepNum (BitVec.ofNat 32 tensor) (BitVec.ofNat 32 row) (BitVec.ofNat 32 col)
    (BitVec.ofNat 8 use))

/-- Anchor, tensor id and quantum shift of an anchor id on a core (R135, R155). -/
def State.anchor (s : State) (c : Fin 8) (id : Nat) : Int := tabGet 0 id (s.core c).anchors
def State.tensorId (s : State) (c : Fin 8) (id : Nat) : Nat := tabGet 0xFFFFFFFF id (s.core c).tensorIds
def State.quantum (s : State) (c : Fin 8) (id : Nat) : Nat := 8 * tabGet 0 id (s.core c).quanta

/-- The seed entry of an anchor id (R62). -/
def State.seedEntry (s : State) (id : Nat) : Option SeedEntry :=
  match s.image with
  | none => none
  | some im => im.seed.entries.find? (fun e => e.anchorId == id)

/-- KIND 1 records are gradients (R136). -/
def State.isGradient (s : State) (id : Nat) : Bool :=
  match s.seedEntry id with
  | some e => e.kind == 1
  | none => false

end Sys2Proof.Machine
end

