-- ==== Sys2Proof/Machine/Ledger.lean ====
section
/-! DEFINITION. Anchor ledger records: their layout, the anchor of the next step and the quantum (R136, R138, R139, R156). -/
namespace Sys2Proof.Machine

def ledgerBytes : Nat := 544

/-- Slot `j` of a record (R136). -/
structure LedgerSlot where
  bitmap : Nat
  anchor : Int
  status : Nat
  step : Nat
deriving DecidableEq, Repr

def LedgerSlot.valid (x : LedgerSlot) : Bool := bitAt x.status 0
def LedgerSlot.ovf (x : LedgerSlot) : Bool := bitAt x.status 1

def ledgerSlot (r : Bytes) (j : Nat) : LedgerSlot :=
  let o := 0x020 + 32 * (j % 16)
  ⟨leAt r o 12, toSigned 16 (leAt r (o + 0x0C) 2), leAt r (o + 0x0E) 2, leAt r (o + 0x10) 8⟩

/-- Bytes with a part replaced. -/
def patch (bs : Bytes) (off : Nat) (d : Bytes) : Bytes := slice 0 off bs ++ d ++ bs.drop (off + d.length)

/-- Slot `j` of step `n`, none where j is past the first step. -/
def slotOf (r : Bytes) (t back : Nat) : Option LedgerSlot :=
  if t < back then none else
  let x := ledgerSlot r (t - back)
  if x.step = t - back then some x else none

/-- The anchor of a record for step `t` (R139). -/
def deriveAnchor (r : Bytes) (t : Nat) : Int :=
  let h := leAt r 4 1
  let seen := ((List.range h).filterMap (fun k => slotOf r t (k + 1))).filter (fun x => x.valid && x.bitmap != 0)
  let es := seen.map (fun x => x.anchor - 72 + (Nat.log2 x.bitmap : Int))
  let a := match es with
    | e :: rest => rest.foldl max e + (leAt r 5 1 : Int)
    | [] =>
      let vs := ((List.range 16).map (ledgerSlot r)).filter (·.valid)
      match vs with
      | [] => toSigned 16 (leAt r 8 2)
      | v :: rest => (rest.foldl (fun b x => if b.step < x.step then x else b) v).anchor
  let a := match slotOf r t 1 with
    | some p => if p.valid && p.ovf then max a (p.anchor + 4) else a
    | none => a
  min (max a (-512)) 511

/-- The quantum code of a gradient record for step `t` at anchor `a`: 0 GX40, 1 GX32, 2 GX24 (R155, R156). -/
def deriveQuantum (r : Bytes) (gxKeep t : Nat) (a : Int) : Nat :=
  match slotOf r t 1 with
  | none => 0
  | some s =>
    if gxKeep = 0 || !s.valid || s.bitmap = 0 || s.ovf then 0
    else
      let top := s.anchor - 72 + (Nat.log2 s.bitmap : Int) - 40 - (a - 72)
      if top - 16 ≥ gxKeep then 2 else if top - 8 ≥ gxKeep then 1 else 0

/-- GX_KEEP of an anchor id, 0 for value tensors (R62, R156). -/
def State.gxKeep (s : State) (id : Nat) : Nat :=
  match s.seedEntry id with
  | some e => if e.kind = 1 then e.gxKeep else 0
  | none => 0

/-- The new record of step `t`: slot t mod 16 from the working slot, NEXT_ANCHOR for t + 1 (R138). -/
def closeRecord (r slot : Bytes) (t : Nat) (abandoned : Bool) : Bytes :=
  let st := leAt slot 12 2 &&& 0xE
  let o := 0x020 + 32 * (t % 16)
  let new := padTo 12 slot ++ slice 0x00A 2 r ++ le16 (1 + st + 16 * bit abandoned) ++ le64 t ++ le64 0
  let r' := patch r o new
  patch r' 0x00A (le16 (ofSigned 16 (deriveAnchor r' (t + 1))))

/-- A record as LOAD_IMAGE writes it from a seed entry (R140). -/
def seedRecord (e : SeedEntry) : Bytes :=
  padTo ledgerBytes (le32 e.tensorId ++ u8 e.h ++ u8 e.margin ++ u8 e.kind ++ u8 0 ++ le16 (ofSigned 16 e.seedAnchor)
    ++ le16 (ofSigned 16 e.seedAnchor))

end Sys2Proof.Machine
end

