-- ==== Sys2Proof/Machine/Stream.lean ====
section
/-! DEFINITION. The checkpoint engine: the capture at a COMMIT barrier and the stream that it makes of it (R201, R238, R252, R369 to
R373). -/
namespace Sys2Proof.Machine

def State.commitAddr (s : State) (shelf : Bool) : Nat := s.cfg.commitBase.toNat * 128 + 128 * bit shelf

/-! ### Capture (R369) -/

/-- What the engine meets as it reads a commit record: an uncorrectable error, or a CRC that fails (R175, R251). -/
def State.recordFault (s : State) (a : Nat) : Option FaultRec :=
  let b := s.hbm.mem.readBytes a 128
  let crc := (crc32c (slice 0 0x7C b)).toNat
  match (eccScan s.hbm.ecc 32 a 128).1 with
  | some x => some (faultRec 4 ckptMasterCode 0xFFFF 0 1 x 0xFFFFFFFF 0 0 0 0)
  | none => if leAt b 0x7C 4 = crc then none else some (faultRec 3 ckptMasterCode 0xFFFF 0 1 a 0xFFFFFFFF 0 0 0 crc)

/-- What the checkpoint engine captures at the end of action 2 of a COMMIT barrier (R369). -/
def State.capture (r : BarrierRec) (s : State) : State :=
  let c : Capture :=
    { record := s.hbm.mem.readBytes (s.commitAddr s.job.g) 128, fault := s.recordFault (s.commitAddr s.job.g), counters := s.counters.values,
      barrierSeq := s.job.barrierSeq.toNat, sched := s.now, stepNum := s.job.stepNum.toNat,
      classB := [(fieldCode 0x071 0, BitVec.ofNat 64 (4 * bit s.job.lagClipEn))],
      program := if r.turn then r.turnTo else s.job.program }
  { s with ckpt := { s.ckpt with capture := some c } }

/-! ### Sections (R371, R372) -/

/-- Section header of a checkpoint stream (R371). -/
def sectionHeader (type tensor entries total len tileBytes : Nat) : Bytes :=
  let h := le16 type ++ le16 0 ++ le32 tensor ++ le32 entries ++ le32 total ++ le64 len ++ le32 tileBytes
  h ++ le32 (crc32c h).toNat

/-- A section: header, body, padding to a multiple of 64 (R371). -/
def section_ (type tensor entries total tileBytes : Nat) (body : Bytes) : Bytes :=
  sectionHeader type tensor entries total body.length tileBytes ++ padTo (roundUp body.length 64) body

/-- The body of section 2 (R372). -/
def jobSection (c : Capture) : Bytes :=
  let head := le64 c.barrierSeq ++ le64 c.sched ++ le64 c.stepNum ++ le32 c.classB.length ++ u8 c.program ++ List.replicate 3 0
    ++ c.classB.flatMap (fun x => le32 x.1 ++ le32 0 ++ le64 x.2.toNat)
  padTo (roundUp head.length 64) head ++ (List.range 65536).flatMap (fun k => le32 (tabGet 0 k c.counters).toNat)

/-! ### Tensors of the committed state (R238, R240, R370) -/

/-- A tensor that the module's regions hold: its id, a region of its pair, its tiles as global and local index. -/
structure TensorPlace where
  id : Nat
  region : Nat
  tiles : List (Nat × Nat)
deriving DecidableEq, Repr

/-- The manifest's entry of a tensor. -/
def State.tensorEntry (s : State) (id : Nat) : Option TensorEntry :=
  match s.image with
  | none => none
  | some im => im.manifest.tensors.find? (fun t => t.tensorId == id)

/-- Insert a tensor by its id. -/
def insertPlace (p : TensorPlace) : List TensorPlace → List TensorPlace
  | [] => [p]
  | q :: t => if p.id ≤ q.id then p :: q :: t else q :: insertPlace p t

/-- The tiles that a tensor of the committed state can have (R63, R238). -/
def State.tileLimit (s : State) (id : Nat) : Nat :=
  match s.tensorEntry id with
  | some e => if bitAt e.flags 0 then e.tileCount else 0
  | none => 0

/-- The committed state that the module's regions hold, in ascending tensor id, so that ledger tensors come last (R201, R372); where it
stands is free (log 72). -/
def State.heldTensors (s : State) : List TensorPlace :=
  match s.image with
  | none => []
  | some im =>
    ((Config.shelfTensors im.hdr.imageDigest).map (fun x =>
      (⟨x.1, x.2.1, x.2.2.filter (fun t => decide (t.1 < s.tileLimit x.1))⟩ : TensorPlace))).foldr insertPlace []

/-- The member of a region's pair on a shelf (R171, R246). -/
def State.memberOf (s : State) (i : Nat) (shelf : Bool) : Nat :=
  if (s.region i).shelf == shelf then i else (s.region i).partner

/-- The shelf of a checkpoint that a region's kind of pair uses: G or LG (R369). -/
def State.shelfOf (s : State) (i : Nat) : Bool := if (s.region i).ledger then s.job.lg else s.job.g

/-- The memory that holds a region: HBM, or the slice of its lowest core. -/
def State.regionMem (s : State) (r : Region) : Memory :=
  if r.inHbm then s.hbm.mem
  else match allCores.find? (fun c : Fin 8 => bitAt r.cores c.val) with
    | some c => (s.core c).mem
    | none => []

/-- The ECC marks of that memory and their granule (R232, R237). -/
def State.regionMarks (s : State) (r : Region) : List (Nat × EccMark) × Nat :=
  if r.inHbm then (s.hbm.ecc, 32)
  else match allCores.find? (fun c : Fin 8 => bitAt r.cores c.val) with
    | some c => ((s.core c).ecc, 8)
    | none => ([], 8)

/-- ADDRESS of a byte of a region, of a slice with its core (R253). -/
def Region.faultAddress (r : Region) (a : Nat) : Nat :=
  if r.inHbm then a
  else match allCores.find? (fun c : Fin 8 => bitAt r.cores c.val) with
    | some c => sliceAddress c a
    | none => a

/-- A tile as the engine reads it with its check entry. -/
structure TileRead where
  index : Nat
  crc : Nat
  prov : Byte
  data : Bytes
  fault : Option FaultRec
deriving DecidableEq, Repr

/-- One tile is read and verified at use: the region must let the engine read, and an uncorrectable error comes before the CRC (R237, R242,
R248, R255, R370). -/
def State.readTile (s : State) (i : Nat) (t : Nat × Nat) : TileRead :=
  let r := s.region i
  let c := s.region r.checkRegion
  let m := s.regionMem r
  let data := tileData r (fun f => m.read (r.base + f)) t.2
  let crc := (crc32c data).toNat
  let first := r.base + (r.segments t.2).headD 0
  let (marks, gran) := s.regionMarks r
  let bad := (r.segments t.2).findSome? (fun o => (eccScan marks gran (r.base + o) r.segment).1)
  let entry := if r.check then m.readLe (c.base + 4 * t.2) 4 else crc
  { index := t.1, crc := entry, data := data, prov := (if r.check then m.read (c.base + 4 * r.tiles + t.2) else 0),
    fault := if !r.grants 4 0 then some (faultRec 2 ckptMasterCode i 0 r.place (r.faultAddress first) 0xFFFFFFFF 0 0 t.2 0)
      else match bad with
      | some a => some (faultRec 4 ckptMasterCode i 0 r.place (r.faultAddress a) 0xFFFFFFFF 0 0 t.2 0)
      | none => if crc = entry then none
        else some (faultRec 3 ckptMasterCode i 0 r.place (r.faultAddress first) 0xFFFFFFFF 0 0 t.2 crc) }

/-- A type 4 section, with the offset in it of the first tile that fails (R370, R372). -/
def State.tensorSection (s : State) (p : TensorPlace) : Bytes × Option (Nat × FaultRec) :=
  let i := s.memberOf p.region (s.shelfOf p.region)
  let r := s.region i
  let ts := p.tiles.map (s.readTile i)
  let total := match s.tensorEntry p.id with | some e => e.tileCount | none => ts.length
  let lists := ts.flatMap (fun t => le32 t.index ++ le32 t.crc) ++ ts.map (·.prov)
  let head := padTo (roundUp lists.length 64) lists
  let body := head ++ ts.flatMap (·.data)
  let bad := match findIdxFrom (fun t : TileRead => t.fault.isSome) 0 ts with
    | none => none
    | some k => match ts[k]? with
      | some t => t.fault.map (fun f => (32 + head.length + k * r.tileBytes, f))
      | none => none
  (section_ 4 p.id ts.length total r.tileBytes body, bad)

/-- The fingerprint table of a kind of shelf: its entries and bytes, and what the engine's read of it meets (R201, R248, R251). -/
def State.fprintTable (s : State) (ledger shelf : Bool) : Nat × Bytes × Option FaultRec :=
  match s.image with
  | none => (0, [], none)
  | some im =>
    let n := (im.manifest.tensors.filter (fun t => bitAt t.flags 0 && (bitAt t.flags 1 == ledger))).length
    let w := Config.fprintTables im.hdr.imageDigest
    let (i, off) := if ledger then w.2 else w.1
    let idx := s.memberOf i shelf
    let r := s.region idx
    let a := r.base + off
    let (marks, gran) := s.regionMarks r
    let fault := fun kind reg x => some (faultRec kind ckptMasterCode reg 0 r.place (r.faultAddress x) 0xFFFFFFFF 0 0 0 0)
    (n, (s.regionMem r).readBytes a (36 * n),
      if r.bytes < off + 36 * n then fault 1 0xFFFF a
      else if !r.grants 4 0 then fault 2 idx a
      else match (eccScan marks gran a (36 * n)).1 with
        | some x => fault 4 idx x
        | none => none)

/-! ### The stream (R371) -/

/-- The 128-byte header of a stream (R371). -/
def streamHeader (im : Image) (c : Capture) (sections total : Nat) : Bytes :=
  le32 0x434B5054 ++ le16 1 ++ le16 im.hdr.position ++ le16 im.hdr.n ++ le16 (bit im.hdr.levelB + 2 * bit im.hdr.paired)
  ++ le32 sections ++ slice 8 8 c.record ++ padTo 32 im.hdr.manifestDigest ++ padTo 32 im.hdr.clusterDigest ++ slice 0x30 32 c.record
  ++ le64 total

/-- The whole stream of a capture, and the offset of the first read of the record, the tables or a tile that fails (R251, R369 to R372). -/
def State.buildStream (im : Image) (c : Capture) (s : State) : Bytes × Option (Nat × FaultRec) :=
  let held := s.heldTensors
  let (na, ta, fa) := s.fprintTable false s.job.g
  let (nb, tb, fb) := s.fprintTable true s.job.lg
  let opening := section_ 1 0 0 0 0 (padTo 128 c.record) ++ section_ 2 0 0 0 0 (jobSection c)
  let early := match c.fault, fa.orElse (fun _ => fb) with
    | some f, _ => some (128 + 32, f)
    | none, some f => some (128 + opening.length + 32, f)
    | none, none => none
  let front := opening ++ section_ 3 0 0 0 0 (le32 na ++ ta ++ le32 nb ++ tb)
  let (body, bad) := held.foldl (fun (acc : Bytes × Option (Nat × FaultRec)) p =>
    let (b, f) := s.tensorSection p
    (acc.1 ++ b, match acc.2, f with
      | some x, _ => some x
      | none, some (o, r) => some (128 + acc.1.length + o, r)
      | none, none => none)) (front, early)
  let body := body ++ section_ 5 0 0 0 0 (le64 (held.foldl (fun n p => n + p.tiles.length) 0))
  (streamHeader im c (4 + held.length) (128 + body.length) ++ body, bad)

/-- The engine starts to stream its capture (R369). -/
def State.startStream (s : State) : State :=
  match s.image, s.ckpt.capture with
  | some im, some c =>
    let (data, bad) := s.buildStream im c
    { s with ckpt := { s.ckpt with
      st := 2, step := leAt c.record 8 8, stream := s.ckpt.stream + 1, data := data, sent := 0, acked := 0, read := 0, fetched := 0,
      failAt := bad } }
  | _, _ => s

/-- The capture of a COMMIT barrier; a request that names it starts its stream (R369). -/
def State.captureCommit (r : BarrierRec) (s : State) : State :=
  let s := s.capture r
  if s.ckpt.st = 1 ∧ s.ckpt.target ≤ s.job.barrierSeq.toNat then s.startStream else s

end Sys2Proof.Machine
end

