-- ==== Sys2Proof/Machine/Barrier.lean ====
section
/-! DEFINITION. Barriers: the waits and tokens, the seven actions, holds, the commit, and the soaks that stop the schedule
(R40, R77 to R81, R165, R174 to R176, R275 to R279, R284 to R286, R324 to R326, R336, R340, R341, R369, R373). -/
namespace Sys2Proof.Machine

/-! ### What the loaded image says -/

def State.soakPeriod (s : State) : Nat := match s.image with | some im => im.hdr.soakPeriod | none => 8192

def Allowances.none : Allowances := ⟨0, 0, 0, 0, []⟩
def State.allow (s : State) : Allowances := match s.image with | some im => im.allow | none => Allowances.none

/-- The schedule stands in a step and before the window of its last barrier has begun, or in that window's first ac. -/
def State.inStep (s : State) : Bool := decide (s.job.stepStart ≤ s.now ∧ s.now + 32 ≤ s.job.nextStart)

/-- Offset within the step (R77). -/
def State.stepOffset (s : State) : Nat := s.now - s.job.stepStart

/-- The barrier whose cycle is the present ac (R77). -/
def State.barrierHere (s : State) : Option BarrierRec :=
  if s.inStep then s.program!.barriers.find? (fun r => r.offset == s.stepOffset) else none

/-- The coming barrier of the step and its cycle: the held one, or the first from the present ac onward (R285). -/
def State.comingBarrier (s : State) : Option (BarrierRec × Nat) :=
  if s.job.st == .hold then s.job.barrier.map (fun r => (r, s.now))
  else if s.scheduleRuns && s.inStep then
    (s.program!.barriers.find? (fun r => decide (s.stepOffset ≤ r.offset))).map (fun r => (r, s.job.stepStart + r.offset))
  else none

/-- The barrier that a token which arrives now is of: the held one, or the coming one of the step from b − BARRIER_LEAD on; before that,
a token can only be one of the barrier that has released (R285, R286). -/
def State.tokenBarrier (s : State) : Option BarrierRec :=
  if s.job.st == .hold then s.job.barrier
  else if s.inStep then
    s.program!.barriers.find? (fun r => decide (s.stepOffset ≤ r.offset ∧ r.offset ≤ s.stepOffset + s.allow.barrierLead))
  else none

/-- This module's ports as the placement gives them (R287). -/
def State.placementPorts (s : State) : List PlacementPort :=
  match s.image with
  | some im => im.placement.ports.getD im.hdr.position []
  | none => []

def PlacementPort.used (p : PlacementPort) : Bool := bitAt p.role 0
def PlacementPort.isParent (p : PlacementPort) : Bool := bitAt p.role 1
def PlacementPort.isChild (p : PlacementPort) : Bool := bitAt p.role 2

def State.placementPort (s : State) (p : Fin 16) : PlacementPort := s.placementPorts.getD p.val ⟨0xFFFF, 0, 0⟩

/-- Every child in the follow tree satisfies a condition (R278, R285). -/
def State.allChildren (s : State) (f : PortState → Bool) : Bool :=
  allPorts.all (fun p => !(s.placementPort p).isChild || f (s.port p))

/-! ### Waits and readiness (R77, R285, R320, R326, R341) -/

/-- A wait is met: (counter − target) mod 2^32 is below 2^31 (R77). -/
def State.waitMet (s : State) (w : Wait) : Bool :=
  decide ((s.counter w.counter + 2 ^ 64 * 2 ^ 32 - (w.base + w.step * s.job.stepNum.toNat)) % 2 ^ 32 < 2 ^ 31)

/-- Waits of the coming barrier that are met now are met at the barrier (R285). -/
def State.noteWaits (r : BarrierRec) (s : State) : State :=
  let met := ((List.range r.waits.length).filter (fun i =>
    match r.waits[i]? with | some w => s.waitMet w | none => false)).map (fun i => (r.id, i))
  { s with job := { s.job with waitsMet := s.job.waitsMet ++ met.filter (fun m => !s.job.waitsMet.contains m) } }

/-- Every wait of a barrier has been met in one of its ac (R285). -/
def State.waitsReady (s : State) (r : BarrierRec) : Bool :=
  (List.range r.waits.length).all (fun i => s.job.waitsMet.contains (r.id, i))

/-- Stack soak threshold of a point, °C (R339). -/
def stackSoak (point : Nat) : Nat := match point with | 0 => 92 | 1 => 82 | 2 => 82 | _ => 67
/-- Retention limit of a point, °C (R339). -/
def retention (point : Nat) : Nat := match point with | 0 => 95 | 1 => 85 | 2 => 85 | _ => 70

/-- The pending operating point when it is due at a barrier number; 0 for a start or restart barrier (R340). -/
def State.pointDue (s : State) (seq : Nat) : Option Nat :=
  match s.power.pending with
  | some (p, n) => if n = 0 ∨ (n ≤ seq) then some p.toNat else none
  | none => none

/-- The first stack that keeps a downward change back (R341). -/
def State.hotStack (s : State) (point : Nat) : Option Nat :=
  findIdxFrom (fun t => decide ((stackSoak point : Int) * 16 - 80 ≤ t.toInt)) 0 s.therm.stackTemps

/-- A due change keeps the barrier token back: an upward change without V_READY, a downward change with a hot stack (R341). -/
def State.pointKeepsBack (s : State) (seq : Nat) : Bool :=
  match s.pointDue seq with
  | none => false
  | some p =>
    if p < s.power.active.toNat then !s.power.vReady
    else if s.power.active.toNat < p then (s.hotStack p).isSome else false

/-- The input log has room for a barrier's takes (R326). -/
def State.inputRoom (s : State) (r : BarrierRec) : Bool :=
  decide (s.inputUnacked + (r.takes.foldl (fun a t => a + t.count) 0) ≤ 65536)

/-- The engine still reads the shelf that a COMMIT barrier would write over (R373). -/
def State.ckptUnread (s : State) : Bool := s.ckpt.st == 2 && decide (s.ckpt.read < s.ckpt.data.length)

/-- Why the module is not ready for a barrier: 0 ready, else the CAUSE of its hold (R319). -/
def State.unready (s : State) (r : BarrierRec) : Nat :=
  if !s.waitsReady r || s.pointKeepsBack s.job.barrierSeq.toNat then 1
  else if s.logFull || (r.input && !s.inputRoom r) then 3
  else if (s.job.st == .hold && !s.links.causes.isEmpty) || (r.commit && s.ckptUnread) then 2
  else 0

/-! ### Tokens (R278, R285) -/

/-- W_R: the smallest multiple of P at or after the own count + DOWN_REACH + 8 (R278). -/
def State.chooseRelease (s : State) : Nat := roundUp (s.clusterWall + s.allow.downReach + 8) s.soakPeriod

/-- GRID of a release count (R278, R285). -/
def releaseGrid (s : State) (w : Nat) : Nat := w / s.soakPeriod % 2 + 1

/-- The release count that a GRID from the parent names: the next multiple of P with that parity (R278). -/
def State.namedRelease (s : State) (grid : Nat) : Nat :=
  let k := s.clusterWall / s.soakPeriod + 1
  (if k % 2 + 1 = grid then k else k + 1) * s.soakPeriod

/-- The module's part in the tokens of a barrier at cycle b (R285 steps 2 to 4). -/
def State.barrierTokens (r : BarrierRec) (b : Nat) (s : State) : State :=
  if s.links.sentUp || s.job.suspectStop || s.unready r != 0 || !s.allChildren (·.childReady) then s
  else if s.links.origin then
    if s.scheduleRuns && decide (s.now + s.allow.downReach ≤ b) then
      { s with links := { s.links with sentUp := true, goDown := some 0 } }
    else
      let w := s.chooseRelease
      { s with links := { s.links with sentUp := true, goDown := some (releaseGrid s w), releaseAt := some w } }
  else { s with links := { s.links with sentUp := true } }

/-- Waits and tokens of the coming barrier, looked at in every ac from b − BARRIER_LEAD (R285). -/
def State.watchBarrier (s : State) : State :=
  match s.comingBarrier with
  | none => s
  | some (r, b) => if s.now + s.allow.barrierLead < b then s else (s.noteWaits r).barrierTokens r b

/-- The barrier-token condition in ac b (R285): GRID 0 from the parent, or the origin's own. -/
def State.tokenHeld (s : State) : Bool :=
  if s.links.origin then s.links.goDown == some 0
  else s.links.sentUp && allPorts.any (fun p => (s.placementPort p).isParent && (s.port p).parentGo == some 0)

/-- A release clears the token bits of a barrier (R285 step 5). -/
def State.clearTokens (s : State) : State :=
  { s with
    links := { s.links with sentUp := false, goDown := none, releaseAt := none },
    ports := s.ports.map (fun x => { x with childReady := false, parentGo := none }) }

/-- A release of the restart barrier clears its tokens; the bits of a barrier that follows it stay (R278, R279). -/
def State.clearRestart (s : State) : State :=
  { s with
    links := { s.links with restartUp := false, restartDown := none, restartAt := none },
    ports := s.ports.map (fun x => { x with childRestart := false, parentRestart := none }) }

/-! ### Action 1: the commit (R174, R175) -/

/-- The member of the ledger pair that is a shelf (R62, R246). -/
def State.ledgerShelf (s : State) (shelf : Bool) : Region :=
  let i := match s.image with | some im => im.seed.ledgerRegion | none => 0xFFFF
  let r := s.region i
  if r.shelf == shelf then r else s.region r.partner

/-- Records of a ledger shelf whose slot of step `t` has a status bit (R141). -/
def State.ledgerCount (s : State) (shelf : Bool) (t b : Nat) : Nat :=
  let r := s.ledgerShelf shelf
  let n := match s.image with | some im => im.seed.entries.length | none => 0
  ((List.range n).filter (fun j =>
    let x := ledgerSlot (s.hbm.mem.readBytes (r.base + 544 * j) 544) t
    x.step == t && bitAt x.status b)).length

/-- The first 0x7C bytes of a commit record (R175). -/
def State.recordBody (s : State) (shelf lg : Bool) : Bytes :=
  let ab := s.job.abandoned
  let t := s.job.stepNum.toNat
  le32 0x53484C56 ++ le16 1 ++ u8 (bit ab)
  ++ u8 (bit (s.imageFlag (·.levelB)) + 2 * bit s.paired + 4 * bit s.job.lagClipEn + 8 * bit s.job.fmtSat)
  ++ le64 t ++ le64 (if ab then s.job.paramStep.toNat else t) ++ le64 s.job.barrierSeq.toNat ++ le64 s.now
  ++ le64 s.job.inputCount.toNat ++ padTo 32 s.job.fprint
  ++ (match s.image with | some im => padTo 32 im.hdr.manifestDigest | none => List.replicate 32 0)
  ++ le32 (s.core 0).stepCalc.lr ++ le32 (s.core 0).gnorm ++ le16 (if ab then s.job.abandonGroup.toNat else 0xFFFF)
  ++ u8 (bit shelf) ++ u8 (bit lg)

/-- The notice of a finished step (R83, R174, R319). -/
def stepNotice (ab : Bool) (t group : Nat) (rcd : Bytes) (s : State) : State :=
  if ab then s.event 6 (le64 t ++ le16 group) rcd
  else
    let n := s.job.commits + 1
    let s := { s with job := { s.job with commits := n } }
    let every := field s.cfg.seqCfg.toNat 32 16
    if every ≠ 0 ∧ n % every = 0 then s.event 5 (le64 t) rcd else s

/-- Action 1 of a COMMIT barrier (R174). -/
def State.commit (s : State) : State :=
  let ab := s.job.abandoned
  let g := if ab then s.job.g else !s.job.g
  let lg := !s.job.lg
  let t := s.job.stepNum.toNat
  let body := s.recordBody g lg
  let rcd := body ++ le32 (crc32c body).toNat
  let group := s.job.abandonGroup.toNat
  let s := s.apply (.hbm (s.commitAddr g) rcd)
  let s := { s with
    cores := s.cores.map (fun k : CoreState => { k with groups := ([] : List (Nat × GroupEntry)) }),
    job := { s.job with
      g := g, lg := lg, stepNum := s.job.stepNum + 1, paramStep := (if ab then s.job.paramStep else s.job.stepNum),
      abandoned := false, abandonGroup := 0xFFFF, clipped := 0, fmtSat := false } }
  let s := { s with job := { s.job with
    ovfRecords := BitVec.ofNat 16 (s.ledgerCount lg t 1), invRecords := BitVec.ofNat 16 (s.ledgerCount lg t 2) } }
  stepNotice ab t group rcd s

/-! ### Action 4: the operating point (R336, R340, R341) -/

def nominalMv (point : Nat) : Nat := match point with | 0 => 800 | 1 => 720 | 2 => 620 | _ => 550
def sramMv (point : Nat) : Nat := match point with | 0 => 800 | 1 => 780 | _ => 750

/-- Policy bounds of a point, in mV (R343, R352). -/
def State.policyMin (s : State) (p : Nat) : Nat := 450 + 5 * field s.cfg.avsPolicy.toNat (16 * p) 8
def State.policyMax (s : State) (p : Nat) : Nat := 450 + 5 * field s.cfg.avsPolicy.toNat (16 * p + 8) 8

/-- A core voltage held within the bounds of R343 for a point, V_REQ at most MAX. -/
def State.boundMv (s : State) (p v : Nat) : Nat :=
  let fl := (Config.vFloorMv p).toNat
  let lo := max (s.policyMin p) fl
  let hi := s.policyMax p
  if hi < fl then fl else min (max v lo) hi

/-- The divider switch with its OP_POINT event; WALL_CYCLE advances by 3 (R336). -/
def State.switchPoint (p : Nat) (s : State) : State :=
  let old := s.power.active.toNat
  let s := s.event 4 (u8 old ++ u8 p ++ List.replicate 6 0 ++ le64 24) []
  { s with
    wall := s.wall + 3,
    power := { s.power with
      active := BitVec.ofNat 2 p, pending := none, vReady := false, ramping := decide (old < p),
      coreTarget := s.boundMv p (nominalMv p), sramTarget := sramMv p } }

/-- Action 4 (R79, R278, R340). -/
def State.opPointAction (seq : Nat) (s : State) : State :=
  match s.pointDue seq with
  | none => s
  | some p => if p = s.power.active.toNat then { s with power := { s.power with pending := none } } else s.switchPoint p

/-! ### Action 5: ring takes (R324, R325) -/

def State.ring (s : State) (id : Nat) : Ring := (s.fcp.rings.find? (fun r => r.id == id)).getD ⟨id, 0, 0, 0⟩
def State.setRing (x : Ring) (s : State) : State :=
  { s with fcp := { s.fcp with rings := s.fcp.rings.map (fun r => if r.id = x.id then x else r) } }

/-- The take that declares a ring (R321). -/
def State.takeOf (s : State) (ring : Nat) : Option Take :=
  match s.image with
  | none => none
  | some im => (im.programs.flatMap (fun p => p.barriers.flatMap (·.takes))).find? (fun t => t.ring == ring)

/-- Bytes of a region, from the core that holds it for a scratchpad place. -/
def State.regionBytes (s : State) (r : Region) (off len : Nat) : Bytes :=
  if r.inHbm then s.hbm.mem.readBytes (r.base + off) len
  else match allCores.find? (fun c : Fin 8 => bitAt r.cores c.val) with
    | some c => (s.core c).mem.readBytes (r.base + off) len
    | none => List.replicate len 0

/-- The header of entry `e` of a ring (R322). -/
def State.entryHeader (s : State) (t : Take) (e : Nat) : Bytes :=
  s.regionBytes (s.region t.region) (e % t.slots * t.entryBytes) 64

/-- The 48-byte input-log record of a taken entry (R325). -/
def State.inputRecord (s : State) (t : Take) (first k : Nat) : Bytes :=
  let h := s.entryHeader t (first + k)
  le64 s.now ++ le64 s.job.barrierSeq.toNat ++ le16 t.ring ++ le16 k ++ le16 t.count ++ le16 0 ++ le64 first
    ++ slice 0 8 h ++ slice 0x10 8 h

/-- One ring take (R324). -/
def takeRing (s : State) (t : Take) : State :=
  let r := s.ring t.ring
  let recs := (List.range t.count).map (fun k => s.inputRecord t r.taken k)
  let s := s.setRing { r with window := r.taken, taken := r.taken + t.count }
  { s with
    log := { s.log with
      input := (s.log.input ++ recs).drop (s.log.input.length + recs.length - 65536), inputNext := s.log.inputNext + t.count },
    job := { s.job with inputCount := s.job.inputCount + BitVec.ofNat 64 t.count } }

/-! ### The records of soaks and holds (R33, R276, R319) -/

/-- DATA of a SOAK event of a cause (R319). -/
def State.soakData (s : State) (cause : Nat) : Bytes := le64 s.wall.toNat ++ u8 cause ++ u8 s.links.firstPort.toNat

/-- The soak ends: its record, a record for each cause that was raised while the module already stood, and the register (R276, R291,
R319). The WALL of a soak that was raised at a hold is the wall count of the raise, and the records of causes that joined share the span
of the first, so that R42 counts such a span once (DESIGN CHOICE, log 132). -/
def State.endSoak (s : State) : State :=
  let s := (s.links.soakCause.toNat :: s.links.joined).foldl
    (fun s c => s.eventAt 1 0 s.links.soakStop.toNat s.links.stopWall (s.soakData c) []) s
  { s with links := { s.links with active := false, stopAt := none, joined := [] } }

/-- DATA of a BARRIER_HOLD event (R319). -/
def holdData (wall id cause : Nat) : Bytes := le64 wall ++ le16 id ++ u8 cause

/-- The record of a hold that ends (R40, R319). -/
def State.recordHold (r : BarrierRec) (s : State) : State :=
  let s := s.eventAt 2 0 s.now s.job.holdWall (holdData s.wall.toNat r.id s.job.holdCause) []
  { s with log := { s.log with hold := false } }

/-- The module stands no longer: a hold, and a soak that has stopped the schedule or was raised at the hold, are recorded (R33, R40,
R276). -/
def State.endStand (s : State) : State :=
  let held := s.job.st == .hold
  let s := match held, s.job.barrier with
    | true, some r => s.recordHold r
    | _, _ => s
  if s.links.active && (s.job.st == .soak || (held && s.links.stopAt.isNone)) then s.endSoak else s

/-! ### The actions in order (R79) -/

/-- The module stops at its barrier; the soak and the hold that end here are recorded (R33, R81, R364). -/
def State.haltAt (how : Resume) (s : State) : State :=
  let s := s.endStand.clearTokens.clearRestart
  let s := { s with
    job := { s.job with halt := none, resume := how, starting := false, holdNoticed := false, suspectStop := false },
    links := { s.links with active := false, stopAt := none } }
  s.setJobState .halted 0

/-- Actions 4 to 7 (R79). -/
def State.actionsFrom4 (r : BarrierRec) (s : State) : State :=
  let s := s.opPointAction s.job.barrierSeq.toNat
  let s := if r.input then (r.takes.foldl takeRing s).inputLow else s
  let s := if r.turn then { s with job := { s.job with program := r.turnTo } } else s
  let s := s.clearTokens
  { s with job := { s.job with barrier := none, waitsMet := [], lastBarrier := BitVec.ofNat 16 r.id, resume := .start } }

/-- Actions 1 to 7, or to the halt of action 3 (R79, R369). LAST_BARRIER takes the barrier's id as its actions begin, also where the
module halts at it, before it has released (R83; DESIGN CHOICE, log 134). -/
def State.barrierActions (r : BarrierRec) (s : State) : State :=
  let seq := s.job.barrierSeq.toNat
  let s := if r.commit then s.commit else s
  let s := s.activate seq false
  let s := if r.commit then s.captureCommit r else s
  let s := { s with job := { s.job with barrier := some r, lastBarrier := BitVec.ofNat 16 r.id } }
  match s.job.halt with
  | some n => if n ≤ seq then s.haltAt .action4 else s.actionsFrom4 r
  | none => s.actionsFrom4 r

/-! ### Soaks (R275, R279, R349) -/

/-- The barrier of the active program whose window holds a schedule cycle of this step, and its cycle (R279). -/
def State.windowAt (s : State) (x : Nat) : Option Nat :=
  if x < s.job.stepStart ∨ s.job.nextStart ≤ x then none
  else (s.program!.barriers.find? (fun r =>
    decide (s.job.stepStart + r.offset ≤ x ∧ x < s.job.stepStart + r.offset + 32))).map (fun r => s.job.stepStart + r.offset)

/-- A stop point with the rule of R279: inside a barrier window it moves to the barrier; past a barrier that is under way it
moves to the next grid point (DEDUCED, log 40). -/
def State.stopPoint (s : State) (x : Nat) : Nat :=
  match s.windowAt x with
  | some b => if s.now < b then b else x + s.soakPeriod
  | none => x

/-- The module takes a stop point; of two it keeps the earlier (R275). CAUSE takes the lower code of causes that meet (R349). -/
def State.takeStop (cause : Nat) (loc : Bool) (port : Nat) (x : Nat) (s : State) : State :=
  match s.links.stopAt with
  | some y =>
    { s with links := { s.links with
      stopAt := some (min x y), soakStop := BitVec.ofNat 64 (min x y),
      soakCause := BitVec.ofNat 4 (min cause s.links.soakCause.toNat), soakLocal := s.links.soakLocal || loc } }
  | none =>
    { s with links := { s.links with
      stopAt := some x, soakStop := BitVec.ofNat 64 x, soaks := s.links.soaks + 1, soakCause := BitVec.ofNat 4 cause,
      soakLocal := loc, firstPort := BitVec.ofNat 5 port, active := true } }

/-- A soak of a cause is raised (R275); `held` causes stay until they clear, with a tag of their source. At a hold it is logged as a soak
of the barrier (R279), and a cause that meets a soak under way while schedule time stands joins it (R291). -/
def State.raiseSoak (cause tag : Nat) (held : Bool) (s : State) : State :=
  let known := s.links.causes.contains (cause, tag)
  let s := if held && !known then { s with links := { s.links with causes := s.links.causes ++ [(cause, tag)] } } else s
  if held && known then s
  else if s.scheduleRuns then
    s.takeStop cause true 0x1F (s.stopPoint (roundUp (s.now + s.allow.soakReach + 8) s.soakPeriod))
  else if s.job.st == .hold && !s.links.active then
    { s with links := { s.links with
      soakStop := s.sched, soaks := s.links.soaks + 1, soakCause := BitVec.ofNat 4 cause, soakLocal := true, firstPort := 0x1F,
      active := true, stopWall := s.wall.toNat } }
  else if s.links.active then { s with links := { s.links with joined := s.links.joined ++ [cause] } }
  else s

/-- A soak cause clears; the soak that was logged at a barrier hold ends with its last cause (R279). -/
def State.clearCause (cause tag : Nat) (s : State) : State :=
  if !s.links.causes.contains (cause, tag) then s else
  let s := { s with links := { s.links with causes := s.links.causes.filter (fun c => c != (cause, tag)) } }
  if s.job.st == .hold && s.links.active && s.links.stopAt.isNone && s.links.causes.isEmpty then s.endSoak else s

/-- The engine has read what a barrier waits for, or its stream has ended: the soak of cause 5 clears (R279, R373). -/
def State.releaseCkpt (s : State) : State :=
  if s.links.causes.contains (5, 0) && !s.ckptUnread then
    ({ s with ckpt := { s.ckpt with holding := false } }).clearCause 5 0
  else s

/-- Causes that came too late to keep a release back raise their soak as schedule time resumes (R275, R291; DEDUCED, log 41). -/
def State.reraise (s : State) : State :=
  match s.links.causes with
  | [] => s
  | cs =>
    if s.scheduleRuns then
      s.takeStop (cs.foldl (fun m c => min m c.1) 15) true 0x1F (s.stopPoint (roundUp (s.now + s.allow.soakReach + 8) s.soakPeriod))
    else s

/-! ### Holds (R40, R319) -/

/-- The barrier becomes a hold (R40). A soak of cause 5 is raised where the checkpoint engine still reads (R373), and the event of
LEVEL 4 where a stack keeps the token back (R341). -/
def State.beginHold (r : BarrierRec) (cause : Nat) (s : State) : State :=
  let s := { s with
    job := { s.job with
      barrier := some r, holdCause := cause, holdWall := s.wall.toNat, holdNoticed := false,
      lastBarrier := BitVec.ofNat 16 r.id, resume := .evaluate },
    log := { s.log with hold := cause == 3 } }
  let s := s.setJobState .hold 0
  let s := if r.commit && s.ckptUnread then
      ({ s with ckpt := { s.ckpt with holding := true } }).raiseSoak 5 0 true
    else s
  match s.pointDue s.job.barrierSeq.toNat with
  | none => s
  | some p =>
    if s.power.active.toNat < p then
      match s.hotStack p with
      | some n =>
        s.event 17 (u8 (0x80 + n) ++ u8 4 ++ u8 s.power.active.toNat ++ u8 0 ++ le16 (s.therm.stackTemps.getD n 0).toNat
          ++ le16 (stackSoak p * 16 - 80)) []
      | none => s
    else s

/-- The barrier of the present ac is evaluated: SUSPECT stops the module, an unmet condition holds it, else its actions run; a token that
is missing may still come in this ac (R79, R285, R291, R364). -/
def State.evaluate (r : BarrierRec) (s : State) : State :=
  let s := s.watchBarrier
  if s.job.suspectStop then
    ({ s with job := { s.job with barrier := some r, lastBarrier := BitVec.ofNat 16 r.id } }).haltAt .evaluate
  else
    let c := s.unready r
    if c ≠ 0 then s.beginHold r c
    else if !s.tokenHeld then { s with job := { s.job with barrier := some r, tokenDue := true } }
    else s.barrierActions r

/-- At the end of the ac of a ready barrier that waits for its token: its actions run where the token has come, else it holds (R79,
R285, R291). -/
def State.settleToken (s : State) : State :=
  if !s.job.tokenDue then s
  else
    let s := { s with job := { s.job with tokenDue := false } }
    match s.job.barrier with
    | none => s
    | some r =>
      if s.job.suspectStop then s.haltAt .evaluate
      else if s.tokenHeld then s.barrierActions r
      else s.beginHold r 2

/-- The BARRIER words of the streams: each stream at its BARRIER word moves past it (R67, R78). -/
def State.passBarrierWords (s : State) : State :=
  let past := fun (c : Fin 8) (k : CoreState) =>
    { k with streams := k.streams.mapIdx (fun u p =>
        if !p.frozen && field ((s.program!.streams.getD (8 * c.val + u) []).getD p.pos 0).toNat 96 10 == 0x00C then
          { p with pos := p.pos + 1, base := s.now } else p) }
  let hbm := (List.range 640).filterMap (fun i =>
    let p := tabGet ⟨0, 2 * s.job.stepStart, false⟩ i s.hbm.pos
    if field ((s.program!.hbm.getD i []).getD p.pos 0).toNat 48 4 == 7 then some (i, { p with pos := p.pos + 1, base := 2 * s.now })
    else none)
  { s with
    cores := s.cores.mapIdx (fun i k => if h : i < 8 then past ⟨i, h⟩ k else k),
    hbm := { s.hbm with pos := hbm.foldl (fun t x => tabSet x.1 x.2 t) s.hbm.pos } }

/-- A barrier falls due (R79, R80). After a fault in the hold latency it performs no action (R249). -/
def execBarrierDue (s : State) : Out :=
  if !s.scheduleRuns then .next s else
  match s.barrierHere with
  | none => .next s
  | some r =>
    let s := s.passBarrierWords
    let s := { s with job := { s.job with barrierSeq := s.job.barrierSeq + 1 } }
    if s.job.faultAt.isSome then .next s else .next (s.evaluate r)

/-- A BARRIER token arrives: from a child it means ready, from the parent go. A go with GRID 0 that finds the module in its hold releases
it at once (R281, R285; DESIGN CHOICE, log 146). -/
def State.takeToken (p : Fin 16) (grid : Nat) (s : State) : State :=
  let pp := s.placementPort p
  let s := if pp.isChild then s.modPort p (fun x => { x with childReady := true }) else s
  if pp.isParent then
    let s := s.modPort p (fun x => { x with parentGo := some grid })
    { s with links := { s.links with
      goDown := some grid,
      releaseAt := if grid ≠ 0 then some (s.namedRelease grid)
        else if s.job.st == .hold then some s.clusterWall else s.links.releaseAt } }
  else s

/-- BARRIER_TOKEN: a token of the coming barrier, or of the held one (R285). -/
def execBarrierToken (p : Fin 16) (grid : BitVec 2) (s : State) : Out :=
  if s.image.isNone || s.tokenBarrier.isNone then .next s else .next ((s.takeToken p grid.toNat).watchBarrier)

/-- A held barrier releases at W_R: its hold is recorded and its actions run (R40, R79, R285). -/
def execBarrierRelease (s : State) : Out :=
  match s.job.st, s.job.barrier, s.links.releaseAt with
  | .hold, some r, some w =>
    if s.clusterWall < w ∨ s.job.faultAt.isSome then .next s
    else
      .next ((s.endStand.setJobState .running 0).barrierActions r).reraise
  | _, _, _ => .next s

/-- The hold reaches HOLD_NOTICE: one BARRIER_HOLD event with ONGOING (R83, R319). -/
def execHoldNotice (s : State) : Out :=
  match s.job.st, s.job.barrier with
  | .hold, some r =>
    if s.job.holdNoticed || s.wall.toNat < s.job.holdWall + field s.cfg.seqCfg.toNat 0 32 then .next s
    else
      let s := { s with job := { s.job with holdNoticed := true } }
      .next (s.eventAt 2 16 s.now s.job.holdWall (holdData 0 r.id s.job.holdCause) [])
  | _, _ => .next s

/-! ### Standing at a stop point and the restart barrier (R276, R278, R284) -/

/-- A FAILED port that the image uses (R278). -/
def State.failedPort (s : State) : Bool := allPorts.any (fun p => (s.placementPort p).used && (s.port p).st == 4)

/-- The module's own conditions for RESTART (R278, R341, R349). -/
def State.restartReady (s : State) : Bool :=
  let seq := if s.job.starting && s.job.resume == .action4 then s.job.barrierSeq.toNat else 0
  s.links.causes.isEmpty && !s.clock.clockLost && !s.failedPort && s.job.faultAt.isNone && !s.pointKeepsBack seq
  && allPorts.all (fun p => (s.port p).damaged.isEmpty && (s.port p).remap.isNone)
  && s.allChildren (·.childRestart)

/-- The module stands at a restart barrier: in a soak, or started and not released (R276, R284). -/
def State.standing (s : State) : Bool := s.job.st == .soak || (s.job.st == .running && s.job.starting)

/-- A halt that names no barrier, or SUSPECT, acts at once where the module stands at a restart barrier, until W_R is chosen
(R81, R335, R364, R381). -/
def State.haltStanding (s : State) : State :=
  if s.standing && s.links.restartAt.isNone && s.job.faultAt.isNone && (s.job.suspectStop || s.job.halt == some 0) then
    s.haltAt (if s.job.st == .soak then .soakPoint else s.job.resume)
  else s

/-- The restart barrier, looked at in every ac: a SUSPECT module halts and never sends RESTART; a ready one sends it, and the
origin picks W_R (R278, R364, R381). -/
def State.watchRestart (s : State) : State :=
  let s := s.haltStanding
  if !s.standing || s.links.restartUp || !s.restartReady then s
  else if s.links.origin then
    let w := s.chooseRelease
    { s with links := { s.links with restartUp := true, restartDown := some (releaseGrid s w), restartAt := some w } }
  else { s with links := { s.links with restartUp := true } }

/-- RESTART arrives: from a child ready, from the parent go at the count that GRID names (R278, R281). -/
def execRestartToken (p : Fin 16) (grid : BitVec 2) (s : State) : Out :=
  if !s.standing then .next s else
  let pp := s.placementPort p
  let s := if pp.isChild then s.modPort p (fun x => { x with childRestart := true }) else s
  let s := if pp.isParent then
      { s.modPort p (fun x => { x with parentRestart := some grid.toNat }) with
        links := { s.links with restartDown := some grid.toNat, restartAt := some (s.namedRelease grid.toNat) } }
    else s
  .next s.watchRestart

/-- A SOAK token names a stop point among the next two grid points (R275). -/
def State.tokenStop (s : State) (grid : Nat) : Option Nat :=
  let k := s.now / s.soakPeriod + 1
  if k % 4 = grid then some (k * s.soakPeriod)
  else if (k + 1) % 4 = grid then some ((k + 1) * s.soakPeriod)
  else none

def execSoakToken (p : Fin 16) (grid : BitVec 2) (s : State) : Out :=
  if !s.scheduleRuns then .next s else
  match s.tokenStop grid.toNat with
  | none => .next s
  | some x => .next (s.takeStop 7 false p.val (s.stopPoint x))

/-- The module stops at S (R276). A fault whose hold latency S cuts short holds instead (R255). -/
def execSoakStop (s : State) : Out :=
  match s.links.stopAt with
  | none => .next s
  | some x =>
    if !s.scheduleRuns || s.now < x then .next s
    else
      let s := { s with links := { s.links with stopWall := s.wall.toNat, soakStop := s.sched } }
      .next (s.setJobState .soak 0)

/-- A step of the active program begins: every stream returns to its first word (R66, R71). -/
def State.beginStep (t : Nat) (s : State) : State :=
  { s with
    cores := s.cores.map (fun k => { k with streams := k.streams.map (fun p => { p with pos := 0, base := t }) }),
    hbm := { s.hbm with pos := [] },
    job := { s.job with stepStart := t, nextStart := t + s.program!.stepLen } }

/-- A module that was started goes on from its stop point (R284). -/
def State.resumeStart (s : State) : State :=
  let how := s.job.resume
  let s := { s with job := { s.job with starting := false } }
  match how, s.job.barrier with
  | .action4, some r => (s.activate s.job.barrierSeq.toNat true).actionsFrom4 r
  | .evaluate, some r => s.evaluate r
  | .soakPoint, _ => s
  | _, _ => s.beginStep s.now

/-- A halted job goes on inside the barrier of the present ac, whose words have issued (R284). -/
def State.resumesInBarrier (s : State) : Bool := s.job.barrier.isSome && (s.job.resume == .action4 || s.job.resume == .evaluate)

/-- The restart barrier releases at W_R: action 3, action 4, then schedule time resumes (R278, R284). -/
def execSoakRelease (s : State) : Out :=
  match s.links.restartAt with
  | none => .next s
  | some w =>
    if !s.standing || s.clusterWall < w || s.job.faultAt.isSome then .next s
    else if s.job.halt == some 0 || s.job.suspectStop then
      .next (s.haltAt (if s.job.st == .soak then .soakPoint else s.job.resume))
    else
      let soak := s.job.st == .soak
      let s := if soak then s.endSoak else s
      let s := (s.opPointAction 0).clearRestart
      let s := { s with offered := s.offered && !soak && s.resumesInBarrier }
      .next (if soak then s.setJobState .running 0 else s.resumeStart).reraise

end Sys2Proof.Machine
end

