-- ==== Sys2Proof/Machine/Flash.lean ====
section
/-! DEFINITION. What the flash and the fuses hold, and the security engine's keys: the key store, the health record's bytes, the
device certificate, the firmware image and its checks (R365, R366, R385 to R389, R396 to R398). -/
namespace Sys2Proof.Machine

/-! ### Keys of the security engine (R397) -/

/-- The signing key in use: SK.seed, SK.prf, PK.seed; the opened identity once IDENTITY_KILL is blown (R397). -/
def State.identity (s : State) : Bytes × Bytes × Bytes :=
  let d := Config.deviceSeed
  if s.fuses.identityKill then
    ((hmac d (ascii "Hetus opened 1")).take 16, (hmac d (ascii "Hetus opened 2")).take 16, (hmac d (ascii "Hetus opened 3")).take 16)
  else
    ((hmac d (ascii "Hetus identity 1")).take 16, (hmac d (ascii "Hetus identity 2")).take 16,
     (hmac d (ascii "Hetus identity 3")).take 16)

def State.publicKey (s : State) : Bytes :=
  let k := s.identity
  padTo 32 (Config.slhPublic128f k.1 k.2.1 k.2.2)

def State.sign (s : State) (m : Bytes) : Bytes :=
  let k := s.identity
  padTo 17088 (Config.slhSign128f k.1 k.2.1 k.2.2 m)

/-! ### The key store (R386) -/

/-- The copy of the key store in use, by GENERATION (R366, R386). -/
def State.keyStore (s : State) : KeyStore :=
  match s.flash.keysA, s.flash.keysB with
  | some a, some b => if a.generation < b.generation then b else a
  | some a, none => a
  | none, some b => b
  | none, none => ⟨0, [], []⟩

/-- A key store write replaces the copy with the lower GENERATION (R366, R386). -/
def State.writeKeys (f : KeyStore → KeyStore) (s : State) : State :=
  let old := s.keyStore
  let new := { f old with generation := old.generation + 1 }
  let toB := match s.flash.keysA, s.flash.keysB with
    | some a, some b => decide (b.generation ≤ a.generation)
    | some _, none => true
    | none, _ => false
  { s with flash := if toB then { s.flash with keysB := some new } else { s.flash with keysA := some new } }

def State.setSeatKey (seat : Nat) (key : Bytes) (s : State) : State :=
  s.writeKeys (fun k : KeyStore => { k with seats := tabSet seat key k.seats })

/-! ### The health record (R366) -/

/-- The record's bytes before the signature. -/
def Health.body (h : Health) (deviceId : Bytes) : Bytes :=
  let entries := (h.hbmRows ++ h.spRows ++ h.lanes).flatMap le64
  let head := le32 0x48524543 ++ le16 1 ++ le16 (bit h.suspect + 2 * bit h.opened) ++ le64 h.generation ++ padTo 32 deviceId
    ++ u8 h.reason ++ u8 h.core ++ u8 h.slice ++ u8 0 ++ le32 h.releases ++ le64 h.timeNs ++ padTo 64 h.evidence
    ++ le16 h.hbmRows.length ++ le16 h.spRows.length ++ le16 h.lanes.length ++ le16 0 ++ le64 h.passes ++ List.replicate 112 0
  padTo (roundUp (256 + entries.length) 64) (head ++ entries)

/-- The record in use as it stands in flash, with its signature. -/
def State.healthBytes (s : State) : Bytes :=
  let b := (s.healthInUse.getD Health.blank).body Config.deviceId
  b ++ s.sign b

/-- The due change of the health record is written over the copy with the lower GENERATION (R364, R366). -/
def State.writeHealth (s : State) : State :=
  match s.sec.healthDue with
  | none => s
  | some h =>
    let g := max ((s.flash.healthA.map (·.generation)).getD 0) ((s.flash.healthB.map (·.generation)).getD 0)
    let h := { h with signer := s.fuses.identityKill, generation := g + 1 }
    let toB := match s.flash.healthA, s.flash.healthB with
      | some a, some b => decide (b.generation ≤ a.generation)
      | some _, none => true
      | none, _ => false
    { s with
      sec := { s.sec with healthDue := none },
      flash := if toB then { s.flash with healthB := some h } else { s.flash with healthA := some h } }

/-! ### The device certificate (R398) -/

/-- The 16,384 bytes of the device certificate; the issuer's hash and signature are the part's own (Config, log 4). -/
def State.certificate : Bytes :=
  let k : Bytes × Bytes × Bytes :=
    ((hmac Config.deviceSeed (ascii "Hetus identity 1")).take 16, (hmac Config.deviceSeed (ascii "Hetus identity 2")).take 16,
     (hmac Config.deviceSeed (ascii "Hetus identity 3")).take 16)
  le32 0x43455254 ++ le16 1 ++ u8 9 ++ u8 (16 * Config.stepMajor.toNat + Config.stepMinor.toNat) ++ le64 Config.serial.toNat
  ++ padTo 32 Config.deviceId ++ padTo 32 (Config.slhPublic128f k.1 k.2.1 k.2.2) ++ slice 0 32 Config.deviceCertificate
  ++ List.replicate 48 0 ++ slice 32 16224 Config.deviceCertificate

/-! ### The firmware image (R387, R388) -/

def fwMaxLength : Nat := 12 * 2 ^ 20

def fwLength (b : Bytes) : Nat := leAt b 0x0C 4
def fwSvn (b : Bytes) : Nat := leAt b 8 4
def fwVersion (b : Bytes) : Nat := leAt b 0x10 8

/-- Check 1 of R388. -/
def fwFormatOk (b : Bytes) : Bool :=
  let n := fwLength b
  leAt b 0 4 == 0x4657494D && leAt b 4 2 == 1 && decide (leAt b 6 2 < 2 ∧ fwSvn b ≤ 63) && zeroAt b 0x28 24 && zeroAt b 0x70 16
  && n % 64 == 0 && decide (16224 + 128 ≤ n ∧ n ≤ fwMaxLength ∧ n ≤ b.length)
  && decide (leAt b 0x18 4 + leAt b 0x1C 4 ≤ n - 16224 ∧ leAt b 0x20 4 + 48 * leAt b 0x24 4 ≤ n - 16224 ∧ leAt b 0x24 4 ≤ 4096)
  && (bitAt (leAt b 6 2) 0 || (leAt b 0x20 4 == 0 && leAt b 0x24 4 == 0))
  && (List.range (leAt b 0x24 4)).all (fun i => zeroAt b (leAt b 0x20 4 + 48 * i + 40) 8)

/-- Check 2 of R388. -/
def fwSignerOk (b : Bytes) : Bool := sha256 (slice 0x40 48 b) == padTo 32 Config.fwKeyHash
/-- Check 3 of R388. -/
def fwSignatureOk (b : Bytes) : Bool :=
  let n := fwLength b
  Config.slhVerify192s (slice 0x40 48 b) (slice 0 (n - 16224) b) (slice (n - 16224) 16224 b)
/-- Check 4 of R388. -/
def fwSvnOk (fused : Nat) (b : Bytes) : Bool := decide (fused ≤ fwSvn b)

/-- The first check of R388 that fails: 0 none, else its number. -/
def fwCheck (fused : Nat) (b : Bytes) : Nat :=
  if !fwFormatOk b then 1 else if !fwSignerOk b then 2 else if !fwSignatureOk b then 3 else if !fwSvnOk fused b then 4 else 0

/-- SHA-256 over the image: the firmware digest (R387). -/
def fwDigest (b : Bytes) : Bytes := sha256 (slice 0 (fwLength b) b)

/-- A release record of the image names this part and this GENERATION (R389). -/
def fwReleases (b : Bytes) (generation : Nat) : Bool :=
  bitAt (leAt b 6 2) 0 && (List.range (leAt b 0x24 4)).any (fun i =>
    let o := leAt b 0x20 4 + 48 * i
    slice o 32 b == padTo 32 Config.deviceId && leAt b (o + 32) 8 == generation)

end Sys2Proof.Machine
end

