-- ==== Sys2Proof/Machine/Fcp.lean ====
section
/-! DEFINITION. The Feltodo Command Protocol: packet intake, session 0, authentication, the sequence window, replies and freezing
(R89, R90, R294 to R310, R312, R317, R384, R391). -/
namespace Sys2Proof.Machine

/-! ### Who serves (R382 to R384, R391) -/

/-- The rails are in regulation and RESET_N is high. -/
def State.alive (s : State) : Bool := s.pins.pwrOk && s.pins.resetN

/-- The firmware serves FCP: stage 3 and later (R382, R384). -/
def State.firmwareServes (s : State) : Bool := s.alive && decide (3 ≤ s.boot.stage.toNat ∧ s.boot.stage.toNat ≤ 9)

/-- The boot ROM serves RECOVERY_LOAD on port 0 (R391). -/
def State.romServes (s : State) : Bool := s.alive && s.boot.stage == 15

/-! ### Sessions -/

def State.session (s : State) (id : Nat) : Option Session := s.fcp.sessions.find? (fun x => x.id == id)

def State.modSession (id : Nat) (f : Session → Session) (s : State) : State :=
  { s with fcp := { s.fcp with sessions := s.fcp.sessions.map (fun x => if x.id = id then f x else x) } }

/-- Sessions stay in rising order of id. -/
def insertSession (x : Session) : List Session → List Session
  | [] => [x]
  | y :: t => if x.id < y.id then x :: y :: t else y :: insertSession x t

/-- The checkpoint stream ends incomplete with its event (R316, R319, R380). -/
def State.endStream (s : State) : State :=
  let d := le64 s.ckpt.step ++ le32 s.ckpt.stream ++ u8 1
  ({ s with ckpt := { s.ckpt with st := 4, holding := false } }).event 15 d []

/-- A stream under way ends incomplete; a request that still waits for its barrier is dropped (R316, R381). -/
def State.dropStream (s : State) : State :=
  if s.ckpt.st = 2 then s.endStream else if s.ckpt.st = 1 then { s with ckpt := { s.ckpt with st := 0 } } else s

/-- A stream that goes to a session ends when the session closes or freezes (R316). -/
def State.endStreamOf (id : Nat) (s : State) : State :=
  if !s.ckpt.buddy && s.ckpt.session == id then s.dropStream else s

/-- A session closes (R309, R316). -/
def State.closeSession (id : Nat) (s : State) : State :=
  ({ s with
    fcp := { s.fcp with
      sessions := s.fcp.sessions.filter (fun x => x.id != id), held := s.fcp.held.filter (fun h => h.packet.session.toNat != id) },
    power := { s.power with waitReplies := s.power.waitReplies.filter (fun p => p.session != id) } }).endStreamOf id

/-- All sessions that satisfy a condition close (R309). -/
def State.closeSessions (f : Session → Bool) (s : State) : State :=
  (s.fcp.sessions.filter f).foldl (fun s x => s.closeSession x.id) s

/-! ### Packets -/

/-- The signed bytes of a request (R298, R299). -/
def packetBody (p : Packet) (opcode : Nat) : Bytes :=
  be32 p.magic.toNat ++ u8 p.version.toNat ++ u8 p.flags.toNat ++ be16 p.session.toNat ++ be32 p.seq.toNat ++ be16 opcode
  ++ be16 p.status.toNat ++ be16 p.paramLen.toNat ++ be16 p.rsv1.toNat ++ be64 p.wall.toNat ++ be32 p.rsv2.toNat ++ p.params

/-- The header fields of a request that must have a fixed value (R298). -/
def packetHeaderOk (p : Packet) : Bool :=
  (p.flags == 0 || p.flags == 8) && p.status == 0 && p.paramLen.toNat == p.params.length && p.rsv1 == 0 && p.wall == 0 && p.rsv2 == 0

def packetUnauth (p : Packet) : Bool := bitAt p.flags.toNat 3

/-- BAD_TAG counts a dropped packet (R296, R307, R329). -/
def State.dropTag (port : Fin 2) (s : State) : State :=
  { s with eth := s.eth.set port { s.eth[port] with badTag := satInc s.eth[port].badTag } }

/-- REPLAY counts a dropped packet (R305, R329). -/
def State.dropReplay (port : Fin 2) (s : State) : State :=
  { s with eth := s.eth.set port { s.eth[port] with replay := satInc s.eth[port].replay } }

/-- Largest block of parameters that a packet of a port carries: the MTU less IPv6, UDP, header and tag (R294, R300, R399). -/
def State.roomOf (s : State) (port : Fin 2) : Nat := s.mtu port - 96

/-! ### Frames (R294, R296) -/

/-- The MAC address of a port (R385). -/
def portMac (port : Fin 2) : Nat := (Config.macBase.toNat + port.val) % 2 ^ 48

/-- The interface identifier of a MAC address: modified EUI-64, the universal bit inverted (R294; PRESUMED of RFC 4291, log 77). -/
def eui64 (mac : Nat) : Nat := (mac / 2 ^ 24 ^^^ 2 ^ 17) * 2 ^ 40 + 0xFFFE * 2 ^ 24 + mac % 2 ^ 24

/-- The link-local address of a port (R294). -/
def linkLocal (port : Fin 2) : Nat := 0xFE80 * 2 ^ 112 + eui64 (portMac port)

/-- An IPv6 address of a port: link-local always, global when IPV6_PREFIX is not 0 (R294). -/
def State.ownsV6 (port : Fin 2) (a : Nat) (s : State) : Bool :=
  let prefix_ := (s.cfg.ipv6Prefix[port]).toNat
  a == linkLocal port || (prefix_ != 0 && a == prefix_ * 2 ^ 64 + eui64 (portMac port))

/-- The IPv4 address of a port, when it is not 0 (R294). -/
def State.ownsV4 (port : Fin 2) (a : Nat) (s : State) : Bool :=
  let own := (s.cfg.netCfg[port]).toNat / 2 ^ 32
  own != 0 && a == own

/-- What becomes of a frame before its content is looked at. -/
inductive Intake where
  | ignored | counted | packet
deriving DecidableEq, Repr

/-- A frame as a port takes it: untagged or of the port's VLAN, whole, and with MACsec on verified; one that is not is dropped, and
counted for MACsec (R294, R296). -/
def State.frameIn (f : Frame) (s : State) : Intake :=
  if s.macsecOn f.port && f.prot != .verified then .counted
  else if (!s.macsecOn f.port && f.prot != .bare) || !(f.vlan == 0 || f.vlan.toNat == s.vlan f.port) || f.fragmented then .ignored
  else .packet

/-- A packet as a frame. -/
def packetFrame (p : Packet) : Frame := ⟨p.port, p.vlan, p.prot, p.fragmented⟩

/-- Intake by a port of the firmware: link, MACsec, VLAN, fragments, address, UDP port (R294, R296). -/
def State.intake (p : Packet) (s : State) : Intake :=
  if !s.firmwareServes || s.eth[p.port].link == 0 then .ignored
  else match s.frameIn (packetFrame p) with
    | .packet =>
      if (if p.v6 then s.ownsV6 p.port p.target.toNat else s.ownsV4 p.port p.target.toNat) && p.udpPort == s.cfg.udpPort then .packet
      else .ignored
    | x => x

/-! ### Replies -/

/-- What a command answers: status, parameters, the record of a memory fault, the state after it, and whether the reply waits for
the rails (R340). -/
structure Reply where
  status : Nat
  params : Bytes
  fault : Option FaultRec
  state : State
  waits : Bool := false

def Reply.ok (params : Bytes) (s : State) : Reply := { status := 0, params := params, fault := none, state := s }
def Reply.refuse (status : Nat) (s : State) : Reply := { status := status, params := [], fault := none, state := s }

/-- The statuses that freeze a session (R317). -/
def freezes (status : Nat) : Bool := [1, 2, 3, 0x305, 0x401, 0x402, 0x703].contains status

/-- A reply packet (R295, R298, R300): through the port and to the address of its request. -/
def replyPacket (p : Packet) (opcode flags status : Nat) (params : Bytes) (s : State) : OutPacket :=
  { port := p.port, dst := p.src, flags := flags, session := p.session.toNat, seq := p.seq.toNat, opcode := opcode, status := status,
    wall := s.wall.toNat, params := params, tag := [] }

def State.reply (p : Packet) (opcode : Nat) (key : Option Bytes) (status : Nat) (params : Bytes) (s : State) : State :=
  s.send ((replyPacket p opcode (if key.isNone then 9 else 1) status params s).sign key)

/-! ### The sequence window (R305) -/

/-- A sequence counts as accepted; the records of the last 64 are kept. -/
def Session.accept (x : Session) (seq : Nat) : Session :=
  let h := max x.high seq
  { x with high := h, seen := x.seen.filter (fun e => e.seq != seq && decide (h < e.seq + 64)) }

/-- A sequence is recorded, with up to 32 bytes of reply. -/
def Session.record (x : Session) (seq : Nat) (tag4 : Bytes) (status : Nat) (params : Bytes) : Session :=
  let y := x.accept seq
  { y with seen := y.seen ++ [⟨seq, tag4, status, params.take 32⟩] }

/-- Outcome of the window for a packet with a valid tag. -/
inductive WindowCase where
  | execute
  | again (e : SeqRec)
  | drop
deriving DecidableEq, Repr

def Session.window (x : Session) (seq : Nat) (tag4 : Bytes) : WindowCase :=
  match x.seen.find? (fun e => e.seq == seq) with
  | some e => if e.tag4 = tag4 then .again e else .drop
  | none => if x.high = 0xFFFFFFFF ∨ seq + 64 ≤ x.high then .drop else .execute

/-! ### Execution -/

/-- A row of the opcode table with its meaning (R312): fixed bytes of parameters, the unit of a trailing data block (0: none),
the most data, reserved bytes, whether it is served before READY (R384), whether its reply can exceed 32 bytes (R305). -/
structure Spec where
  opcode : Nat
  seats : List Nat
  len : Nat
  unit : Nat := 0
  most : Nat := 0
  reserved : List (Nat × Nat) := []
  early : Bool := true
  long : Bool := false
  /-- Status before READY where the row is not served then (R384). -/
  soon : Nat := 0x211
  /-- The command that carries a packet of this row, for the command queue (R306). -/
  cmd : Packet → State → Instr
  /-- The fabric slots that its access to memory takes while a schedule runs: attachment and 512-byte parts (R21). -/
  slots : Session → Packet → State → List (Nat × Nat) := fun _ _ _ => []
  run : Session → Packet → State → Reply

/-- The five seats (R302). -/
def allSeats : List Nat := [1, 2, 3, 4, 5]

/-- PARAM_LEN, the data block and the reserved bytes (R300, R317). -/
def Spec.paramsOk (d : Spec) (b : Bytes) : Bool :=
  (if d.unit = 0 then b.length == d.len else decide (d.len ≤ b.length ∧ b.length ≤ d.len + d.most) && (b.length - d.len) % d.unit == 0)
  && d.reserved.all (fun r => zeroAt b r.1 r.2)

/-- The checks of a request and its meaning (R300, R312, R317, R384). -/
def Spec.answer (d : Spec) (x : Session) (p : Packet) (s : State) : Reply :=
  if !(packetHeaderOk p) then Reply.refuse 2 s
  else if !d.seats.contains x.seat then Reply.refuse 3 s
  else if s.boot.stage != 9 && !d.early then Reply.refuse d.soon s
  else if !d.paramsOk p.params then Reply.refuse 2 s
  else
    let r := d.run x p s
    if decide (s.roomOf p.port < r.params.length) then Reply.refuse 2 s else r

/-- The record of a freezing request that is no memory fault (R308). -/
def frozenRecord (opcode id seq status : Nat) : FaultRec :=
  ⟨2, 0, masterCode 3 (id - 1), 0xFFFF, 5, 0, 0, 0, 0, 0, 0xFFFFFFFF, opcode, seq, 0, status⟩

/-- The reply of a command enters egress, or waits for the rails (R295, R340). -/
def Reply.send (opcode : Nat) (x : Session) (p : Packet) (r : Reply) : State :=
  let s := r.state
  if r.waits then
    { s with power := { s.power with waitReplies := s.power.waitReplies ++ [replyPacket p opcode 1 r.status r.params s] } }
  else s.reply p opcode (some x.key) r.status r.params

/-- A request has run: the reply, the record of its sequence, the freeze (R295, R305, R308). -/
def finish (opcode : Nat) (x : Session) (p : Packet) (r : Reply) : State :=
  let s := r.send opcode x p
  let s := s.modSession x.id (fun y => y.record p.seq.toNat (p.tag.take 4) r.status r.params)
  if freezes r.status && (s.session x.id).isSome then
    let f := match r.fault with | some f => f | none => frozenRecord opcode x.id p.seq.toNat r.status
    (s.freezeSession x.id r.status p.seq.toNat (s.stampRecord f)).endStreamOf x.id
  else s

/-! ### The queues (R21, R89, R306) -/

/-- A packet of `n` bytes of parameters fits a port's egress queue. -/
def State.room (port : Fin 2) (n : Nat) (s : State) : Bool := decide (s.eth[port].occupancy + 48 + n ≤ egressSize)

/-- The reply of a command that has run fits egress, or waits for the rails: else the command stalls, and has not run (R89, R340). -/
def Reply.fits (port : Fin 2) (r : Reply) : Bool := r.waits || r.state.room port r.params.length

/-- A command of a session still executes: its reply waits (R305, R306, R340). -/
def State.executing (id : Nat) (s : State) : Bool := s.power.waitReplies.any (fun p => p.session == id)

/-- The commands of a session in the command queue, in order. -/
def State.heldOf (id : Nat) (s : State) : List Held := s.fcp.held.filter (fun h => h.packet.session.toNat == id)

/-- Their packets. -/
def State.queueOf (id : Nat) (s : State) : List Packet := (s.heldOf id).map (·.packet)

/-- A command enters the command queue. -/
def State.enqueue (d : Spec) (p : Packet) (slots : List (Nat × Nat)) (s : State) : State :=
  { s with fcp := { s.fcp with held := s.fcp.held ++ [⟨p, d.cmd p s, slots⟩] } }

/-- A command leaves the command queue. -/
def State.dequeue (p : Packet) (s : State) : State :=
  { s with fcp := { s.fcp with held := s.fcp.held.filter (fun h => h.packet != p) } }

/-- An accepted command waits in the queue; its sequence counts as accepted (R305, R306). -/
def State.hold (d : Spec) (x : Session) (p : Packet) (s : State) : State :=
  (s.modSession x.id (fun y => y.accept p.seq.toNat)).enqueue d p (if s.scheduleRuns then d.slots x p s else [])

/-- A command at the head of its session's queue may run: nothing of the session executes, and the slots of its access have passed; where
schedule time stands, the default table carries it (R21). -/
def State.headReady (h : Held) (s : State) : Bool :=
  !s.executing h.packet.session.toNat && (s.heldOf h.packet.session.toNat).head? == some h && (h.slots.isEmpty || !s.scheduleRuns)

/-- The head of a session's queue, whose turn has come. -/
def State.released (p : Packet) (s : State) : Bool := s.fcp.held.any (fun h => h.packet == p && s.headReady h)

/-- The capacities of the command queue and of a port's ingress buffer (R89). -/
def commandQueue : Nat := 256
def ingressSize : Nat := 2 ^ 22

/-- A packet stands first in its port's ingress buffer. -/
def State.buffered (p : Packet) (s : State) : Bool := (s.eth[p.port].ingress.head?).map (·.1) == some p

/-- The first packet of a port's ingress buffer leaves it. -/
def State.unbuffer (p : Packet) (s : State) : State :=
  if s.buffered p then { s with eth := s.eth.set p.port { s.eth[p.port] with ingress := s.eth[p.port].ingress.drop 1 } } else s

/-- A packet waits in ingress: behind an earlier one, for the command queue, or for room of the shortest replies in egress (R89). -/
def State.crowded (p : Packet) (s : State) : Bool :=
  (!s.eth[p.port].ingress.isEmpty && !s.buffered p) || decide (commandQueue ≤ s.fcp.held.length) || !s.room p.port 32

/-- A packet enters its port's ingress buffer; one that finds it full is dropped and counted (R89). -/
def State.buffer (d : Spec) (p : Packet) (s : State) : State :=
  let e := s.eth[p.port]
  if s.buffered p then s
  else if ingressSize < (e.ingress.map (fun x => 48 + x.1.params.length)).foldl (· + ·) (48 + p.params.length) then
    { s with eth := s.eth.set p.port { e with ingressDrop := satInc e.ingressDrop } }
  else { s with eth := s.eth.set p.port { e with ingress := e.ingress ++ [(p, d.cmd p s)] } }

/-- The commands that the next ac runs by itself: queued ones whose turn has come, and those of ingress for which the queue has room
(R89, R306). -/
def State.releasedCommands (s : State) : List Instr :=
  (s.fcp.held.filter s.headReady).map (·.cmd)
  ++ [(0 : Fin 2), 1].flatMap (fun p => (s.eth[p].ingress.take (commandQueue - s.fcp.held.length)).map (·.2))

/-- A command runs if its reply fits, else it stays in the queue or enters it (R89). -/
def runOrHold (d : Spec) (x : Session) (p : Packet) (s : State) : State :=
  let r := d.answer x p s
  if r.fits p.port then finish d.opcode x p r else s.hold d x p

/-- A command begins, or waits: behind one of its session, or for the slots of its access (R21, R306). -/
def start (d : Spec) (x : Session) (p : Packet) (s : State) : State :=
  if s.executing x.id || !(s.queueOf x.id).isEmpty || (s.scheduleRuns && !(d.slots x p s).isEmpty) then s.hold d x p
  else runOrHold d x p s

/-- A queued command leaves the queue and runs, once its reply fits; a frozen session answers FROZEN (R89, R305, R306, R308). -/
def runHeld (d : Spec) (x : Session) (p : Packet) (s : State) : State :=
  let t := s.dequeue p
  let r := if x.st == .frozen then Reply.refuse 4 t else d.answer x p t
  if r.fits p.port then finish d.opcode x p r else s

/-- The module answers a session where its last valid packet came from (R295). -/
def State.heard (x : Session) (p : Packet) (s : State) : State := s.modSession x.id (fun y => { y with port := p.port, src := p.src })

/-- A packet of an open or frozen session (R305 to R308). -/
def openPacket (d : Spec) (x : Session) (p : Packet) (s : State) : State :=
  let tag4 := p.tag.take 4
  let s := s.heard x p
  if p.version != 1 then s.reply p d.opcode (some x.key) 5 []
  else if x.st == .frozen then s.reply p d.opcode (some x.key) 4 []
  else
    match (s.queueOf x.id).find? (fun q => q.seq == p.seq) with
    | some q => if q.tag.take 4 = tag4 then s else s.dropReplay p.port
    | none =>
      match x.window p.seq.toNat tag4 with
      | .drop => s.dropReplay p.port
      | .again e =>
        if s.power.waitReplies.any (fun w => w.session == x.id && w.seq == p.seq.toNat) then s
        else if d.long then start d x p s
        else s.reply p d.opcode (some x.key) e.status e.reply
      | .execute => start d x p s

/-- A packet comes in at its port: into the ingress buffer where it must wait, else on (R89, R294, R296). -/
def arrive (d : Spec) (p : Packet) (go : State → State) (s : State) : State :=
  match s.intake p with
  | .ignored => s.unbuffer p
  | .counted => (s.unbuffer p).dropTag p.port
  | .packet => if s.crowded p then s.buffer d p else go (s.unbuffer p)

/-- An FCP packet with a session arrives (R294 to R308). -/
def receive (d : Spec) (p : Packet) (s : State) : State :=
  match s.released p, s.session p.session.toNat with
  | true, some x => runHeld d x p s
  | _, known =>
    arrive d p (fun s =>
      if p.magic != 0x46454C54 then s.dropTag p.port
      else match known with
        | none => s.dropTag p.port
        | some x =>
          if x.st == .pending || packetUnauth p || (hmac x.key (packetBody p d.opcode)).take 16 != p.tag then s.dropTag p.port
          else openPacket d x p s) s

/-- Session 0, as replies see it (R298). -/
def sessionZero : Session := ⟨0, 0, .open_, [], [], [], 0, [], 0, 0, 0, 0, 0, none⟩

/-- What a session-0 packet answers: its parameters and its meaning, within the port's MTU (R294, R300). -/
def Spec.answerZero (d : Spec) (p : Packet) (s : State) : Reply :=
  if packetHeaderOk p && d.paramsOk p.params then
    let r := d.run sessionZero p s
    if decide (s.roomOf p.port < r.params.length) then Reply.refuse 2 s else r
  else Reply.refuse 2 s

/-- A session-0 command runs if its reply fits; `queued` is the state in which it waits. -/
def runZero (d : Spec) (p : Packet) (queued s : State) : State :=
  let r := d.answerZero p s
  if r.fits p.port then r.state.reply p d.opcode none r.status r.params else queued

/-- A session-0 packet with UNAUTH set arrives (R299, R303, R310): `d` gives its parameters and meaning, `ok` whether the module
accepts the form. -/
def receiveZero (d : Spec) (ok : State → Bool) (p : Packet) (s : State) : State :=
  if s.released p then runZero d p s (s.dequeue p)
  else
    arrive d p (fun s =>
      if p.magic != 0x46454C54 || p.session != 0 || !(packetUnauth p) || p.tag != List.replicate 16 0 || !ok s then s.dropTag p.port
      else if p.version != 1 then s.reply p d.opcode none 5 []
      else runZero d p (s.enqueue d p []) s) s

/-- A packet that session 0 or a session may carry (R310, R312). -/
def receiveBoth (d : Spec) (ok : State → Bool) (p : Packet) (s : State) : State :=
  if p.session == 0 then receiveZero d ok p s else receive d p s

end Sys2Proof.Machine
end

