-- ==== Sys2Proof/Machine/Power.lean ====
section
/-! DEFINITION. Clock sources and their monitors, rails and the adaptive loop, power, heat and coolant samples (R332 to R337, R340
to R343, R346 to R350, R423). -/
namespace Sys2Proof.Machine

/-! ### Loss of power (R348, R383, R403, R420) -/

/-- The marks of faults of the cell, which no loss of power removes (R232, R237). -/
def hardMarks (marks : List (Nat × EccMark)) : List (Nat × EccMark) := marks.filter (fun m => m.2.hard)

/-- Every volatile state is lost; flash, fuses, the given pins and the faults of the cells stay. A change of the health record that is
due is written before the loss takes effect: no reset clears SUSPECT (R365; DEDUCED, log 154). The queue and the counters of the model
are its own. -/
def State.lose (pins : PinState) (s : State) : State :=
  let t := s.writeHealth
  let r := State.volatileReset t.flash t.fuses pins ((t.healthInUse.getD Health.blank).suspect)
  { r with
    cores := s.cores.map (fun k => { CoreState.initial with ecc := hardMarks k.ecc })
    hbm := { r.hbm with ecc := hardMarks s.hbm.ecc }
    pending := s.pending, free := s.free, offered := s.offered }

/-- The rails switch off (R418, R420). -/
def State.railsOff (s : State) : State := s.lose { s.pins with rails := false, pwrOk := false }

/-- A thermal trip: THERM_TRIP_N latches low and the rails switch off (R348). -/
def State.thermalTrip (s : State) : State := s.lose { s.pins with rails := false, pwrOk := false, trip := true }

/-! ### Clock sources (R332 to R335) -/

def sourceCode : Source → Nat
  | .localRef => 0 | .link => 1 | .int => 2 | .eth => 3

def ClockState.mon (c : ClockState) : Source → SourceMon
  | .localRef => c.localMon
  | .link => c.linkMon
  | .eth => c.ethMon
  | .int => ⟨true, true, 0, 0, 0⟩

def ClockState.setMon (c : ClockState) (src : Source) (m : SourceMon) : ClockState :=
  match src with
  | .localRef => { c with localMon := m }
  | .link => { c with linkMon := m }
  | .eth => { c with ethMon := m }
  | .int => c

def State.modMon (src : Source) (f : SourceMon → SourceMon) (s : State) : State :=
  { s with clock := s.clock.setMon src (f (s.clock.mon src)) }

/-- The rails return to the targets of the active point. -/
def State.railsBack (s : State) : State :=
  let p := s.power.active.toNat
  { s with power := { s.power with ramping := true, coreTarget := s.boundMv p (nominalMv p), sramTarget := sramMv p } }

/-- A pending operating-point change is discarded; the rails return to the active point's targets (R340, R349). -/
def State.discardPoint (s : State) : State :=
  match s.power.pending with
  | none => s
  | some (x, _) =>
    let t := { s with power := { s.power with pending := none, vReady := false } }
    if x.toNat < s.power.active.toNat then t.railsBack else t

/-- A change that EMPTY accepted is discarded while its rails still rise; its reply follows once the rails have settled again (R340,
R349; log 67). -/
def State.discardRising (s : State) : State :=
  match s.power.emptyTarget with
  | none => s
  | some x =>
    if x.toNat < s.power.active.toNat then ({ s with power := { s.power with emptyTarget := none } }).railsBack else s

/-- A check fails on the source in use by the root: hold-over onto INT, the event, a soak of cause 6 (R335, R350). -/
def State.loseClock (src : Source) (check ppm : Nat) (s : State) : State :=
  let s := { s with clock := { s.clock with clockLost := true, rootActive := 2 } }
  let s := s.event 9 (u8 (sourceCode src) ++ u8 check ++ le16 0 ++ le32 ppm) []
  s.discardPoint.discardRising.raiseSoak 6 0 true

/-- A monitor's failure: READY clears; the root's own source is lost (R333, R335). -/
def State.sourceFails (src : Source) (check ppm : Nat) (s : State) : State :=
  let s := s.modMon src (fun m => { m with ready := false, good := 0, bad := 0 })
  if (sourceCode src) == s.clock.rootActive.toNat && !s.clock.clockLost then s.loseClock src check ppm else s

/-- Start-up returns to stage 3 when LOCAL is ready again after its failure in stages 4 to 8 (R406). -/
def State.localReturns (s : State) : State :=
  if s.clock.clockLost && decide (4 ≤ s.boot.stage.toNat ∧ s.boot.stage.toNat ≤ 8) && s.clock.localMon.ready then
    { s with boot := { s.boot with stage := 3 } }
  else s

/-- A source becomes ready (R333); not LINK while its lane's receiver is unlocked. -/
def State.sourceReady (src : Source) (s : State) : State :=
  if src == .link && !s.linkLocked then s else (s.modMon src (fun m => { m with ready := true })).localReturns

/-- The source runs in compare mode (R333, R352). -/
def State.compareMode (s : State) : Source → Bool
  | .localRef => s.cfg.modeLocal
  | .link => s.cfg.modeLink
  | _ => false

/-- i16 with saturation. -/
def clampI16 (x : Int) : Int := max (-32768) (min 32767 x)

/-- A gate's measurement lies inside the window. -/
def State.inWindowPpm (s : State) (ppm : Int) : Bool := decide (ppm.natAbs ≤ s.cfg.monWindow.toNat)

/-- A gate of the fine monitor ends: the second one in a row outside the window is the check's failure (R334). -/
def State.fineGate (src : Source) (ppm : Int) (s : State) : State :=
  let s := s.modMon src (fun m => { m with
    ppm := BitVec.ofInt 16 (clampI16 ppm), bad := (if s.inWindowPpm ppm then 0 else m.bad + 1) })
  if 2 ≤ (s.clock.mon src).bad then s.sourceFails src 1 (ofSigned 32 ppm) else s

/-- A gate of compare mode ends: the second one in a row inside the window, counted against COMPARE_REF, sets READY (R333). -/
def State.compareGate (src : Source) (ppm : Int) (s : State) : State :=
  let s := s.modMon src (fun m => { m with good := (if s.inWindowPpm ppm then m.good + 1 else 0) })
  if 2 ≤ (s.clock.mon src).good && !(s.clock.mon src).ready then s.sourceReady src else s

/-- The reference that COMPARE_REF names can be counted against: not ETH while it is failed (R333, R334; DEDUCED, log 60). -/
def State.compareRuns (s : State) : Bool := !(s.clock.ethFailed && s.cfg.compareRef == 3)

/-- FINE_MONITOR_GATE (R333, R334): the source's deviation from its reference, ETH or for ETH itself LOCAL, and from COMPARE_REF. The
monitor pauses while ETH is failed; compare mode counts in the same gates. -/
def execFineMonitorGate (src : Source) (gate : FineGate) (s : State) : Out :=
  if !s.alive || src == .int || !(s.clock.mon src).enabled then .next s else
  let s := if s.compareMode src && s.compareRuns then s.compareGate src gate.compare else s
  .next (if s.clock.ethFailed then s else s.fineGate src gate.ppm)

/-- A gross failure of ETH takes both Ethernet ports down (R334). -/
def State.ethFails (s : State) : State :=
  let s := s.modMon .eth (fun m => { m with ready := false, good := 0, bad := 0 })
  { s with clock := { s.clock with ethFailed := true }, eth := s.eth.map (fun e => { e with link := 0 }) }

/-- GROSS_MONITOR_GATE (R334): outside ±5 %, or no edge. -/
def execGrossMonitorGate (src : Source) (deviation : Option Int) (s : State) : Out :=
  if !s.alive || src == .int || !(s.clock.mon src).enabled then .next s else
  let bad := match deviation with
    | none => true
    | some d => decide (50000 < d.natAbs)
  let ppm := match deviation with
    | none => 0x7FFFFFFF
    | some d => ofSigned 32 d
  if src == .eth then
    if bad then .next s.ethFails else .next { s with clock := { s.clock with ethFailed := false } }
  else if bad then .next (s.sourceFails src 2 ppm) else .next s

/-- SOURCE_READY_COUNT: 2^16 cycles of a source after its enable, in count mode (R333); ETH counts always (log 60). -/
def execSourceReadyCount (src : Source) (s : State) : Out :=
  if !s.alive || src == .int || !(s.clock.mon src).enabled || s.compareMode src then .next s else .next (s.sourceReady src)

/-! ### Switching the root (R337) -/

/-- A READY bit by the code of ROOT_SRC. -/
def State.rootSourceReady (s : State) (code : Nat) : Bool :=
  match code with
  | 0 => s.clock.localMon.ready
  | 1 => s.clock.linkMon.ready
  | _ => code == 2

/-- An accepted write of ROOT_SRC: the PLL relocks and CLOCK_LOST clears (R337). -/
def State.switchRoot (s : State) : State :=
  let s := { s with clock := { s.clock with clockLost := false, relocking := true, rootLocked := false } }
  s.clearCause 6 0

/-- ROOT_RELOCK: the root runs from the source that ROOT_SRC names; a follower that moves to LINK is locked to its parent (R337,
R394). -/
def execRootRelock (s : State) : Out :=
  if !s.alive || !s.clock.relocking then .next s else
  let s := { s with clock := { s.clock with relocking := false, rootLocked := true, rootActive := s.cfg.rootSrc } }
  if s.cfg.rootSrc == 1 && !s.links.origin then
    .next { s with
      links := { s.links with locked := true }, boot := { s.boot with unfollowed := false },
      ports := s.ports.map (fun x => { x with control := x.control ++ [.locked] }) }
  else .next s

/-! ### Rails and the adaptive loop (R341 to R343) -/

/-- RAIL_SETTLED: V_READY for a pending upward change; the end of a change made in EMPTY with its replies (R340, R341). -/
def execRailSettled (s : State) : Out :=
  if !s.alive || !s.power.ramping then .next s else
  let s := { s with power := { s.power with ramping := false, vCore := s.power.coreTarget } }
  let s := match s.power.pending with
    | some (p, _) => if p.toNat < s.power.active.toNat then { s with power := { s.power with vReady := true } } else s
    | none => s
  let s := match s.power.emptyTarget with
    | some p => if p == s.power.active then s else s.switchPoint p.toNat
    | none => s
  let replies := s.power.waitReplies
  let s := { s with power := { s.power with emptyTarget := none, waitReplies := [] } }
  .next (replies.foldl (fun (s : State) (p : OutPacket) =>
    match s.session p.session with
    | some x => s.send (({ p with wall := s.wall.toNat } : OutPacket).sign (some x.key))
    | none => s) s)

/-- Absolute limit of the core rail, in mV (R343). -/
def coreLimitMv : Nat := 900

/-- The bounds of the core rail: lower, upper, and the REASON of clipping, 0 none (R343, R350). -/
def State.coreBounds (s : State) : Nat × Nat × Nat :=
  let p := s.power.active.toNat
  let fl := (Config.vFloorMv p).toNat
  let hi := s.policyMax p
  if hi < fl then (fl, fl, 1)
  else
    let lo := max (s.policyMin p) fl
    if hi < s.power.vReq.toNat then (lo, min s.power.vReq.toNat coreLimitMv, 2) else (lo, max lo hi, 0)

/-- The core rail stands at a voltage; its AVS_STATUS flags (R343, R352). -/
def State.setCoreMv (v : Nat) (s : State) : State :=
  let p := s.power.active.toNat
  { s with power := { s.power with
    coreTarget := v, vCore := v, aboveMax := decide (s.policyMax p < v), atFloor := decide (v = (Config.vFloorMv p).toNat) } }

/-- POLICY_CLIPPED with its event, once until the flag is cleared (R343, R350). -/
def State.clipPolicy (reason held : Nat) (s : State) : State :=
  if reason = 0 || s.power.policyClipped then s else
  let p := s.power.active.toNat
  let s := { s with power := { s.power with policyClipped := true } }
  s.event 18 (u8 p ++ u8 reason ++ le16 0 ++ le16 (s.policyMin p) ++ le16 (s.policyMax p) ++ le16 held) []

/-- One step of at most 5 mV from `v` toward `w`. -/
def stepToward (v w : Nat) : Nat := if v < w then min (v + 5) w else max (v - 5) w

/-- The loop waits: the rails ramp, or stand at the targets of an upward change that is still to be made (R341). -/
def State.railsBusy (s : State) : Bool := s.power.ramping || s.power.vReady

/-- AVS_STEP (R342, R343, R346): during a ramp the loop waits, and the request alone is judged. -/
def execAvsStep (vReqMv : U16) (s : State) : Out :=
  if !s.alive then .next s else
  let s := { s with power := { s.power with vReq := vReqMv } }
  let s := if vReqMv.toNat > coreLimitMv then s.raiseSoak 3 2 true else s.clearCause 3 2
  if s.railsBusy then .next s else
  let (lo, hi, reason) := s.coreBounds
  let goal := min (max vReqMv.toNat lo) hi
  .next ((s.setCoreMv (stepToward s.power.coreTarget goal)).clipPolicy reason hi)

/-- DROOP: the rail rises 20 mV at once, within its bounds (R342, R343; DEDUCED, log 61). -/
def execDroop (s : State) : Out :=
  if !s.alive || s.railsBusy then .next s else
  let (_, hi, _) := s.coreBounds
  .next (s.setCoreMv (max s.power.coreTarget (min (s.power.coreTarget + 20) hi)))

/-! ### Input power (R346) -/

/-- Samples of one µs apart that span a time in µs. -/
def spanned (us : Nat) : Nat := us + 1

/-- POWER_SAMPLE (R346, R352). Tags of cause 3: 0 the 1 ms mean, 1 the input voltage, 2 V_REQ. -/
def State.samplePower (m : PowerMeasure) (s : State) : State :=
  let oc := s.cfg.ocFastW.toNat
  let cap := s.cfg.capW.toNat
  let above := decide (oc < m.mean2us) || m.regLimit
  let v := m.vIn.toNat
  let s := { s with power := { s.power with
    pIn := BitVec.ofNat 16 (min m.mean1ms 0xFFFF), pPeak := BitVec.ofNat 16 (max s.power.pPeak.toNat (min m.mean2us 0xFFFF)),
    vIn := m.vIn, iIn := m.iIn,
    ocClear := (if decide (m.mean2us < oc) && !m.regLimit then s.power.ocClear + 1 else 0),
    underV := (if v < 4700 then s.power.underV + 1 else 0), goodV := (if 4800 < v then s.power.goodV + 1 else 0) } }
  let s := if above then s.raiseSoak 4 0 true else if spanned 100 ≤ s.power.ocClear then s.clearCause 4 0 else s
  let s := if 105 * cap < 100 * m.mean1ms then s.raiseSoak 3 0 true else if m.mean1ms < cap then s.clearCause 3 0 else s
  if spanned 50 ≤ s.power.underV then s.raiseSoak 3 1 true
  else if spanned 1000 ≤ s.power.goodV then s.clearCause 3 1 else s

def execPowerSample (m : PowerMeasure) (s : State) : Out := .next (if s.alive then s.samplePower m else s)

/-! ### Heat (R347 to R350, R423) -/

/-- The THERMAL event (R350). -/
def State.thermal (sensor level : Nat) (value threshold : Int) (s : State) : State :=
  s.event 17 (u8 sensor ++ u8 level ++ u8 s.power.active.toNat ++ u8 0 ++ le16 (ofSigned 16 value) ++ le16 (ofSigned 16 threshold)) []


/-- A sensor joins or leaves a set. -/
def putSensor (on : Bool) (k : Nat) (l : List Nat) : List Nat :=
  let l' := l.filter (fun x => x != k)
  if on then l' ++ [k] else l'

/-- One reading against its notice level: the event of LEVEL 1 as the level is passed (R347). -/
def State.noticeLevel (sensor : Nat) (was is_ : Bool) (t level : Int) (s : State) : State :=
  if is_ && !was then s.thermal sensor 1 t level else s

/-- One reading against its soak level: events of LEVEL 2 and 3, the cause with the sensor as its tag (R347, R349). -/
def State.soakLevel (sensor : Nat) (was : Bool) (t level : Int) (s : State) : State :=
  if !was && decide (level ≤ t) then (s.thermal sensor 2 t level).raiseSoak 2 sensor true
  else if was && decide (t ≤ level - 80) then (s.thermal sensor 3 t level).clearCause 2 sensor
  else s

/-- A sensor is in its soak after a reading. -/
def inSoak (was : Bool) (t level : Int) : Bool := if was then decide (level - 80 < t) else decide (level ≤ t)

/-- Trip level of the die, in 1/16 °C (R347). -/
def dieTrip : Int := 115 * 16

/-- One die sensor's reading (R347). -/
def State.dieReading (s : State) (x : Nat × BitVec 16) : State :=
  let (i, r) := x
  let t := r.toInt
  let notice : Int := s.cfg.dieNotice.toNat * 16
  let soak : Int := s.cfg.dieSoak.toNat * 16
  let wasN := s.therm.dieNotice.contains i
  let wasS := s.therm.dieSoak.contains i
  let s := { s with therm := { s.therm with
    dieNotice := putSensor (decide (notice ≤ t)) i s.therm.dieNotice, dieSoak := putSensor (inSoak wasS t soak) i s.therm.dieSoak } }
  (s.noticeLevel i wasN (decide (notice ≤ t)) t notice).soakLevel i wasS t soak

/-- DIE_SENSOR_SAMPLE (R347, R348). -/
def execDieSensorSample (readings : List (BitVec 16)) (s : State) : Out :=
  if !s.alive then .next s else
  let all := (List.range 72).map (fun i => (i, readings.getD i (s.therm.die.getD i 0)))
  if all.any (fun x => decide (dieTrip ≤ x.2.toInt)) then .next s.thermalTrip
  else .next (all.foldl State.dieReading { s with therm := { s.therm with die := all.map (·.2) } })

/-- STACK_SENSOR_SAMPLE (R339, R347, R348). -/
def execStackSensorSample (stack : Fin 20) (reading : BitVec 16) (s : State) : Out :=
  if !s.alive then .next s else
  let i := stack.val
  let t := reading.toInt
  let point := s.power.active.toNat
  if decide ((retention point * 16 : Nat) ≤ t) then .next s.thermalTrip else
  let notice : Int := s.cfg.hbmNotice.toNat * 16
  let soak : Int := (stackSoak point * 16 : Nat)
  let wasN := s.therm.hbmNotice.contains i
  let wasS := s.therm.hbmSoak.contains i
  let s := { s with therm := { s.therm with
    stackTemps := s.therm.stackTemps.set i reading, hbmNotice := putSensor (decide (notice ≤ t)) i s.therm.hbmNotice,
    hbmSoak := putSensor (inSoak wasS t soak) i s.therm.hbmSoak } }
  .next ((s.noticeLevel (0x80 + i) wasN (decide (notice ≤ t)) t notice).soakLevel (0x80 + i) wasS t soak)

/-- Coolant flow in units of 0.05 L/min: the soak below 1.0 L/min for 1 s, cleared above 2.0 L/min for 1 s (R423). -/
def State.flowReading (flow : Nat) (s : State) : State :=
  let s := { s with therm := { s.therm with
    flow := flow, lowFor := (if flow < 20 then s.therm.lowFor + 1 else 0), goodFor := (if 40 < flow then s.therm.goodFor + 1 else 0) } }
  if !s.therm.lowFlow && decide (spanned 10 ≤ s.therm.lowFor) then
    (({ s with therm := { s.therm with lowFlow := true } }).thermal 0xC2 2 flow 20).raiseSoak 2 0xC2 true
  else if s.therm.lowFlow && decide (spanned 10 ≤ s.therm.goodFor) then
    (({ s with therm := { s.therm with lowFlow := false } }).thermal 0xC2 3 flow 40).clearCause 2 0xC2
  else s

/-- COOLANT_SAMPLE (R423). -/
def execCoolantSample (inlet outlet : BitVec 16) (flow : Nat) (s : State) : Out :=
  if !s.alive then .next s else
  let hotIn := decide (45 * 16 < inlet.toInt)
  let hotOut := decide (60 * 16 < outlet.toInt)
  let wasIn := s.therm.inletNotice
  let wasOut := s.therm.outletNotice
  let s := { s with therm := { s.therm with inlet := inlet, outlet := outlet, inletNotice := hotIn, outletNotice := hotOut } }
  let s := s.noticeLevel 0xC0 wasIn hotIn inlet.toInt (45 * 16)
  let s := s.noticeLevel 0xC1 wasOut hotOut outlet.toInt (60 * 16)
  .next (s.flowReading flow)

end Sys2Proof.Machine
end

