-- ==== Sys2Proof/Machine/Testing.lean ====
section
/-! DEFINITION. Test slices, draw-ring windows, the health record's writes and the TRNG (R358 to R366, R379, R380, R396). -/
namespace Sys2Proof.Machine

/-- DATA of a TEST_RESULT event (R379). -/
def testData (core slice result mode passes detail windows : Nat) : Bytes :=
  u8 core ++ u8 slice ++ u8 result ++ u8 mode ++ le32 passes ++ le32 detail ++ le32 0 ++ le64 windows

/-- A slice fails: the event, the core's bit, SUSPECT with reason 1 (R361, R363, R366, R380). -/
def State.sliceFails (c : Fin 8) (slice mode detail : Nat) (s : State) : State :=
  let s := s.modCore c (fun k => { k with test := { k.test with passRun := 0 } })
  let t := (s.core c).test
  let d := testData c.val slice 1 mode t.passes detail t.windows
  let s := { s with test := { s.test with failedCores := s.test.failedCores ||| BitVec.ofNat 8 (2 ^ c.val) } }
  (s.event 16 d []).makeSuspect 1 c.val slice d

/-- A full pass of a core (R359, R379). -/
def State.fullPass (c : Fin 8) (mode : Nat) (s : State) : State :=
  let s := s.modCore c (fun k => { k with test := { k.test with passRun := 0, passes := k.test.passes + 1 } })
  let t := (s.core c).test
  s.event 16 (testData c.val 0xFF 0 mode t.passes 0 t.windows) []

/-- The scratchpad entry of the row of an offset, without its redundant row (R228, R366). -/
def spRowEntry (core a : Nat) : Nat := core + 2 ^ 3 * bankOf a + 2 ^ 9 * (a / 4096)

/-- A row joins the assignments: its bank's redundant rows are taken in order, up to 512 entries in all (R232, R366; DESIGN CHOICE, log
124). -/
def addSpRow (rows : List Nat) (entry : Nat) : List Nat :=
  if rows.any (fun e => e % 2 ^ 25 == entry) || decide (512 ≤ rows.length) then rows
  else rows ++ [entry + 2 ^ 25 * (rows.filter (fun e => e % 2 ^ 9 == entry % 2 ^ 9)).length]

/-- The destructive march finds the faults of the cells and assigns redundant rows to them in the health record (R232, R360). -/
def State.assignRows (s : State) : State :=
  let found := allCores.flatMap (fun c => (hardMarks (s.core c).ecc).map (fun m => spRowEntry c.val m.1))
  if found.isEmpty then s else s.changeHealth (fun h => { h with spRows := found.foldl addSpRow h.spRows })

/-- Redundant rows stand in for the rows that entries name: no fault of a cell of theirs stays (R232). -/
def State.useRows (rows : List Nat) (s : State) : State :=
  allCores.foldl (fun (s : State) c => s.modCore c (fun k : CoreState => { k with
    ecc := k.ecc.filter (fun m => !(m.2.hard && rows.any (fun e => e % 2 ^ 25 == spRowEntry c.val m.1))) })) s

/-- The extended form of every slice on every core (R360, R362): the slices that fail are the operand; the destructive march leaves
no contents in the slices and no transient error, and finds the rows to repair. -/
def State.extendedPass (mode : Nat) (failed : List (Fin 8 × Fin 40)) (s : State) : State :=
  let s := ({ s with cores := s.cores.map (fun k : CoreState => { k with mem := ([] : Memory), ecc := hardMarks k.ecc }) }).assignRows
  let s := allCores.foldl (fun s c =>
    let bad := (failed.filter (fun f => f.1 == c)).map (·.2.val)
    if bad.isEmpty then s.fullPass c mode else bad.foldl (fun s n => s.sliceFails c n mode 0) s) s
  if failed.isEmpty && !s.cfg.testsOff then { s with test := { s.test with untested := false } } else s

/-- A declared window of the core begins in the present ac (R356, R357). -/
def State.windowBegins (s : State) (c : Fin 8) : Bool :=
  match s.image with
  | none => false
  | some im => s.scheduleRuns && decide (s.job.stepStart ≤ s.now)
      && (im.windows.getD c.val []).any (fun w => w.program == s.job.program && s.job.stepStart + w.offset == s.now)

/-- DRAW_RING_WINDOW: the controller runs the core's next slice (R359), unless tests are off (R362). -/
def execDrawRingWindow (core : Fin 8) (s : State) : Out :=
  if !s.windowBegins core || s.cfg.testsOff then .next s else
  let s := { s with test := { s.test with windows := s.test.windows + 1 } }
  .next (s.modCore core (fun k => { k with test := { k.test with windows := k.test.windows + 1, busy := true } }))

/-- An in-field slice has finished: the index advances; 40 consecutive passing slices are a full pass (R359, R361, R362). -/
def State.sliceDone (c : Fin 8) (pass : Bool) (detail : Nat) (s : State) : State :=
  let n := (s.core c).test.next
  let s := s.modCore c (fun k => { k with test := { k.test with
    busy := false, next := (n + 1) % 40, passRun := (if pass then k.test.passRun + 1 else 0) } })
  if !pass then s.sliceFails c n 0 detail
  else if (s.core c).test.passRun < 40 then s
  else
    let s := (s.fullPass c 0).modCore c (fun k => { k with test := { k.test with loadPasses := k.test.loadPasses + 1 } })
    if decide (1 ≤ s.passesAll) && !s.cfg.testsOff then { s with test := { s.test with untested := false } } else s

/-- The offsets that a scratchpad slice marches over: bank rows 6,144s to 6,144s + 6,143 of every bank (R360). -/
def marchExtent (n : Nat) : Option (Nat × Nat) :=
  if 16 ≤ n ∧ n < 24 then some ((n - 16) * 6144 * 4096, 6144 * 4096) else none

/-- The ECC errors that a transparent march meets up to the word `stop`: a transient one that can be corrected is counted once and
written away, one of a cell shows in the first and the last read of its word (R232, R361; DEDUCED, log 153). -/
def State.marchErrors (c : Fin 8) (a stop : Nat) (s : State) : State :=
  let met := (s.core c).ecc.filter (fun m => decide (a ≤ m.1 ∧ m.1 < stop) && !m.2.uncorrectable)
  let n := (met.map (fun m => if m.2.hard then 2 else 1)).sum
  let s := s.modCore c (fun k => { k with ecc := k.ecc.filter (fun m => m.2.hard || !met.contains m) })
  if n = 0 then s else s.countCorrected false n

/-- The first word of a march that cannot be corrected. -/
def State.marchFault (c : Fin 8) (a len : Nat) (s : State) : Option Nat :=
  ((s.core c).ecc.filter (fun m => m.2.uncorrectable && decide (a ≤ m.1 ∧ m.1 < a + len))).foldl
    (fun (x : Option Nat) m => some (match x with | none => m.1 | some b => min b m.1)) none

/-- TEST_SLICE_DONE: a slice stopped by a hold is not counted (R359); a march counts the errors that it corrects, and an uncorrectable
error in it, at the word that `detail` names or at one that State marks, is a fault of master TEST too (R361). -/
def execTestSliceDone (core : Fin 8) (pass : Bool) (detail : U32) (ecc : Bool) (s : State) : Out :=
  if !(s.core core).test.busy || !s.scheduleRuns then .next s else
  let (a, len) := (marchExtent (s.core core).test.next).getD (0, 0)
  let stop := if ecc then some (8 * detail.toNat) else s.marchFault core a len
  let s := s.marchErrors core a (stop.getD (a + len))
  match stop with
  | none => .next (s.sliceDone core pass detail.toNat)
  | some w =>
    let s := s.raiseFault (faultRec 4 testMasterCode ((s.sliceRegion core w 8).getD 0xFFFF) 0 2 (sliceAddress core w)
      0xFFFFFFFF 0 0 0 0)
    .next (s.sliceDone core false (w / 8))

/-- HEALTH_RECORD_WRITE: the record that is due is written (R364, R366). -/
def execHealthRecordWrite (s : State) : Out := .next (if s.alive then s.writeHealth else s)

/-- TRNG_FAIL (R396). -/
def execTrngFail (s : State) : Out := .next (if s.alive then { s with sec := { s.sec with trngFail := true } } else s)

end Sys2Proof.Machine
end

