-- ==== Sys2Proof/Machine/Boot.lean ====
section
/-! DEFINITION. Input power, the rails, RESET_N, the stages of start-up, and the Ethernet links (R281, R282, R329, R381 to R395, R403,
R412, R413, R418 to R421, R426). -/
namespace Sys2Proof.Machine

/-! ### Input power and rails (R413, R418 to R420) -/

/-- PWR_EN as the module sees it: low while SB_3V3 is absent (R413). -/
def PinState.enabled (p : PinState) : Bool := p.pwrEn && p.sb3v3

/-- The regulators start where the input stage is charged, PWR_EN is high and no trip is latched (R348, R418, R419). -/
def PinState.start (p : PinState) : PinState :=
  if p.enabled && p.stage == .charged && p.inputGood && !p.trip then { p with rails := true } else p

def State.modPins (f : PinState → PinState) (s : State) : State := { s with pins := f s.pins }

/-- INPUT_POWER_ON: S1 mated and the input above 46 V, the stage charges (R418). -/
def execInputPowerOn (s : State) : Out :=
  .next (s.modPins (fun p => { p with s1 := true, inputGood := true, stage := if p.stage == .off then .charging else p.stage }))

/-- INRUSH_END: PWR_EN takes effect (R418). -/
def execInrushEnd (s : State) : Out :=
  .next (s.modPins (fun p => if p.stage == .charging then ({ p with stage := .charged }).start else p))

/-- INPUT_UNDER_VOLTAGE: below 44 V every rail switches off (R418). -/
def execInputUnderVoltage (s : State) : Out :=
  .next (s.railsOff.modPins (fun p => { p with inputGood := false, stage := .off }))

/-- S1_BREAK: the input stage turns off before the blades part (R426). -/
def execS1Break (s : State) : Out :=
  .next (s.railsOff.modPins (fun p => { p with s1 := false, inputGood := false, stage := .off }))

/-- PWR_EN_RISE: a cycle of PWR_EN releases the trip latch; the rails start (R348, R419, R426). -/
def execPwrEnRise (s : State) : Out :=
  if s.pins.pwrEn then .next s
  else .next (s.modPins (fun p => ({ p with pwrEn := true, trip := p.trip && !p.sb3v3 }).start))

/-- PWR_OK: the last rail is in regulation; stage 1 begins if RESET_N is high (R382, R419). -/
def execPwrOk (s : State) : Out :=
  .next (s.modPins (fun p => if p.rails then { p with pwrOk := true } else p))

/-- PWR_EN_FALL (R420). -/
def execPwrEnFall (s : State) : Out := .next (s.railsOff.modPins (fun p => { p with pwrEn := false }))

/-- RAIL_FAULT: as at a fall of PWR_EN, and THERM_TRIP_N stays as it is (R420). -/
def execRailFault (_rail : Fin 9) (s : State) : Out := .next (if s.pins.rails then s.railsOff else s)

/-- SB_3V3_LOSS: PWR_EN counts as low, and the trip latch loses its supply (R413, R426). -/
def execSb3v3Loss (s : State) : Out := .next (s.railsOff.modPins (fun p => { p with sb3v3 := false, trip := false }))

/-- SB_3V3_RETURN: PWR_EN no longer counts as low (R413). -/
def execSb3v3Return (s : State) : Out :=
  if s.pins.sb3v3 then .next s else .next (s.modPins (fun p => ({ p with sb3v3 := true }).start))

/-! ### RESET_N (R383, R412, R421) -/

/-- RESET_N_LOW: every domain stops and every volatile state is lost; the test access port keeps its own (R383, R421). -/
def execResetNLow (s : State) : Out :=
  .next { s.lose { s.pins with resetN := false } with jtag := s.jtag }

/-- RESET_N_RISE latches the straps; with PWR_OK high, start-up begins at stage 1 (R383, R412). -/
def execResetNRise (straps : Straps) (s : State) : Out :=
  .next { s.lose { s.pins with
    resetN := true, claimEn := straps.claimEn, debugEn := straps.debugEn, clkOrigin := straps.clkOrigin, slotId := straps.slotId }
    with jtag := s.jtag }

/-! ### Stages 1 and 2 (R382, R388, R389, R391) -/

/-- A stage of start-up is in progress and has not overrun (R382). -/
def State.inStage (s : State) (n : Nat) : Bool := s.alive && s.boot.stage.toNat == n && !s.boot.overrun

def State.toStage (n : Nat) (s : State) : State := { s with boot := { s.boot with stage := BitVec.ofNat 4 n } }

/-- BOOT_ROM: stage 1 ends with the root on INT; an opened module with DEBUG_EN opens its port (R382, R401). -/
def execBootRom (s : State) : Out :=
  if !s.inStage 1 then .next s
  else .next (({ s with
    clock := { s.clock with rootLocked := true, rootActive := 2 },
    sec := { s.sec with spyholeOpen := s.fuses.identityKill && s.pins.debugEn } }).toStage 2)

/-- A release of the image clears SUSPECT in a new health record (R389). -/
def State.applyRelease (image : Bytes) (s : State) : State :=
  let h := s.healthInUse.getD Health.blank
  if h.suspect && fwReleases image h.generation then
    (s.changeHealth (fun h => { h with
      suspect := false, reason := 0, core := 0xFF, slice := 0xFF, releases := h.releases + 1, timeNs := 0,
      evidence := List.replicate 64 0 })).writeHealth
  else s

/-- The saved configuration (R315, R389). -/
def State.applySaved (s : State) : State :=
  match s.flash.saved with
  | none => s
  | some c => ({ s with cfg := { s.cfg with netCfg := c.netCfg, ipv6Prefix := c.ipv6Prefix } }).setReg 0x0B3 0 c.fcpCfg.toNat 0

/-- Firmware entry: digest and versions, the release, the saved configuration; LOCAL and ETH are monitored from here (R387, R389,
R394). -/
def State.firmwareEntry (image : Bytes) (s : State) : State :=
  let s := s.applyRelease image
  let s := { s with
    test := { s.test with suspect := (s.healthInUse.getD Health.blank).suspect },
    boot := { s.boot with fwDigest := fwDigest image, fwVersion := fwVersion image, fwSvn := fwSvn image } }
  let s := (s.modMon .localRef (fun m => { m with enabled := true })).modMon .eth (fun m => { m with enabled := true })
  s.applySaved.toStage 3

/-- Both straps held at the release of RESET_N force recovery (R391, R412). -/
def State.forcedRecovery (s : State) : Bool := s.pins.claimEn && s.pins.debugEn

/-- Stage 2 fails or is forced aside (R388, R391). -/
def State.stage2Fails (s : State) : Bool := s.forcedRecovery || fwCheck s.fuses.svn s.flash.firmware != 0

/-- FIRMWARE_LOAD: a valid image starts; any other leads to recovery (R388, R391). -/
def execFirmwareLoad (s : State) : Out :=
  if !s.inStage 2 then .next s
  else if s.stage2Fails then .next (s.toStage 15)
  else .next (s.firmwareEntry s.flash.firmware)

/-- RECOVERY: stage 2 fails, or both straps were held (R391). -/
def execRecovery (s : State) : Out := if s.inStage 2 && s.stage2Fails then .next (s.toStage 15) else .next s

/-! ### Stages 3 to 9 (R282, R382, R393 to R395) -/

/-- ROOT_LOCK: the root moves to LOCAL by R337 once READY_LOCAL is set; stage 3 goes on by itself even after its limit (R394). -/
def execRootLock (s : State) : Out :=
  if !(s.alive && s.boot.stage == 3 && s.clock.localMon.ready) then .next s
  else
    let s := { s with
      cfg := { s.cfg with rootSrc := 0 }, boot := { s.boot with overrun := false },
      clock := { s.clock with rootActive := 0, rootLocked := true, clockLost := false, relocking := false } }
    .next ((s.clearCause 6 0).toStage 4)

/-- A stage from 4 to 8 may end: no clock is lost (R406). -/
def State.mayEnd (s : State) (n : Nat) : Bool := s.inStage n && !s.clock.clockLost

/-- The repairs of start-up: no burst of a row that the health record's list names, and no word of a slice's row that it assigns, keeps
a fault of the cell (R232, R237, R366). -/
def State.repairRows (s : State) : State :=
  let h := s.healthInUse.getD Health.blank
  let rows := (h.hbmRows.map (· % 2 ^ 30)).eraseDups
  let s := s.useRows h.spRows
  { s with hbm := { s.hbm with ecc := s.hbm.ecc.filter (fun (b, m) => !(m.hard && rows.contains (rowEntryAt b 0 % 2 ^ 30))) } }

/-- HBM_TRAINING: stage 4 ends; the repairs leave no fault of a cell that the list names (R237, R382). -/
def execHbmTraining (s : State) : Out := if s.mayEnd 4 then .next (s.repairRows.toStage 5) else .next s

/-- POWER_ON_PASS: stage 5 ends whether or not a slice failed; the redundant rows that it assigns serve at once (R232, R360 to R362,
R382, R406). -/
def execPowerOnPass (failed : List (Fin 8 × Fin 40)) (s : State) : Out :=
  if !s.mayEnd 5 then .next s
  else
    let s := s.extendedPass 1 failed
    let s := s.useRows s.healthNow.spRows
    let s := if failed.isEmpty then
        ({ s with test := { s.test with powerOnOk := true } }).changeHealth (fun h => { h with passes := h.passes + 1 })
      else s
    .next (s.toStage 6)

/-- Physical lanes of a port: 0 to 7, and 8 the spare (R261). -/
def spareLane : Nat := 8

/-- A port's STATE and SPARE_FOR with its failed lanes, each of the lanes that it receives on (true) or sends on; a second failed lane,
whichever way it carries, makes the port FAILED (R256, R261, R290). -/
def PortState.withLanes (x : PortState) (failed : List (Bool × Nat)) : PortState :=
  match failed with
  | [] => { x with st := 2, spareFor := 0xF, failed := [] }
  | [l] => if l.2 = spareLane then { x with st := 2, spareFor := 0xF, failed := [l] }
           else { x with st := 3, spareFor := BitVec.ofNat 4 l.2, failed := [l] }
  | _ => { x with st := 4, failed := failed }

/-- Failed lanes of a port that the health record names; an entry gives no direction, and counts for the lanes that the port receives on
(R366, R382; DESIGN CHOICE, log 147). -/
def State.recordedLanes (s : State) (p : Fin 16) : List (Bool × Nat) :=
  ((s.healthInUse.getD Health.blank).lanes.filter (fun e => e % 16 == p.val)).map (fun e => (true, e / 16 % 16))

/-- One port's training (R382, R395). -/
def State.trainPort (s : State) (x : Fin 16 × PortTraining) : State :=
  let (p, t) := x
  if !t.trained then s.modPort p (fun y => { y with st := 1 })
  else
    let s := s.modPort p (fun y => y.withLanes (t.failedLanes.map (fun l => (true, l.val)) ++ s.recordedLanes p).eraseDups)
    if (s.port p).st == 4 then s.event 14 (u8 p.val) [] else s

/-- LINKS_PENDING: a port still waits for its partner (R395). -/
def State.pendingLinks (s : State) : State :=
  { s with boot := { s.boot with linksPending := allPorts.any (fun p => (s.port p).st == 1) } }

def PortState.up (x : PortState) : Bool := x.st == 2 || x.st == 3

/-- Every port that is up sends its rc count and its identity in a control flit, for the measurement of its channel (R282). -/
def PortState.identify (x : PortState) : PortState := if x.up then { x with control := x.control ++ [.identity] } else x

/-- LINK_TRAINING: stage 6 ends (R382, R395). -/
def execLinkTraining (ports : List PortTraining) (s : State) : Out :=
  if !s.mayEnd 6 then .next s
  else
    let s := allPorts.foldl (fun s p => s.trainPort (p, ports.getD p.val ⟨false, []⟩)) s
    .next (s.pendingLinks.toStage 7)

/-- LOCKED is reported in control flits on every port, and with the follow tree locked every port that is up exchanges its identity
(R282, R394). -/
def State.reportLocked (s : State) : State :=
  { s with ports := s.ports.map (fun x => (PortState.identify { x with control := x.control ++ [.locked] })) }

/-- CLOCK_FOLLOW: the origin is locked at once; a follower moves to LINK once its parent is LOCKED and LINK is ready (R394). -/
def execClockFollow (depth : BitVec 6) (s : State) : Out :=
  if !s.mayEnd 7 then .next s
  else if s.links.origin then .next (({ s with links := { s.links with locked := true } }).reportLocked.toStage 8)
  else
    let up := if h : s.links.followPort.toNat < 16 then (s.port ⟨s.links.followPort.toNat, h⟩).lockedIn else false
    if !up || !s.clock.linkMon.ready then .next s
    else .next (({ s with
      cfg := { s.cfg with rootSrc := 1 }, clock := { s.clock with rootActive := 1, rootLocked := true },
      links := { s.links with locked := true, followDepth := depth } }).reportLocked.toStage 8)

/-- UNFOLLOWED: the follower goes on with its root on LOCAL (R394). -/
def execUnfollowed (s : State) : Out :=
  if s.mayEnd 7 && !s.links.origin && !s.links.locked then .next (({ s with boot := { s.boot with unfollowed := true } }).toStage 8)
  else .next s

/-- Excess of a flight time: beyond 5 ns, which are 34 rc, in whole ac at P0 (R3, R260). -/
def excessOf (rc : Nat) : Nat := min 255 (ceilDiv (rc - 34) 8)

/-- A port takes its measurement; an over-long channel carries nothing (R260, R282). -/
def PortState.measured (x : PortState) (m : PortMeasure) : PortState :=
  let e := excessOf m.flightRc.toNat
  let x := { x with
    flightRc := m.flightRc, excess := BitVec.ofNat 8 e, neighbour := m.neighbour.toNat, neighbourPort := m.neighbourPort.toNat,
    neighbourSerial := m.serial, neighbourSlot := m.slotId }
  if 5 < e then { x with st := 5 } else x

/-- A neighbour's identity is the one that the loaded placement names (R284, R290). -/
def State.neighbourMatches (s : State) (p : Fin 16) : Bool :=
  s.image.isSome && (s.placementPort p).used && (s.port p).neighbour == (s.placementPort p).neighbour
  && (s.port p).neighbourPort == (s.placementPort p).port

def State.refreshNeighbours (s : State) : State :=
  allPorts.foldl (fun s p => s.modPort p (fun x => { x with neighbourOk := s.neighbourMatches p })) s

/-- CHANNEL_MEASUREMENT: every port that is up is measured; the cluster wall offset agrees with the parent, whose count in the
present ac is the operand (R282, R283). -/
def execChannelMeasurement (ports : List PortMeasure) (parentWall : U64) (s : State) : Out :=
  if !s.mayEnd 8 then .next s
  else
    let s := allPorts.foldl (fun s p => match ports[p.val]? with
      | some m => s.modPort p (fun x => if x.up then x.measured m else x)
      | none => s) s
    .next { s with links := { s.links with offset := if s.links.origin || !s.links.locked then 0 else parentWall - s.wall } }

/-- READY: stage 9; the fuses follow the running image's SVN (R382, R393, R405). -/
def execReady (ms : U32) (s : State) : Out :=
  if !s.mayEnd 8 then .next s
  else .next (({ s with
    boot := { s.boot with ready := true, readyMs := ms }, fuses := { s.fuses with svn := max s.fuses.svn s.boot.fwSvn } }).toStage 9)

/-- STAGE_OVERRUN: start-up stops where it stands (R382). -/
def execStageOverrun (s : State) : Out :=
  if s.alive && s.boot.stage != 9 && s.boot.stage != 15 then .next { s with boot := { s.boot with overrun := true } } else .next s

/-- PORT_UP: a partner that trained late (R282, R395). -/
def execPortUp (port : Fin 16) (m : PortMeasure) (s : State) : Out :=
  if !s.alive || (s.port port).st != 1 || s.boot.stage.toNat < 7 then .next s
  else
    let lanes := s.recordedLanes port
    let s := s.modPort port (fun x => (x.withLanes lanes).identify.measured m)
    .next s.pendingLinks.refreshNeighbours

/-- LOCKED_REPORT: once FOLLOW_PORT reports the parent LOCKED, LINK is enabled; a parent that loses LOCKED takes a follower in stage 7
back to its start (R394, R406). -/
def execLockedReport (r : LockReport) (s : State) : Out :=
  if !s.alive then .next s else
  let s := s.modPort r.port (fun x => { x with lockedIn := r.locked })
  if s.links.origin || r.port.val != s.links.followPort.toNat then .next s
  else if r.locked then .next (s.modMon .link (fun m => { m with enabled := true }))
  else if s.boot.stage == 7 then .next (s.modMon .link (fun _ => SourceMon.initial))
  else .next s

/-! ### Ethernet links (R329, R334, R391) -/

/-- A port's link may come up: in recovery port 0 only, and not while ETH is failed. -/
def State.linkAllowed (port : Fin 2) (s : State) : Bool :=
  s.alive && !s.clock.ethFailed && (s.boot.stage != 15 || port == 0)

def execEthLinkUp (port : Fin 2) (s : State) : Out :=
  if s.linkAllowed port then .next { s with eth := s.eth.set port { s.eth[port] with link := 1 } } else .next s

/-- ETH_LINK_DOWN: the port's slave clock is locked no more (R297). -/
def execEthLinkDown (port : Fin 2) (s : State) : Out :=
  .next { s with eth := s.eth.set port { s.eth[port] with link := 0, ptpLocked := false, ptpWaits := false } }

end Sys2Proof.Machine
end

