-- ==== Sys2Proof/Machine/Image.lean ====
section
/-! DEFINITION. The image container: header, directory, sections, and what check 3 of a load calls well formed (R57 to R64, R70,
R73, R246, R263, R287, R288, R344, R345, R353, R356, R428). -/
namespace Sys2Proof.Machine

/-- A directory entry with its section's bytes (R58). -/
structure Sec where
  type : Nat
  index : Nat
  offset : Nat
  data : Bytes
deriving DecidableEq, Repr

def dirEntry (b : Bytes) (i : Nat) : Bytes := slice (0x100 + 24 * i) 24 b

def imageSecs (b : Bytes) : List Sec :=
  (List.range (leAt b 0x00E 2)).map (fun i =>
    let e := dirEntry b i
    ⟨leAt e 0 2, leAt e 2 2, leAt e 8 8, slice (leAt e 8 8) (leAt e 16 8) b⟩)

/-- Sections in place order overlap neither one another nor what stands before `free`. A section of length 0 whose OFFSET lies inside the
header, the directory or another section counts as overlapping it (DESIGN CHOICE, log 135). -/
def noOverlap (free : Nat) : List (Nat × Nat) → Bool
  | [] => true
  | (o, n) :: t => decide (free ≤ o) && noOverlap (o + n) t

/-- Insert an extent by its offset. -/
def insertExtent (x : Nat × Nat) : List (Nat × Nat) → List (Nat × Nat)
  | [] => [x]
  | y :: t => if x.1 ≤ y.1 then x :: y :: t else y :: insertExtent x t

def sortExtents (l : List (Nat × Nat)) : List (Nat × Nat) := l.foldr insertExtent []

/-- The directory lies in the image, its reserved fields are 0, and its sections lie apart (R57, R58). -/
def dirOk (b : Bytes) : Bool :=
  let n := leAt b 0x00E 2
  let total := b.length
  decide (1 ≤ n ∧ 0x100 + 24 * n ≤ total)
  && (List.range n).all (fun i =>
    let e := dirEntry b i
    decide (1 ≤ leAt e 0 2 ∧ leAt e 0 2 ≤ 0x0E) && leAt e 4 4 == 0 && decide (leAt e 8 8 + leAt e 16 8 ≤ total))
  && noOverlap (0x100 + 24 * n) (sortExtents ((List.range n).map (fun i => (leAt (dirEntry b i) 8 8, leAt (dirEntry b i) 16 8))))

/-! ### Header (R57) -/

def headerOk (b : Bytes) : Bool :=
  decide (256 ≤ b.length) && leAt b 0 4 == 0x4A585A49 && leAt b 4 2 == 1 && decide (leAt b 6 2 < 16) && zeroAt b 0x009 1
  && zeroAt b 0x094 44 && zeroAt b 0x0E0 32 && (bitAt (leAt b 6 2) 2 || leAt b 0x078 8 == 0)

def imageHeader (b : Bytes) : ImageHeader :=
  let f := leAt b 6 2
  { paired := bitAt f 0, levelB := bitAt f 1, twoPrograms := bitAt f 2, testWindows := bitAt f 3, lc := leAt b 8 1,
    n := leAt b 0x00A 2, position := leAt b 0x00C 2, placementHash := slice 0x010 32 b, manifestDigest := slice 0x030 32 b,
    clusterDigest := slice 0x050 32 b, imageDigest := slice 0x0C0 32 b, stepLen0 := leAt b 0x070 8, stepLen1 := leAt b 0x078 8,
    soakPeriod := leAt b 0x080 4, powerPeak := leAt b 0x084 4, testWindowsMin := leAt b 0x088 4, numericVersion := leAt b 0x08C 4,
    jexazRelease := leAt b 0x090 4 }

/-- The programs that an image holds (R59). -/
def ImageHeader.held (h : ImageHeader) : List Nat := if h.twoPrograms then [0, 1] else [0]
def ImageHeader.stepLen (h : ImageHeader) (p : Nat) : Nat := if p = 0 then h.stepLen0 else h.stepLen1

/-! ### The set of sections (R428) -/

/-- The indexes that a type of section must carry; initial data are free, and check 13 judges their region (R64). -/
def requiredIndexes (h : ImageHeader) (type : Nat) : List Nat :=
  let perProgram := fun (f : Nat → List Nat) => h.held.flatMap f
  match type with
  | 0x01 => perProgram (fun p => (List.range 8).flatMap (fun c => (List.range 7).map (fun u => 64 * p + 8 * c + u)))
  | 0x02 => perProgram (fun p => (List.range 640).map (fun i => 1024 * p + i))
  | 0x03 => perProgram (fun p => (List.range 136).map (fun i => 256 * p + i))
  | 0x04 => perProgram (fun p => (List.range 16).map (fun i => 16 * p + i))
  | 0x07 => h.held
  | 0x0A => if h.testWindows then List.range 8 else []
  | 0x0D => []
  | _ => [0]

def indexesOf (ss : List Sec) (type : Nat) : List Nat := (ss.filter (fun s => s.type == type)).map (·.index)

/-- Every section is there once, and no other (R428). -/
def secSetOk (h : ImageHeader) (ss : List Sec) : Bool :=
  (List.range 0x0F).all (fun t =>
    let have_ := indexesOf ss t
    if t = 0 then have_.isEmpty
    else if t = 0x0D then decide have_.Nodup
    else decide have_.Nodup && have_.length == (requiredIndexes h t).length && have_.all (requiredIndexes h t).contains)

def secData (ss : List Sec) (type index : Nat) : Bytes :=
  match ss.find? (fun s => s.type == type && s.index == index) with
  | some s => s.data
  | none => []

/-! ### Streams (R65, R70) -/

def wordsOf (b : Bytes) : List Word128 := (chunks 16 b).map (fun x => BitVec.ofNat 128 (leNat x))
def hbmWordsOf (b : Bytes) : List U64 := (chunks 8 b).map (fun x => BitVec.ofNat 64 (leNat x))

/-! ### Fabric slot tables (R60) -/

def unitCode (c : Nat) : Bool :=
  decide (c ≤ 0x27) || decide (0x40 ≤ c ∧ c ≤ 0x53) || decide (0x60 ≤ c ∧ c ≤ 0x6F) || [0x70, 0x71, 0x78, 0x79, 0x7A].contains c

/-- One direction of a fabric slot: no reserved code or bit; slots of KIND 4 to 6 name no unit (R60). -/
def fabricHalfOk (x : Nat) : Bool :=
  let kind := field x 60 4
  let src := field x 52 8
  let dst := field x 44 8
  decide (kind ≤ 6) && field x 0 24 == 0
  && (if 4 ≤ kind then src == 0 && dst == 0 else unitCode src && unitCode dst)

def fabricOk (channel : Nat) (b : Bytes) : Bool :=
  let n := leAt b 0 2
  decide (1 ≤ n ∧ n ≤ 8190) && leAt b 2 2 == channel && zeroAt b 4 12 && b.length == 16 + 16 * n
  && (wordsOf (b.drop 16)).all (fun w => fabricHalfOk (w.toNat / 2 ^ 64) && fabricHalfOk (w.toNat % 2 ^ 64))

/-! ### Link slot tables (R263) -/

def linkTable (b : Bytes) : LinkTable := ⟨leAt b 0 2, wordsOf (b.drop 16)⟩
def linkOk (b : Bytes) : Bool :=
  let n := leAt b 0 2
  decide (1 ≤ n ∧ n ≤ 32752) && zeroAt b 2 14 && b.length == 16 + 16 * n

/-! ### Barrier tables (R61, R77, R321) -/

def waitOf (b : Bytes) : Wait := ⟨leAt b 0 2, leAt b 4 4, leAt b 8 4⟩
def takeOf (b : Bytes) : Take := ⟨leAt b 0 1, leAt b 2 2, leAt b 4 2, leAt b 6 2, leAt b 8 4, leAt b 12 2⟩

def barrierRec (b : Bytes) : BarrierRec :=
  let k := leAt b 2 1
  ⟨leAt b 0 2, bitAt k 0, bitAt k 1, bitAt k 2, bitAt k 3, leAt b 3 1, leAt b 8 8,
   (List.range (min 8 (leAt b 4 1))).map (fun i => waitOf (slice (0x010 + 12 * i) 12 b)),
   (List.range (min 16 (leAt b 5 1))).map (fun i => takeOf (slice (0x070 + 16 * i) 16 b))⟩

def takeOk (b : Bytes) : Bool :=
  let t := takeOf b
  decide (t.ring ≤ 63) && zeroAt b 1 1 && zeroAt b 0xE 2 && decide (1 ≤ t.count ∧ t.count ≤ t.slots / 2)
  && t.entryBytes % 64 == 0 && decide (128 ≤ t.entryBytes ∧ 2 ≤ t.slots)

/-- One barrier record (R61). -/
def barrierOk (h : ImageHeader) (p : Nat) (b : Bytes) : Bool :=
  let k := leAt b 2 1
  let w := leAt b 4 1
  let t := leAt b 5 1
  decide (leAt b 0 2 ≤ 4095 ∧ k < 16 ∧ w ≤ 8 ∧ t ≤ 16 ∧ leAt b 8 8 < h.stepLen p) && zeroAt b 6 2
  && (if bitAt k 1 then h.held.contains (leAt b 3 1) else leAt b 3 1 == 0) && (bitAt k 3 || t == 0)
  && (bitAt k 2 == (bitAt k 0 && p == 0))
  && (List.range 8).all (fun i => if i < w then zeroAt b (0x012 + 12 * i) 2 else zeroAt b (0x010 + 12 * i) 12)
  && (List.range 16).all (fun i => if i < t then takeOk (slice (0x070 + 16 * i) 16 b) else zeroAt b (0x070 + 16 * i) 16)

def rising : List Nat → Bool
  | a :: b :: t => decide (a < b) && rising (b :: t)
  | _ => true

def barrierTable (b : Bytes) : List BarrierRec := (chunks 368 (b.drop 16)).map barrierRec
def barrierTableOk (h : ImageHeader) (p : Nat) (b : Bytes) : Bool :=
  let n := leAt b 0 4
  decide (1 ≤ n ∧ n ≤ 4096) && zeroAt b 4 12 && b.length == 16 + 368 * n && (chunks 368 (b.drop 16)).all (barrierOk h p)
  && rising ((barrierTable b).map (·.offset))

/-! ### Regions and counters (R246, R73) -/

def regionOf (b : Bytes) : Region :=
  let f := leAt b 0x0F 1
  { base := leAt b 0 8, size := leAt b 8 4, place := leAt b 0x0C 1, cores := leAt b 0x0D 1, owner := leAt b 0x0E 1,
    check := bitAt f 0, pair := bitAt f 1, shelf := bitAt f 2, ledger := bitAt f 3, perm := leAt b 0x10 4,
    partner := leAt b 0x14 2, checkRegion := leAt b 0x16 2, rowBytes := leAt b 0x18 4, thLog2 := leAt b 0x1C 1,
    small := leAt b 0x1D 1 == 1 }

/-- The 32 bytes of a region entry (R246). -/
def Region.entryBytes (r : Region) : Bytes :=
  le64 r.base ++ le32 r.size ++ u8 r.place ++ u8 r.cores ++ u8 r.owner
  ++ u8 (bit r.check + 2 * bit r.pair + 4 * bit r.shelf + 8 * bit r.ledger) ++ le32 r.perm ++ le16 r.partner
  ++ le16 r.checkRegion ++ le32 r.rowBytes ++ u8 r.thLog2 ++ u8 (bit r.small) ++ le16 0

/-- Reserved bytes and codes of an entry, which check 3 judges (R246). -/
def regionEntryOk (b : Bytes) : Bool :=
  decide (leAt b 0x0C 1 ≤ 4 ∧ leAt b 0x0E 1 ≤ 5 ∧ leAt b 0x0F 1 < 16) && zeroAt b 0x1E 2
  && (List.range 8).all (fun k => !bitAt (leAt b 0x10 4) (4 * k + 3)) && field (leAt b 0x10 4) 24 8 == 0

def regionTableOk (b : Bytes) : Bool :=
  b.length % 32 == 0 && decide (32 ≤ b.length ∧ b.length ≤ 32 * 4096) && (chunks 32 b).all regionEntryOk

structure CounterEntry where
  counter : Nat
  owner : Nat
  initial : Nat
deriving DecidableEq, Repr

def counterTable (b : Bytes) : List CounterEntry := (chunks 8 b).map (fun x => ⟨leAt x 0 2, leAt x 2 1, leAt x 4 4⟩)
def counterTableOk (b : Bytes) : Bool :=
  b.length % 8 == 0 && (chunks 8 b).all (fun x => decide (leAt x 2 1 ≤ 2) && zeroAt x 3 1)

/-! ### Seed and manifest (R62, R63) -/

def seedEntryOf (b : Bytes) : SeedEntry :=
  ⟨leAt b 0 2, leAt b 2 1, leAt b 3 1, leAt b 4 1, leAt b 5 1, toSigned 16 (leAt b 6 2), leAt b 8 4⟩

def seedOf (b : Bytes) : Seed :=
  ⟨leAt b 2 1, leAt b 8 4, leAt b 0x0C 4, leAt b 0x10 8, leAt b 0x18 2, (chunks 16 (b.drop 32)).map seedEntryOf⟩

def seedEntryOk (b : Bytes) : Bool :=
  let e := seedEntryOf b
  decide (1 ≤ e.h ∧ e.h ≤ 16 ∧ e.margin ≤ 31 ∧ e.kind ≤ 1 ∧ e.gxKeep ≤ 39 ∧ -512 ≤ e.seedAnchor ∧ e.seedAnchor ≤ 511)
  && (e.kind == 1 || e.gxKeep == 0) && zeroAt b 0xC 4

def seedOk (b : Bytes) : Bool :=
  let s := seedOf b
  let n := leAt b 4 4
  leAt b 0 2 == 1 && zeroAt b 3 1 && zeroAt b 0x1A 6 && decide (1 ≤ n ∧ n ≤ 65536 ∧ s.u ≤ 24) && b.length == 32 + 16 * n
  && s.workBase % 64 == 0 && s.groupBase % 64 == 0 && s.commitBase % 128 == 0 && (chunks 16 (b.drop 32)).all seedEntryOk
  && rising (s.entries.map (·.anchorId))

def tensorEntryOf (b : Bytes) : TensorEntry :=
  ⟨leAt b 0 4, leAt b 4 4, leAt b 8 4, leAt b 0x0C 1, leAt b 0x0D 1, leAt b 0x0E 1, leAt b 0x10 2, leAt b 0x12 2⟩

def manifestOf (b : Bytes) : Manifest :=
  ⟨bitAt (leAt b 6 2) 0, leAt b 8 4, leAt b 0x30 4, leAt b 0x34 4, leAt b 0x3A 1, leAt b 0x3C 4,
   (List.range (leAt b 0x0C 4)).map (fun i => tensorEntryOf (slice (64 + 32 * i) 32 b))⟩

/-- A freeze schedule entry (R63). -/
def freezeOk (b : Bytes) (o : Nat) : Bool :=
  [1, 2].contains (leAt b (o + 16) 1) && zeroAt b (o + 17) 3 && zeroAt b (o + 28) 4

/-- Where the freeze schedule of a tensor's entry ends: its entries and their bitmaps; 0 without FROZEN (R63). -/
def freezeEnd (b e : Bytes) : Nat :=
  let fo := leAt e 0x14 4
  if bitAt (leAt e 0x0E 1) 4 then
    ((List.range (leAt e 0x18 4)).map (fun k => leAt b (fo + 32 * k + 20) 4 + leAt b (fo + 32 * k + 24) 4)).foldl max (fo + 32 * leAt e 0x18 4)
  else 0

/-- The tiles of a tensor: TW is at least 32 for MX formats, TH a whole number of at least 1, TB a multiple of 64 (R238). -/
def TensorEntry.tilesOk (t : TensorEntry) : Bool :=
  let b := fmtBits t.format
  (!fmtScaled t.format || decide (32 ≤ t.tileWidth)) && decide (1 ≤ t.tileHeight)
  && (if b = 6 then 2048 % t.tileWidth == 0 else 16384 % (t.tileWidth * b) == 0) && t.tileWidth * b % 512 == 0

def tensorOk (b : Bytes) (i : Nat) : Bool :=
  let e := slice (64 + 32 * i) 32 b
  let fo := leAt e 0x14 4
  let fc := leAt e 0x18 4
  decide (leAt e 0x0E 1 < 32 ∧ leAt e 0x0C 1 ≤ 15) && zeroAt e 0x0F 1 && zeroAt e 0x1C 4 && (tensorEntryOf e).tilesOk
  && (if bitAt (leAt e 0x0E 1) 4 then (List.range fc).all (fun k => freezeOk b (fo + 32 * k)) else fo == 0 && fc == 0)

/-- Length of a manifest section: its header and entries, and the freeze schedules and bitmaps behind them (R63, R428; DEDUCED,
log 149). -/
def manifestLength (b : Bytes) : Nat :=
  let n := leAt b 0x0C 4
  ((List.range n).map (fun i => freezeEnd b (slice (64 + 32 * i) 32 b))).foldl max (64 + 32 * n)

def manifestOk (h : ImageHeader) (b : Bytes) : Bool :=
  let n := leAt b 0x0C 4
  leAt b 0 4 == 0x4E4D4654 && leAt b 4 2 == 1 && decide (leAt b 6 2 < 2) && leAt b 8 4 == h.numericVersion
  && leAt b 0x38 2 == 32 && zeroAt b 0x3B 1 && b.length == manifestLength b && (List.range n).all (tensorOk b)
  && rising ((manifestOf b).tensors.map (·.tensorId))

/-! ### Power profile, windows, placement, allowances, initial data (R344, R356, R287, R288, R64) -/

def powerEntryOf (b : Bytes) : PowerEntry := ⟨leAt b 0 8, leAt b 8 1, leAt b 9 1, leAt b 0xA 2, leAt b 0xC 2⟩
def powerOf (b : Bytes) : List PowerEntry := (chunks 16 (b.drop 16)).map powerEntryOf

def powerOk (h : ImageHeader) (b : Bytes) : Bool :=
  let es := powerOf b
  let pts := leAt b 2 1
  leAt b 0 2 == 1 && bitAt pts 0 && decide (pts < 16) && zeroAt b 3 1 && zeroAt b 8 8 && b.length == 16 + 16 * leAt b 4 4
  && (chunks 16 (b.drop 16)).all (fun e => zeroAt e 0xE 2 && h.held.contains (leAt e 8 1) && decide (leAt e 9 1 ≤ 3))
  && h.held.all (fun p => (List.range 4).all (fun pt => !bitAt pts pt ||
      (let os := (es.filter (fun e => e.program == p && e.point == pt)).map (·.offset)
       os.head? == some 0 && rising os)))
  && h.powerPeak == (es.map (·.peakW)).foldl max 0

def windowsOf (b : Bytes) : List Window := (chunks 16 (b.drop 16)).map (fun x => ⟨leAt x 0 8, leAt x 8 4, leAt x 0xC 1⟩)
def windowsOk (h : ImageHeader) (b : Bytes) : Bool :=
  let n := leAt b 0 4
  decide (1 ≤ n ∧ n ≤ 4096) && zeroAt b 4 12 && b.length == 16 + 16 * n
  && (chunks 16 (b.drop 16)).all (fun x => zeroAt x 0xD 3 && h.held.contains (leAt x 0xC 1))

def placementOf (b : Bytes) : Placement :=
  ⟨leAt b 0 2, leAt b 2 2, leAt b 4 1, leAt b 5 1, (List.range 4).map (fun i => leAt b (8 + 2 * i) 2),
   (chunks 64 (b.drop 0x20)).map (fun x => (chunks 4 x).map (fun y => ⟨leAt y 0 2, leAt y 2 1, leAt y 3 1⟩))⟩

def placementOk (b : Bytes) : Bool :=
  let n := leAt b 0 2
  b.length == 0x20 + 64 * n && decide (1 ≤ leAt b 4 1 ∧ leAt b 4 1 ≤ 4) && zeroAt b 6 2 && zeroAt b 0x10 16
  && (if n = 1 then leAt b 5 1 == 0 else decide (1 ≤ leAt b 5 1 ∧ leAt b 5 1 ≤ 32))
  && (chunks 4 (b.drop 0x20)).all (fun y => decide (leAt y 3 1 < 8))

def allowancesOf (b : Bytes) : Allowances :=
  ⟨leAt b 0 4, leAt b 4 4, leAt b 8 4, leAt b 0xC 4, (List.range 16).map (fun p => leAt b (0x10 + p) 1)⟩
def allowancesOk (b : Bytes) : Bool := b.length == 32 && (allowancesOf b).allow.all (fun e => decide (e ≤ 5))

def initOf (s : Sec) : InitData := ⟨s.index, leAt s.data 0 8, s.data.drop 16⟩
def initOk (s : Sec) : Bool :=
  leAt s.data 0 8 % 64 == 0 && leAt s.data 8 8 % 64 == 0 && s.data.length == 16 + leAt s.data 8 8

/-! ### Paired images (R353) -/

def pairedOk (h : ImageHeader) (ss : List Sec) : Bool :=
  h.held.all (fun p => [0, 2, 4, 6].all (fun c => (List.range 7).all (fun u =>
    secData ss 0x01 (64 * p + 8 * c + u) == secData ss 0x01 (64 * p + 8 * (c + 1) + u))))
  && ((chunks 32 (secData ss 0x05 0)).map regionOf).all (fun r =>
      !(r.place == 2 || r.place == 4) || [0, 2, 4, 6].all (fun c => bitAt r.cores c == bitAt r.cores (c + 1)))
  && (!h.testWindows || [0, 2, 4, 6].all (fun c => secData ss 0x0A c == secData ss 0x0A (c + 1)))
  && h.held.all (fun p => (List.range 16).all (fun q => (linkTable (secData ss 0x04 (16 * p + q))).entries.all (fun e =>
      field e.toNat 92 4 == 0 || field e.toNat 89 3 % 2 == 0)))

/-! ### Check 3 (R87, R428) -/

def sectionsOk (h : ImageHeader) (ss : List Sec) : Bool :=
  let get := secData ss
  h.held.all (fun p =>
    (requiredIndexes h 0x01).all (fun i => (get 0x01 i).length % 16 == 0)
    && (requiredIndexes h 0x02).all (fun i => (get 0x02 i).length % 8 == 0)
    && (List.range 136).all (fun c => fabricOk c (get 0x03 (256 * p + c))
        && leAt (get 0x03 (256 * p + c)) 0 2 == leAt (get 0x03 (256 * p)) 0 2)
    && (List.range 16).all (fun q => linkOk (get 0x04 (16 * p + q)))
    && barrierTableOk h p (get 0x07 p))
  && decide ((h.held.flatMap (fun p => (barrierTable (get 0x07 p)).map (·.id))).Nodup)
  && regionTableOk (get 0x05 0) && counterTableOk (get 0x06 0) && seedOk (get 0x08 0) && powerOk h (get 0x09 0)
  && (!h.testWindows || (List.range 8).all (fun c => windowsOk h (get 0x0A c)))
  && placementOk (get 0x0B 0) && allowancesOk (get 0x0C 0) && manifestOk h (get 0x0E 0)
  && (ss.filter (fun s => s.type == 0x0D)).all initOk && (!h.paired || pairedOk h ss)

/-- Load check 3 (R87). -/
def formatOk (b : Bytes) : Bool :=
  headerOk b && dirOk b && secSetOk (imageHeader b) (imageSecs b) && sectionsOk (imageHeader b) (imageSecs b)

def programOf (h : ImageHeader) (ss : List Sec) (p : Nat) : Program :=
  { stepLen := h.stepLen p
    streams := (List.range 64).map (fun i => wordsOf (secData ss 0x01 (64 * p + i)))
    hbm := (List.range 640).map (fun i => hbmWordsOf (secData ss 0x02 (1024 * p + i)))
    fabric := (List.range 136).map (fun i => wordsOf ((secData ss 0x03 (256 * p + i)).drop 16))
    links := (List.range 16).map (fun i => linkTable (secData ss 0x04 (16 * p + i)))
    barriers := barrierTable (secData ss 0x07 p) }

/-- The image that a well-formed byte record holds. -/
def imageOf (b : Bytes) : Image :=
  let h := imageHeader b
  let ss := imageSecs b
  { hdr := h
    programs := h.held.map (programOf h ss)
    seed := seedOf (secData ss 0x08 0)
    points := leAt (secData ss 0x09 0) 2 1
    power := powerOf (secData ss 0x09 0)
    windows := (List.range 8).map (fun c => windowsOf (secData ss 0x0A c))
    placement := placementOf (secData ss 0x0B 0)
    allow := allowancesOf (secData ss 0x0C 0)
    manifest := manifestOf (secData ss 0x0E 0)
    init := (ss.filter (fun s => s.type == 0x0D)).map initOf }

def imageRegions (b : Bytes) : List Region := (chunks 32 (secData (imageSecs b) 0x05 0)).map regionOf
def imageCounters (b : Bytes) : List CounterEntry := counterTable (secData (imageSecs b) 0x06 0)

/-- Check 4: both digests (R57, R63, R87). -/
def digestsOk (b : Bytes) : Bool :=
  let zeroed := slice 0 0x050 b ++ List.replicate 32 0 ++ slice 0x070 0x050 b ++ List.replicate 32 0 ++ b.drop 0x0E0
  sha256 zeroed == slice 0x0C0 32 b && sha256 (secData (imageSecs b) 0x0E 0) == slice 0x030 32 b

end Sys2Proof.Machine
end

