-- ==== Sys2Proof/Machine/Operands.lean ====
section
/-! DEFINITION. The fields of stream words and the form of a row's words: UNIT, CONT, OPCODE and the reserved bits (R65, R67,
R87 check 9). -/
namespace Sys2Proof.Machine

/-- A field of a 128-bit word. -/
def wf (w : Word128) (lo len : Nat) : Nat := field w.toNat lo len

def headUnit (w : Word128) : Nat := wf w 108 4
def headCont (w : Word128) : Nat := wf w 106 2
def headOpcode (w : Word128) : Nat := wf w 96 10
def headDelta (w : Word128) : Nat := wf w 112 16

/-- Continuation word `k`, from 0. -/
def contWord (i : Issue) (k : Nat) : Word128 := i.cont.getD k 0

/-- The words are those of an opcode: UNIT is the stream's, CONT counts the continuation words (R65). -/
def fits (i : Issue) (opcode cont : Nat) (units : List Nat) : Bool :=
  headUnit i.head == i.unit.val && headCont i.head == cont && i.cont.length == cont && headOpcode i.head == opcode
    && units.contains i.unit.val

def anyUnit : List Nat := [0, 1, 2, 3, 4, 5, 6]
def dmaUnits : List Nat := [3, 4, 5, 6]

/-- NOP (R67): no operand bit. -/
def nopWord (i : Issue) : Bool := fits i 0x000 0 anyUnit && wf i.head 0 96 == 0
/-- DELAY (R67). -/
def delayWord (i : Issue) : Bool := fits i 0x001 0 anyUnit && wf i.head 32 64 == 0
/-- SIGNAL, SET and EXPECT (R67): COUNTER [15:0] and a value in [63:32]. -/
def counterWord (op : Nat) (i : Issue) : Bool := fits i op 0 anyUnit && wf i.head 16 16 == 0 && wf i.head 64 32 == 0

/-! ### MOVE and FILL (R243) -/

structure MoveOp where
  src : Nat
  dst : Nat
  len : Nat
  srcView : Nat
  dstView : Nat
  verify : Bool
  srcOff : Nat
  dstOff : Nat
deriving DecidableEq, Repr

def moveOp (i : Issue) : MoveOp :=
  let h := i.head
  let c := contWord i 0
  ⟨wf h 84 12, wf h 72 12, wf h 40 32 * 64, wf h 37 3, wf h 34 3, wf h 33 1 == 1, wf c 64 64, wf c 0 64⟩

/-- MOVE: reserved bits and codes, LEN_64 and offsets (R245). -/
def moveWord (i : Issue) : Bool :=
  let m := moveOp i
  fits i 0x040 1 dmaUnits && wf i.head 0 33 == 0 && m.len != 0 && decide (m.srcView ≤ 5 ∧ m.dstView ≤ 5)
    && m.srcOff % 64 == 0 && m.dstOff % 64 == 0

/-- FILL: SRC_REGION, SRC_VIEW and VERIFY are 0 (R243). -/
def fillWord (i : Issue) : Bool :=
  let m := moveOp i
  fits i 0x041 1 dmaUnits && wf i.head 0 33 == 0 && m.len != 0 && m.src == 0 && m.srcView == 0 && !m.verify
    && decide (m.dstView ≤ 5) && m.dstOff % 64 == 0

/-! ### The matrix array (R112 to R117) -/

/-- Products per cell per ac of an operand format (R115). -/
def opRate (f : Nat) : Nat := if f ≤ 3 then 2 else if f ≤ 6 then 4 else 1

/-- The fields that every gang of a matrix instruction shares. -/
structure MatCfg where
  e : Nat
  p : Nat
  pace : Nat
  fa : Nat
  fb : Nat
  fo : Nat
  keyed : Bool
  ra : Bool
  rb : Bool
  outAdd : Bool
  crc : Bool
  mask : Nat
  maskZero : Bool
deriving DecidableEq, Repr

def matCfg (h : Word128) : MatCfg :=
  ⟨512 / 2 ^ wf h 50 2, opRate (wf h 44 4), 2 ^ wf h 48 2, wf h 44 4, wf h 40 4, wf h 36 4, wf h 34 2 == 1, wf h 32 1 == 1,
   wf h 33 1 == 1, wf h 31 1 == 1, wf h 30 1 == 1, wf h 28 2, wf h 3 1 == 1⟩

/-- A logical tile (R104, R111, R114). -/
structure Tile where
  m : Nat
  n : Nat
  k : Nat
  anchorId : Nat
  use : Nat
  aAddr : Nat
  aStr : Nat
  bAddr : Nat
  bStr : Nat
  cAddr : Nat
  cStr : Nat
  aSc : Nat
  bSc : Nat
  maskAddr : Nat
  kBase : Nat
  mBase : Nat
  nBase : Nat
deriving DecidableEq, Repr

def mmulTile (i : Issue) : Tile :=
  let h := i.head
  let a := contWord i 0
  let b := contWord i 1
  let c := contWord i 2
  { m := wf h 84 12 + 1, n := wf h 72 12 + 1, k := wf h 52 20 + 1, anchorId := wf h 12 16, use := wf h 4 8,
    aAddr := wf a 96 32, aStr := wf a 64 32, bAddr := wf a 32 32, bStr := wf a 0 32, aSc := wf b 96 32, bSc := wf b 64 32,
    cAddr := wf b 32 32, cStr := wf b 0 32, maskAddr := wf c 96 32, kBase := wf c 64 32, mBase := wf c 32 32,
    nBase := wf c 0 32 }

/-- The codes and bits that MMUL and MMUL_PACK share (R113, R115 to R117). -/
def matHead (h : Word128) : Bool :=
  let fa := wf h 44 4
  let fb := wf h 40 4
  let fo := wf h 36 4
  decide (fa ≤ 8 ∧ fb ≤ 8) && opRate fa == opRate fb && [0, 1, 7, 8, 12, 13].contains fo && wf h 48 2 != 3
    && decide (wf h 34 2 ≤ 1) && !(decide (12 ≤ fo) && (wf h 34 2 == 1 || wf h 31 1 == 1)) && wf h 28 2 != 3
    && !(wf h 3 1 == 1 && fo == 13) && wf h 0 3 == 0

/-- MMUL (R112 to R117). -/
def mmulWord (i : Issue) : Bool :=
  let t := mmulTile i
  fits i 0x040 3 [0] && matHead i.head && t.kBase % 32 == 0
    && [t.aAddr, t.aStr, t.bAddr, t.bStr, t.aSc, t.bSc, t.cAddr, t.cStr, t.maskAddr].all (fun x => x % 64 == 0)

def packDesc (i : Issue) : Nat := wf (contWord i 0) 96 32
def packCount (i : Issue) : Nat := wf (contWord i 0) 90 6 + 1

/-- MMUL_PACK (R110, R112 to R117); PACK_COUNT is at most the number of gangs (R96). -/
def packWord (i : Issue) : Bool :=
  fits i 0x041 1 [0] && matHead i.head && wf i.head 50 2 != 0 && wf i.head 52 44 == 0 && wf i.head 4 24 == 0
    && wf (contWord i 0) 0 90 == 0 && packDesc i % 64 == 0 && decide (packCount i ≤ 4 ^ wf i.head 50 2)

/-- A packed descriptor (R111) and whether it is well formed. Addresses and strides that are no multiple of 64 are taken as they stand: no
rule names a fault for them (DESIGN CHOICE, log 138). -/
def descTile (b : Bytes) : Tile × Bool :=
  let u := fun off k => leAt b off k
  let t : Tile :=
    { m := u 0x00 2 + 1, n := u 0x02 2 + 1, k := u 0x04 4 + 1, anchorId := u 0x08 2, use := u 0x0A 1, aAddr := u 0x0C 4,
      aStr := u 0x10 4, bAddr := u 0x14 4, bStr := u 0x18 4, cAddr := u 0x1C 4, cStr := u 0x20 4, aSc := u 0x24 4,
      bSc := u 0x28 4, maskAddr := u 0x2C 4, kBase := u 0x30 4, mBase := u 0x34 4, nBase := u 0x38 4 }
  (t, u 0x0B 1 == 0 && u 0x3C 4 == 0 && decide (t.m ≤ 4096 ∧ t.n ≤ 4096 ∧ t.k ≤ 1048576) && t.kBase % 32 == 0)

/-! ### The vector engine (R208 to R213) -/

/-- The fields of a vector head word (R209). -/
structure VHead where
  desc : Nat
  count : Nat
  fo : Nat
  keyed : Bool
  rate : Nat
  mask : Bool
  maskZero : Bool
  crc : Bool
  anchorId : Nat
  use : Nat
  slot : Bool
  flags : Nat
deriving DecidableEq, Repr

def vHead (h : Word128) : VHead :=
  ⟨wf h 64 32, wf h 40 24, wf h 36 4, wf h 34 2 == 1, 512 / 2 ^ wf h 32 2, wf h 30 2 == 1, wf h 29 1 == 1, wf h 28 1 == 1,
   wf h 12 16, wf h 4 8, wf h 3 1 == 1, wf h 0 3⟩

/-- FLAGS that an opcode uses (R208, R209). -/
def vecFlagMask (op : Nat) : Nat := if op = 0x040 ∨ op = 0x042 then 1 else if op = 0x058 then 7 else 0

/-- A vector head word: CONT 0, no reserved code or bit, COUNT at least 1 (R208, R209, R213). -/
def vecWord (op : Nat) (i : Issue) : Bool :=
  let h := i.head
  fits i op 0 [1] && decide (wf h 34 2 ≤ 1 ∧ wf h 30 2 ≤ 1) && wf h 40 24 != 0 && decide (wf h 0 3 ≤ vecFlagMask op)
    && wf h 64 32 % 64 == 0

/-- The descriptor (R210). -/
structure VDesc where
  x : Nat
  y : Nat
  z : Nat
  out : Nat
  xs : Nat
  ys : Nat
  os : Nat
  maskA : Nat
  idx : Nat
  status : Nat
  rowLen : Nat
  pitch : Nat
  rowBase : Nat
  colBase : Nat
  tensor : Nat
  fx : Nat
  fy : Nat
  fz : Nat
  bY : Nat
  bZ : Nat
  stages : List Nat
  ks : List Nat
  parts : Nat
  pstride : Nat
deriving DecidableEq, Repr

def vDesc (b : Bytes) : VDesc :=
  let u := fun off => leAt b off 4
  let f := leAt b 0x3C 2
  let bc := leAt b 0x3E 1
  { x := u 0x00, y := u 0x04, z := u 0x08, out := u 0x0C, xs := u 0x10, ys := u 0x14, os := u 0x18, maskA := u 0x1C,
    idx := u 0x20, status := u 0x24, rowLen := u 0x28, pitch := u 0x2C, rowBase := u 0x30, colBase := u 0x34,
    tensor := u 0x38, fx := field f 0 4, fy := field f 4 4, fz := field f 8 4, bY := field bc 0 2, bZ := field bc 2 2,
    stages := (List.range 4).map (fun k => u (0x40 + 4 * k)), ks := (List.range 8).map (fun k => u (0x50 + 4 * k)),
    parts := u 0x70, pstride := u 0x74 }

/-- Reserved fields of a descriptor are 0 (R210). -/
def vDescReserved (b : Bytes) : Bool :=
  field (leAt b 0x3C 2) 12 4 == 0 && field (leAt b 0x3E 1) 4 4 == 0 && leAt b 0x3F 1 == 0 && leAt b 0x78 8 == 0

/-- The active stages: those before the first OP 0xFF (R212). -/
def VDesc.active (d : VDesc) : List Nat := d.stages.takeWhile (fun w => w % 256 != 0xFF)

/-! ### The update engine (R178) -/

structure UHead where
  desc : Nat
  count : Nat
  group : Nat
  flags : Nat
deriving DecidableEq, Repr

def uHead (h : Word128) : UHead := ⟨wf h 64 32, wf h 40 24, wf h 28 12, wf h 20 8⟩

/-- FLAGS that an opcode uses (R178). -/
def updFlagMask (op : Nat) : Nat :=
  if op = 0x041 ∨ op = 0x044 ∨ op = 0x047 then 1 else if op = 0x04A then 0x1F else 0

/-- Opcodes whose COUNT is 0 in the table of R178. -/
def updNoCount (op : Nat) : Bool := [0x041, 0x042, 0x044, 0x045, 0x046].contains op

/-- An update-engine head word (R178). -/
def updWord (op : Nat) (i : Issue) : Bool :=
  let u := uHead i.head
  fits i op 0 [2] && wf i.head 0 20 == 0 && u.desc % 64 == 0 && decide (u.flags ≤ updFlagMask op)
    && (!updNoCount op || u.count == 0) && !(op == 0x04A && u.count % 4 != 0)

/-- The UPDATE descriptor (R189). -/
structure UpdDesc where
  q : Nat
  ins : List Nat
  outs : List Nat
  maskA : Nat
  gAnchor : Nat
  maskKind : Nat
  tid : Nat
  rowBase : Nat
  colBase : Nat
  rowLen : Nat
deriving DecidableEq, Repr

/-- BODY, REM, M, MS, SQV and SQVS, in and out, in the order of R189. -/
def updDesc (b : Bytes) : UpdDesc :=
  let u := fun off => leAt b off 4
  { q := u 0, ins := (List.range 6).map (fun k => u (4 + 4 * k)), outs := (List.range 6).map (fun k => u (0x1C + 4 * k)),
    maskA := u 0x34, gAnchor := leAt b 0x38 2, maskKind := leAt b 0x3A 1, tid := u 0x3C, rowBase := u 0x40,
    colBase := u 0x44, rowLen := u 0x48 }

/-! ### Remote operations (R265 to R267) and BARRIER words (R67) -/

structure RemoteOp where
  port : Nat
  slot : Nat
  src : Nat
  srcView : Nat
  verify : Bool
  gx : Bool
  anchorId : Nat
  len64 : Nat
  srcOff : Nat
  dstCore : Nat
  dst : Nat
  dstView : Nat
  dstOff : Nat
  counter : Nat
  sig : Bool
deriving DecidableEq, Repr

def remoteOp (i : Issue) : RemoteOp :=
  let h := i.head
  let c := contWord i 0
  ⟨wf h 91 5, wf h 76 15, wf h 64 12, wf h 61 3, wf h 60 1 == 1, wf h 59 1 == 1, wf h 43 16, wf h 27 16, wf c 64 64,
   wf c 61 3, wf c 49 12, wf c 46 3, wf c 18 28 * 64, wf c 2 16, wf c 1 1 == 1⟩

/-- A remote operation's words (R265 to R267): no reserved code or bit; GET and SIGNAL not with PORT 16; GX on PUT and ADD_I48
only; VERIFY not on SIGNAL. -/
def remoteWord (op : Nat) (i : Issue) : Bool :=
  let r := remoteOp i
  let sig := op == 0x085
  fits i op (if sig then 0 else 1) dmaUnits && wf i.head 0 27 == 0 && decide (r.port ≤ 16 ∧ r.srcView ≤ 5)
    && ((r.len64 == 0) == sig)
    && !(r.port == 16 && (op == 0x081 || sig)) && !(sig && (r.gx || r.verify))
    && !(r.gx && ((op != 0x080 && op != 0x082) || r.len64 % 32 != 0))
    && (if r.port = 16 then r.slot == 0 && decide (r.dstView ≤ 5) && wf (contWord i 0) 0 1 == 0
        else sig || wf (contWord i 0) 0 64 == 0)

/-- BARRIER (R67). -/
def barrierWord (i : Issue) : Bool := fits i 0x00C 0 anyUnit && wf i.head 12 84 == 0

def barrierId (i : Issue) : Nat := wf i.head 0 12

/-- The vector opcodes of R208 and the update opcodes of R178. -/
def vecOpcodes : List Nat :=
  [0x040, 0x041, 0x042, 0x044, 0x048, 0x049, 0x04A, 0x04B, 0x04C, 0x04D, 0x04E, 0x04F, 0x050, 0x051, 0x058, 0x059, 0x060, 0x061, 0x062]
def updOpcodes : List Nat := [0x040, 0x041, 0x042, 0x043, 0x044, 0x045, 0x046, 0x047, 0x048, 0x049, 0x04A]
def remoteOpcodes : List Nat := [0x080, 0x081, 0x082, 0x083, 0x084, 0x085]

/-- A head word with its continuation words is valid in its stream (R87 check 9). -/
def wordOk (i : Issue) : Bool :=
  let op := headOpcode i.head
  if op < 0x040 then
    nopWord i || delayWord i || counterWord 0x008 i || counterWord 0x009 i || counterWord 0x00A i || barrierWord i
  else match i.unit.val with
    | 0 => mmulWord i || packWord i
    | 1 => vecOpcodes.contains op && vecWord op i
    | 2 => updOpcodes.contains op && updWord op i
    | _ => moveWord i || fillWord i || (remoteOpcodes.contains op && remoteWord op i)

/-- A row's meaning, or a refusal where its words are not the row's (R87 check 9). -/
def worded (ok : Bool) (s : State) : Out := if ok then .next s else .refused .malformedWord

end Sys2Proof.Machine
end

