-- ==== Sys2Proof/Machine/Matrix.lean ====
section
/-! DEFINITION. The matrix array: folding, the fold cycle formula, exact dot products and the output stage (chapter 4, R137,
R142 to R147, R154). -/
namespace Sys2Proof.Machine

/-- An output block: column block and row chunk, its rows and columns, the first streamed read of its first K fold, and the
interval of a pass (R104, R107). -/
structure Block where
  nb : Nat
  mb : Nat
  rows : Nat
  cols : Nat
  first : Nat
  step : Nat
deriving DecidableEq, Repr

/-- Latency of a transposing-buffer route (R108). -/
def routeDelay (on : Bool) (pace : Nat) : Nat := if on then 64 * pace + 8 else 0

def MatCfg.ks (c : MatCfg) : Nat := c.e * c.p
def foldsK (c : MatCfg) (t : Tile) : Nat := ceilDiv t.k c.ks

/-- The output blocks in order, from the first streamed read `rd` (R104, R107). -/
def blocksFrom (c : MatCfg) (t : Tile) : Nat → List (Nat × Nat) → List Block
  | _, [] => []
  | rd, (nb, mb) :: rest =>
    let rows := min (2 * c.e) (t.m - mb * 2 * c.e)
    let cols := min c.e (t.n - nb * c.e)
    let step := c.pace * max rows c.e
    ⟨nb, mb, rows, cols, rd, step⟩ :: blocksFrom c t (rd + foldsK c t * step) rest

def tileBlocks (c : MatCfg) (t : Tile) (issue : Nat) : List Block :=
  let rd := issue + c.pace * c.e + routeDelay c.rb c.pace
  blocksFrom c t rd ((List.range (ceilDiv t.n c.e)).flatMap (fun nb =>
    (List.range (ceilDiv t.m (2 * c.e))).map (fun mb => (nb, mb))))

/-- First streamed read of a block's K fold. -/
def Block.fold (b : Block) (kb : Nat) : Nat := b.first + kb * b.step

/-- The ac in which result (row j, column c) of a block is readable (R99, R107). -/
def resultCycle (c : MatCfg) (t : Tile) (b : Block) (j col : Nat) : Nat :=
  b.fold (foldsK c t - 1) + c.pace * j + c.e + col + 8 + routeDelay c.ra c.pace

/-- The instruction's final result: the latest of any block (R107). -/
def finalResult (c : MatCfg) (t : Tile) (bs : List Block) : Nat :=
  (bs.map (fun b => resultCycle c t b (b.rows - 1) (b.cols - 1))).foldl max 0

/-- First streamed read of the last pass, and the ac in which the stream path is free: by the procedure of R107, first + pace × rows,
where R102 says the ac after the last streamed read (they differ for a pace of 2 or 4; DESIGN CHOICE, log 136). -/
def lastPass (c : MatCfg) (t : Tile) (bs : List Block) : Nat × Nat :=
  match bs.getLast? with
  | none => (0, 0)
  | some b => (b.fold (foldsK c t - 1), b.fold (foldsK c t - 1) + c.pace * b.rows)

/-! ### Operands -/

/-- Bytes of a dense row of elements. -/
def rowBytes (fmt count : Nat) : Nat := ceilDiv (count * fmtBits fmt) 8

/-- Bytes between the scales of two rows or columns (R108). -/
def scaleStride (k : Nat) : Nat := roundUp (ceilDiv k 32) 64

/-- Element (m, k) of A (R108). -/
def elemA (c : MatCfg) (t : Tile) (mem : Memory) (m k : Nat) : Val :=
  elemVal c.fa (if c.ra then denseBits mem.via (t.aAddr + k * t.aStr) (fmtBits c.fa) m
    else denseBits mem.via (t.aAddr + m * t.aStr) (fmtBits c.fa) k)

/-- Element (k, n) of B (R108). -/
def elemB (c : MatCfg) (t : Tile) (mem : Memory) (k n : Nat) : Val :=
  elemVal c.fb (if c.rb then denseBits mem.via (t.bAddr + n * t.bStr) (fmtBits c.fb) k
    else denseBits mem.via (t.bAddr + k * t.bStr) (fmtBits c.fb) n)

/-- E8M0 field of a row's or column's group; 127 for formats without scales (R115, R130). -/
def scaleField (fmt base stride : Nat) (mem : Memory) (row g : Nat) : Nat :=
  if fmtScaled fmt then (mem.via (base + row * stride + g)).toNat else 127

/-- Sum of a group's floored products, or none where an element is a NaN or an infinity (R125, R129). -/
def groupSum (lsb : Int) (a b : Nat → Val) : List Nat → Option Int
  | [] => some 0
  | k :: ks =>
    match groupProduct lsb (a k) (b k), groupSum lsb a b ks with
    | some x, some y => some (x + y)
    | _, _ => none

/-- One group of 32 enters the lane (R128 to R130). -/
def addGroup (c : MatCfg) (t : Tile) (anchor : Int) (ma : Memory) (mb : Nat → Memory) (m n : Nat) (l : Lane) (g : Nat) : Lane :=
  let ks := (List.range (min 32 (t.k - 32 * g))).map (32 * g + ·)
  let sa := scaleField c.fa t.aSc (scaleStride t.k) ma m g
  let sb := scaleField c.fb t.bSc (scaleStride t.k) (mb (32 * g)) n g
  let lsb := laneLsb c.fa c.fb
  match groupSum lsb (fun k => elemA c t ma m k) (fun k => elemB c t (mb k) k n) ks with
  | some x =>
    if sa = 0xFF ∨ sb = 0xFF then { l with inv := true }
    else l.addInt (groupContribution lsb ((sa : Int) - 127) ((sb : Int) - 127) anchor x)
  | none => { l with inv := true }

/-- One K fold of a result enters the lane: groups for FP8 and MX, single products for BF16 and FP16 (R93, R130, R131). -/
def addFold (c : MatCfg) (t : Tile) (anchor : Int) (ma : Memory) (mb : Nat → Memory) (m n : Nat) (l : Lane) (kb : Nat) : Lane :=
  let k0 := kb * c.ks
  let len := min c.ks (t.k - k0)
  if c.p = 1 then
    (List.range len).foldl (fun l i => l.addVal anchor (vMul (elemA c t ma m (k0 + i)) (elemB c t (mb (k0 + i)) (k0 + i) n))) l
  else (List.range (ceilDiv len 32)).foldl (fun l i => addGroup c t anchor ma mb m n l (k0 / 32 + i)) l

/-- The ac in which a cell row of a K fold is read in the reload of the fold; a cell row holds p elements of K (R92, R101, R102, R108). -/
def Block.reload (b : Block) (c : MatCfg) (kb row : Nat) : Nat :=
  b.fold kb - c.pace * c.e - routeDelay c.rb c.pace + c.pace * row

/-- The slice as the reload of each cell row of each K fold sees it. -/
def reloadViews (s : State) (core : Fin 8) (c : MatCfg) (t : Tile) (b : Block) : Array Memory :=
  ((List.range (foldsK c t)).flatMap (fun kb => (List.range c.e).map (fun row => s.sliceAsOf core (b.reload c kb row)))).toArray

/-- The lane of a result after its last K fold. Row j of a fold is read in its own ac, B cell row by cell row in the reload (R99,
R101). -/
def dotLane (s : State) (core : Fin 8) (c : MatCfg) (t : Tile) (anchor : Int) (views : Array Memory) (b : Block) (j col : Nat) : Lane :=
  (List.range (foldsK c t)).foldl (fun l kb =>
    let ma := s.sliceAsOf core (b.fold kb + c.pace * j)
    let mb := fun k => views.getD (kb * c.e + (k - kb * c.ks) / c.p) []
    addFold c t anchor ma mb (b.mb * 2 * c.e + j) (b.nb * c.e + col) l kb) Lane.zero

/-! ### Output stage -/

/-- Bytes of an output element (R116). -/
def outBytes (fo : Nat) : Nat := if fo = 12 then 16 else if fo = 13 then 8 else fmtBits fo / 8

/-- The bit of a result in the mask bitmap, read in the ac of issue: set where the result is computed (R118). -/
def unmasked (c : MatCfg) (t : Tile) (mem : Memory) (m n : Nat) : Bool :=
  let idx := if c.mask = 1 then m else (m / 64) * ceilDiv t.n 64 + n / 64
  c.mask == 0 || bitAt (mem.via (t.maskAddr + idx / 8)).toNat (idx % 8)

/-- What leaves for one result: a write, a sum with the destination's i48 or nothing, and what is gathered. -/
inductive Emit where
  | write (data : Bytes)
  | add (q : Int)
  | nothing

/-- The exit of a lane (R116, R127, R142 to R147, R154). -/
def exitResult (s : State) (core : Fin 8) (c : MatCfg) (t : Tile) (anchor : Int) (quantum : Nat) (l : Lane) (m n : Nat) :
    Emit × Gather :=
  if c.fo = 12 then (.write l.record, ⟨0, false, l.inv, false⟩)
  else if c.fo = 13 then
    let (qq, ovf) := l.saturate
    if l.inv then (.nothing, ⟨0, ovf, true, false⟩)
    else
      let (q, o1) := anchoredInt qq
      let (q, o2) := if s.isGradient t.anchorId then quantumBound quantum s.cfg.exchU.toNat q else (q, false)
      (.add q, ⟨bitmapOf qq false, ovf || o1 || o2, false, false⟩)
  else
    let r := if c.keyed then .draw (s.draw (s.tensorId core t.anchorId) (t.mBase + m) (t.nBase + n) t.use) else .nearest
    let e := l.exitFloat anchor c.fo r
    (.write (leBytes (outBytes c.fo) e.bits), e.gather)

/-- Address of an output element (R114). -/
def outAddr (c : MatCfg) (t : Tile) (m n : Nat) : Nat := t.cAddr + m * t.cStr + n * outBytes c.fo

/-- One result: its effect and what it gathers; `pass` is the last pass of its block. A destination that is added to is read 1 ac before
the write (R118, R119, R133, R253). -/
def resultEffect (s : State) (core : Fin 8) (o : Origin) (c : MatCfg) (t : Tile) (views : Array Memory) (b : Block)
    (pass j col : Nat) : List Timed × Gather :=
  let m := b.mb * 2 * c.e + j
  let n := b.nb * c.e + col
  let at_ := resultCycle c t b j col - 1
  let a := outAddr c t m n
  let o := o.along pass j
  let put := fun d => [(⟨at_, false, o, .sp core a .plain 3 d⟩ : Timed)]
  if !unmasked c t (s.sliceNow core) m n then
    (if c.maskZero then put (List.replicate (outBytes c.fo) 0) else [], Gather.none)
  else
    let anchor := s.anchor core t.anchorId
    let l := dotLane s core c t anchor views b j col
    let old := (s.sliceAsOf core (at_ - 1)).viaBytes a (outBytes c.fo)
    let l := if c.outAdd then l.addVal anchor (elemVal c.fo (leNat old)) else l
    match exitResult s core c t anchor (s.quantum core t.anchorId) l m n with
    | (.write d, g) => (put d, g)
    | (.add q, g) => let y := i48Add (i48Of old) q; (put (i48Bytes y.1), g.or ⟨0, y.2, false, false⟩)
    | (.nothing, g) => ([], g)

/-- All results of a tile. -/
def tileResults (s : State) (core : Fin 8) (o : Origin) (c : MatCfg) (t : Tile) (bs : List Block) : List Timed × Gather :=
  let rs := (bs.mapIdx (fun i b =>
    let views := reloadViews s core c t b
    let pass := i * foldsK c t + foldsK c t - 1
    (List.range b.rows).flatMap (fun j => (List.range b.cols).map (fun col => resultEffect s core o c t views b pass j col)))).flatten
  (rs.flatMap (·.1), rs.foldl (fun g r => g.or r.2) Gather.none)

/-- Extents of the rows of an operand. -/
def rowExtents (addr str cnt len : Nat) : List (Nat × Nat) := (List.range cnt).map (fun i => (addr + i * str, len))

def tileWrites (c : MatCfg) (t : Tile) : List (Nat × Nat) := rowExtents t.cAddr t.cStr t.m (t.n * outBytes c.fo)

/-- Extent of a tile's mask bitmap (R118). -/
def maskExtent (c : MatCfg) (t : Tile) : List (Nat × Nat) :=
  match c.mask with
  | 0 => []
  | 1 => [(t.maskAddr, ceilDiv t.m 8)]
  | _ => [(t.maskAddr, ceilDiv (ceilDiv t.m 64 * ceilDiv t.n 64) 8)]

/-- Every access of a tile: operands, scales, mask, a destination that is added to, the destination, the working slot (R108, R118,
R119, R248). -/
def tileAccesses (s : State) (c : MatCfg) (t : Tile) : List Access :=
  [⟨0, if c.ra then rowExtents t.aAddr t.aStr t.k (rowBytes c.fa t.m) else rowExtents t.aAddr t.aStr t.m (rowBytes c.fa t.k)⟩,
   ⟨0, if c.rb then rowExtents t.bAddr t.bStr t.n (rowBytes c.fb t.k) else rowExtents t.bAddr t.bStr t.k (rowBytes c.fb t.n)⟩]
  ++ (if fmtScaled c.fa then [⟨0, rowExtents t.aSc (scaleStride t.k) t.m (ceilDiv t.k 32)⟩] else [])
  ++ (if fmtScaled c.fb then [⟨0, rowExtents t.bSc (scaleStride t.k) t.n (ceilDiv t.k 32)⟩] else [])
  ++ [⟨0, maskExtent c t⟩]
  ++ (if c.outAdd || c.fo = 13 then [⟨0, tileWrites c t⟩] else [])
  ++ [⟨1, tileWrites c t⟩, slotAccess s t.anchorId]

/-- Reads of one K fold of a block: streamed rows with their scales, and cell rows of the reload (R99, R101). The scales of a group of B
are read with the first cell row of the group, of all columns at once (DESIGN CHOICE, log 137). -/
def foldReads (c : MatCfg) (t : Tile) (b : Block) (pass kb : Nat) : List SliceRead :=
  let k0 := kb * c.ks
  let len := min c.ks (t.k - k0)
  let wa := fmtBits c.fa
  let wb := fmtBits c.fb
  let n0 := b.nb * c.e
  (List.range b.rows).flatMap (fun j =>
    let m := b.mb * 2 * c.e + j
    let at_ := b.fold kb + c.pace * j
    (if c.ra then (List.range len).map (fun k => ⟨0, at_, pass, j, t.aAddr + (k0 + k) * t.aStr + m * wa / 8, ceilDiv wa 8⟩)
      else [⟨0, at_, pass, j, t.aAddr + m * t.aStr + k0 * wa / 8, ceilDiv (len * wa) 8⟩])
    ++ (if fmtScaled c.fa then [⟨0, at_, pass, j, t.aSc + m * scaleStride t.k + k0 / 32, ceilDiv len 32⟩] else []))
  ++ (List.range (ceilDiv len c.p)).flatMap (fun row =>
    let at_ := b.reload c kb row
    let k1 := k0 + row * c.p
    let n := min c.p (t.k - k1)
    (if c.rb then (List.range b.cols).map (fun x => ⟨0, at_, pass, 0, t.bAddr + (n0 + x) * t.bStr + k1 * wb / 8, ceilDiv (n * wb) 8⟩)
      else (List.range n).map (fun k => ⟨0, at_, pass, 0, t.bAddr + (k1 + k) * t.bStr + n0 * wb / 8, ceilDiv (b.cols * wb) 8⟩))
    ++ (if fmtScaled c.fb && k1 % 32 == 0 then
          (List.range b.cols).map (fun x => ⟨0, at_, pass, 0, t.bSc + (n0 + x) * scaleStride t.k + k1 / 32, 1⟩)
        else []))

/-- All reads of a tile, each in its ac (R46, R99, R101, R119). -/
def tileReads (s : State) (c : MatCfg) (t : Tile) (bs : List Block) : List SliceRead :=
  (maskExtent c t).map (fun e => ⟨0, s.now, 0, 0, e.1, e.2⟩)
  ++ (bs.mapIdx (fun i b =>
    let f := foldsK c t
    (List.range f).flatMap (fun kb => foldReads c t b (i * f + kb) kb)
    ++ (if c.outAdd || c.fo = 13 then
          (List.range b.rows).flatMap (fun j => (List.range b.cols).map (fun col =>
            ⟨0, resultCycle c t b j col - 2, i * f + f - 1, j, outAddr c t (b.mb * 2 * c.e + j) (b.nb * c.e + col), outBytes c.fo⟩))
        else []))).flatten

/-- The elements of a tile's output, each with the ac of its write (R99, R107). -/
def tileParts (c : MatCfg) (t : Tile) (bs : List Block) : List OutPart :=
  bs.flatMap (fun b => (List.range b.rows).flatMap (fun j => (List.range b.cols).map (fun col =>
    ⟨outAddr c t (b.mb * 2 * c.e + j) (b.nb * c.e + col), outBytes c.fo, resultCycle c t b j col - 1⟩)))

/-- Effects of a tile: results, check entries, the OR into its working slot in the ac after its final result (R119, R137). -/
def tileEffects (s : State) (core : Fin 8) (o : Origin) (c : MatCfg) (t : Tile) : List Timed :=
  let bs := tileBlocks c t s.now
  let (effs, g) := tileResults s core o c t bs
  operandReads s core o (tileReads s c t bs) ++ effs
  ++ (if c.crc then sealOutput s core 0 3 o (tileWrites c t) (tileParts c t bs) effs else [])
  ++ [slotWrite s core (finalResult c t bs + 1) o 3 t.anchorId g]

/-- The array cannot take an instruction: the rules of R97 and R103 on the previous one. -/
def arrayBusy (s : State) (i : Issue) (c : MatCfg) (firstRead : Nat) : Bool :=
  match (s.core i.core).matrix with
  | none => false
  | some p =>
    decide (s.now < p.pathFree)
    && !(p.gang == c.e && p.pace == c.pace && decide (p.lastPassFirst ≤ s.now) && decide (p.pathFree ≤ firstRead))

/-- What a matrix instruction plans: a fault at issue, or the first read of its last pass, the free ac of its path, its last ac and its
effects. -/
inductive MatPlan where
  | fault (r : FaultRec)
  | run (lastFirst free endAc : Nat) (effs : List Timed)

/-- The plan without what the issue rules keep of it. -/
def MatPlan.toPlan : MatPlan → Plan
  | .fault r => .fault r
  | .run _ free endAc effs => .run free endAc effs

/-- A fault at issue in the region check; the record shows pass 0 and row 0 (R120). -/
def matFault (s : State) (o : Origin) (core : Fin 8) (k r op a : Nat) : MatPlan :=
  .fault (accessFault s o k r op 2 (sliceAddress core a))

/-- The region check of all tiles of an instruction, and their effects (R110, R248). The last pass of several tiles is the one whose first
read is latest (DESIGN CHOICE, log 139). -/
def tilesPlan (s : State) (core : Fin 8) (o : Origin) (c : MatCfg) (ts : List Tile) : MatPlan :=
  match s.checkAll 0 core (ts.flatMap (tileAccesses s c)) with
  | some (k, r, op, a) => matFault s o core k r op a
  | none =>
    let ends := ts.map (fun t => lastPass c t (tileBlocks c t s.now))
    let endAc := (ts.map (fun t => finalResult c t (tileBlocks c t s.now) + 1)).foldl max 0
    .run ((ends.map (·.1)).foldl max 0) ((ends.map (·.2)).foldl max 0) endAc (ts.flatMap (tileEffects s core o c))

/-- A matrix instruction issues (R97, R103, R69). -/
def State.issueMatrix (i : Issue) (plan : State → Origin → MatPlan) (s : State) : State :=
  if !s.canIssue i then s else
  let o := s.origin i
  let c := matCfg i.head
  let s' := s.advance i 0
  if arrayBusy s i c (s.now + c.pace * c.e + routeDelay c.rb c.pace) then
    s'.raiseFault (faultRec 7 o.master 0xFFFF 5 0 0 o.instr o.opcode 0 0 0)
  else
    match plan s o with
    | .fault r => s'.raiseFault r
    | .run lastFirst free _ _ =>
      (s'.modCore i.core (fun k =>
        { k with matrix := some ⟨c.e, c.pace, lastFirst, free⟩, busy := k.busy.set 0 free })).launch i s

/-- MMUL: one logical tile on the gang mode named (R104, R112). In a mode with several gangs its tile runs on gang 0
(DEDUCED, log 21). -/
def mmulPlan (i : Issue) (s : State) (o : Origin) : MatPlan := tilesPlan s i.core o (matCfg i.head) [mmulTile i]

/-- MMUL_PACK: the descriptors are read in the ac of issue; a malformed one is a fault and no gang starts (R110, R111). -/
def packPlan (i : Issue) (s : State) (o : Origin) : MatPlan :=
  let n := packCount i
  let base := packDesc i
  match s.checkSlice 0 i.core 0 base (64 * n) with
  | .fail k r => matFault s o i.core k r 0 base
  | .pass _ =>
    let ts := (List.range n).map (fun g => descTile ((s.sliceNow i.core).viaBytes (base + 64 * g) 64))
    match findIdxFrom (fun t => !t.2) 0 ts with
    | some g => .fault (faultRec 7 o.master ((s.sliceRegion i.core (spOffset (base + 64 * g)) 64).getD 0xFFFF) 5 2
        (sliceAddress i.core (base + 64 * g)) o.instr o.opcode 0 0 0)
    | none =>
      match tilesPlan s i.core o (matCfg i.head) (ts.map (·.1)) with
      | .run last free endAc effs => .run last free endAc (operandReads s i.core o [⟨0, s.now, 0, 0, base, 64 * n⟩] ++ effs)
      | p => p

def execMmul (i : Issue) (s : State) : Out := worded (mmulWord i) (s.issueMatrix i (mmulPlan i))
def execMmulPack (i : Issue) (s : State) : Out := worded (packWord i) (s.issueMatrix i (packPlan i))

end Sys2Proof.Machine
end

