-- ==== Sys2Proof/Machine/Tables.lean ====
section
/-! DEFINITION. The tables fixed in silicon, each entry the f32 nearest to the real number that its rule names (R187, R216). -/
namespace Sys2Proof.Machine

/-- et[j], the f32 nearest 2^(j/64) (R216). -/
def etTable : List Nat :=
  [0x3F800000, 0x3F8164D2, 0x3F82CD87, 0x3F843A29, 0x3F85AAC3, 0x3F871F62, 0x3F88980F, 0x3F8A14D5, 0x3F8B95C2, 0x3F8D1ADF, 0x3F8EA43A, 0x3F9031DC, 0x3F91C3D3, 0x3F935A2B, 0x3F94F4F0, 0x3F96942D] ++
  [0x3F9837F0, 0x3F99E046, 0x3F9B8D3A, 0x3F9D3EDA, 0x3F9EF532, 0x3FA0B051, 0x3FA27043, 0x3FA43516, 0x3FA5FED7, 0x3FA7CD94, 0x3FA9A15B, 0x3FAB7A3A, 0x3FAD583F, 0x3FAF3B79, 0x3FB123F6, 0x3FB311C4] ++
  [0x3FB504F3, 0x3FB6FD92, 0x3FB8FBAF, 0x3FBAFF5B, 0x3FBD08A4, 0x3FBF179A, 0x3FC12C4D, 0x3FC346CD, 0x3FC5672A, 0x3FC78D75, 0x3FC9B9BE, 0x3FCBEC15, 0x3FCE248C, 0x3FD06334, 0x3FD2A81E, 0x3FD4F35B] ++
  [0x3FD744FD, 0x3FD99D16, 0x3FDBFBB8, 0x3FDE60F5, 0x3FE0CCDF, 0x3FE33F89, 0x3FE5B907, 0x3FE8396A, 0x3FEAC0C7, 0x3FED4F30, 0x3FEFE4BA, 0x3FF28177, 0x3FF5257D, 0x3FF7D0DF, 0x3FFA83B3, 0x3FFD3E0C]

/-- lt[j], the f32 nearest ln(1 + (j + 0.5)/64) (R216). -/
def ltTable : List Nat :=
  [0x3BFF0153, 0x3CBDC8D8, 0x3D1CF43E, 0x3D5A16EC, 0x3D8B29B7, 0x3DA8D83A, 0x3DC61A2F, 0x3DE2F2A4, 0x3DFF648A, 0x3E0DB957, 0x3E1B8FE1, 0x3E29372F, 0x3E36B07F, 0x3E43FD03, 0x3E511DE1, 0x3E5E1434] ++
  [0x3E6AE10B, 0x3E77856E, 0x3E82012D, 0x3E882C60, 0x3E8E44C6, 0x3E944AD1, 0x3E9A3EED, 0x3EA02184, 0x3EA5F2FD, 0x3EABB3B9, 0x3EB16418, 0x3EB70475, 0x3EBC952B, 0x3EC2168F, 0x3EC788F4, 0x3ECCECAC] ++
  [0x3ED24205, 0x3ED7894A, 0x3EDCC2C5, 0x3EE1EEBD, 0x3EE70D78, 0x3EEC1F39, 0x3EF12441, 0x3EF61CCF, 0x3EFB0920, 0x3EFFE970, 0x3F025EFD, 0x3F04C37A, 0x3F07224C, 0x3F097B8D, 0x3F0BCF56, 0x3F0E1DC1] ++
  [0x3F1066E7, 0x3F12AADE, 0x3F14E9C0, 0x3F1723A2, 0x3F19589A, 0x3F1B88BE, 0x3F1DB422, 0x3F1FDADC, 0x3F21FCFF, 0x3F241A9F, 0x3F2633CD, 0x3F28489E, 0x3F2A5923, 0x3F2C656E, 0x3F2E6D8F, 0x3F307198]

/-- rt[j], the f32 nearest 1/(1 + (j + 0.5)/64) (R216). -/
def rtTable : List Nat :=
  [0x3F7E03F8, 0x3F7A232D, 0x3F76603E, 0x3F72B9D6, 0x3F6F2EB7, 0x3F6BBDB3, 0x3F6865AC, 0x3F652598, 0x3F61FC78, 0x3F5EE95C, 0x3F5BEB62, 0x3F5901B2, 0x3F562B81, 0x3F53680D, 0x3F50B6A0, 0x3F4E168A] ++
  [0x3F4B8728, 0x3F4907DA, 0x3F46980C, 0x3F443730, 0x3F41E4BC, 0x3F3FA030, 0x3F3D6910, 0x3F3B3EE7, 0x3F392144, 0x3F370FBB, 0x3F3509E7, 0x3F330F63, 0x3F311FD4, 0x3F2F3ADE, 0x3F2D602B, 0x3F2B8F6A] ++
  [0x3F29C84A, 0x3F280A81, 0x3F2655C4, 0x3F24A9CF, 0x3F23065E, 0x3F216B31, 0x3F1FD80A, 0x3F1E4CAD, 0x3F1CC8E1, 0x3F1B4C70, 0x3F19D723, 0x3F1868C8, 0x3F17012E, 0x3F15A025, 0x3F144581, 0x3F12F114] ++
  [0x3F11A2B4, 0x3F105A38, 0x3F0F177A, 0x3F0DDA52, 0x3F0CA29C, 0x3F0B7034, 0x3F0A42F8, 0x3F091AC7, 0x3F07F781, 0x3F06D905, 0x3F05BF37, 0x3F04A9FA, 0x3F039930, 0x3F028CC0, 0x3F01848E, 0x3F008081]

/-- cos_t[n], the f32 nearest (1 + cos(πn/256))/2 (R187). -/
def cosTable : List Nat :=
  [0x3F800000, 0x3F7FFD88, 0x3F7FF622, 0x3F7FE9CC, 0x3F7FD888, 0x3F7FC256, 0x3F7FA737, 0x3F7F872C, 0x3F7F6237, 0x3F7F3858, 0x3F7F0992, 0x3F7ED5E6, 0x3F7E9D56, 0x3F7E5FE5, 0x3F7E1D94, 0x3F7DD667] ++
  [0x3F7D8A5F, 0x3F7D3981, 0x3F7CE3CF, 0x3F7C894C, 0x3F7C29FC, 0x3F7BC5E3, 0x3F7B5D04, 0x3F7AEF63, 0x3F7A7D05, 0x3F7A05EF, 0x3F798A24, 0x3F7909A9, 0x3F788484, 0x3F77FABA, 0x3F776C4F, 0x3F76D94A] ++
  [0x3F7641AF, 0x3F75A586, 0x3F7504D3, 0x3F745F9E, 0x3F73B5EC, 0x3F7307C4, 0x3F72552D, 0x3F719E2D, 0x3F70E2CC, 0x3F702311, 0x3F6F5F03, 0x3F6E96AA, 0x3F6DCA0D, 0x3F6CF935, 0x3F6C2429, 0x3F6B4AF2] ++
  [0x3F6A6D99, 0x3F698C24, 0x3F68A69F, 0x3F67BD10, 0x3F66CF81, 0x3F65DDFC, 0x3F64E889, 0x3F63EF33, 0x3F62F202, 0x3F61F100, 0x3F60EC38, 0x3F5FE3B4, 0x3F5ED77D, 0x3F5DC79D, 0x3F5CB421, 0x3F5B9D11] ++
  [0x3F5A827A, 0x3F596465, 0x3F5842DD, 0x3F571DEF, 0x3F55F5A5, 0x3F54CA0A, 0x3F539B2B, 0x3F526912, 0x3F5133CD, 0x3F4FFB65, 0x3F4EBFE9, 0x3F4D8163, 0x3F4C3FE0, 0x3F4AFB6D, 0x3F49B415, 0x3F4869E6] ++
  [0x3F471CED, 0x3F45CD36, 0x3F447ACD, 0x3F4325C1, 0x3F41CE1E, 0x3F4073F2, 0x3F3F174A, 0x3F3DB833, 0x3F3C56BA, 0x3F3AF2EF, 0x3F398CDD, 0x3F382494, 0x3F36BA20, 0x3F354D90, 0x3F33DEF3, 0x3F326E55] ++
  [0x3F30FBC5, 0x3F2F8752, 0x3F2E110A, 0x3F2C98FC, 0x3F2B1F35, 0x3F29A3C5, 0x3F2826B9, 0x3F26A822, 0x3F25280C, 0x3F23A688, 0x3F2223A5, 0x3F209F70, 0x3F1F19F9, 0x3F1D9350, 0x3F1C0B82, 0x3F1A82A0] ++
  [0x3F18F8B8, 0x3F176DDA, 0x3F15E214, 0x3F145577, 0x3F12C810, 0x3F1139F1, 0x3F0FAB27, 0x3F0E1BC3, 0x3F0C8BD3, 0x3F0AFB68, 0x3F096A90, 0x3F07D95C, 0x3F0647D9, 0x3F04B619, 0x3F03242B, 0x3F01921D] ++
  [0x3F000000, 0x3EFCDBC6, 0x3EF9B7AB, 0x3EF693CD, 0x3EF3704D, 0x3EF04D49, 0x3EED2ADF, 0x3EEA0930, 0x3EE6E859, 0x3EE3C87A, 0x3EE0A9B2, 0x3EDD8C1E, 0x3EDA6FDF, 0x3ED75513, 0x3ED43BD7, 0x3ED1244C] ++
  [0x3ECE0E90, 0x3ECAFAC0, 0x3EC7E8FB, 0x3EC4D960, 0x3EC1CC0D, 0x3EBEC120, 0x3EBBB8B6, 0x3EB8B2EF, 0x3EB5AFE7, 0x3EB2AFBD, 0x3EAFB28E, 0x3EACB877, 0x3EA9C196, 0x3EA6CE09, 0x3EA3DDEB, 0x3EA0F15B] ++
  [0x3E9E0875, 0x3E9B2356, 0x3E98421B, 0x3E9564DF, 0x3E928BC0, 0x3E8FB6D9, 0x3E8CE646, 0x3E8A1A23, 0x3E87528B, 0x3E848F9B, 0x3E81D16D, 0x3E7E3038, 0x3E78C786, 0x3E7368FB, 0x3E6E14CB, 0x3E68CB2A] ++
  [0x3E638C4C, 0x3E5E5866, 0x3E592FAB, 0x3E54124E, 0x3E4F0080, 0x3E49FA75, 0x3E45005D, 0x3E40126B, 0x3E3B30CE, 0x3E365BB6, 0x3E319354, 0x3E2CD7D7, 0x3E28296D, 0x3E238844, 0x3E1EF48B, 0x3E1A6E6E] ++
  [0x3E15F61A, 0x3E118BBB, 0x3E0D2F7D, 0x3E08E18A, 0x3E04A20E, 0x3E007132, 0x3DF89E3F, 0x3DF077FE, 0x3DE86FF3, 0x3DE0866C, 0x3DD8BBB7, 0x3DD11021, 0x3DC983F7, 0x3DC21782, 0x3DBACB0C, 0x3DB39EDD] ++
  [0x3DAC933B, 0x3DA5A86C, 0x3D9EDEB5, 0x3D983658, 0x3D91AF97, 0x3D8B4AB3, 0x3D8507EA, 0x3D7DCEF6, 0x3D71D344, 0x3D661D33, 0x3D5AAD38, 0x3D4F83C3, 0x3D44A143, 0x3D3A0623, 0x3D2FB2CC, 0x3D25A7A3] ++
  [0x3D1BE50C, 0x3D126B67, 0x3D093B12, 0x3D005467, 0x3CEF6F7E, 0x3CDECADA, 0x3CCEBB8A, 0x3CBF422A, 0x3CB05F55, 0x3CA2139C, 0x3C945F8C, 0x3C8743AE, 0x3C758104, 0x3C5DAD09, 0x3C470C54, 0x3C319FC5] ++
  [0x3C1D6830, 0x3C0A665C, 0x3BF1360B, 0x3BD00DB6, 0x3BB15502, 0x3B950D1D, 0x3B766E3C, 0x3B47A80A, 0x3B1DC971, 0x3AF1A81A, 0x3AB19298, 0x3A76A9A7, 0x3A1DE1C8, 0x39B1A200, 0x391DE7DF, 0x381DE964] ++
  [0x00000000]

end Sys2Proof.Machine
end

