-- ==== Sys2Proof/Machine/VecNum.lean ====
section
/-! DEFINITION. The arithmetic of the vector engine on single elements: input and output conversion, the transcendentals and
the scale of an MX block (R194, R214 to R216). -/
namespace Sys2Proof.Machine

/-- Input conversion to f32 (R214): element bits and its E8M0 scale field (127 where the format has none). -/
def inputF32 (code bits scale : Nat) : Nat :=
  let v := elemVal code bits
  f32Of (if fmtScaled code then scaledVal v scale else v)

/-- The value times 2^k, exact or rounded once into the subnormals (R216 scale2). -/
def scale2 (x : Nat) (k : Int) : Nat := f32Of ((f32Val x).scale k)

def f32Gt (a b : Nat) : Bool := f32Lt b a

/-- EXP (R216). -/
def f32Exp (x : Nat) : Nat :=
  if (f32Val x).isNan then nanOperand
  else if f32Gt x 0x42B17217 then 0x7F800000
  else if f32Lt x 0xC2D00000 then 0
  else
    let n := f32ToIntRne (f32Mul x 0x42B8AA3B)
    let fn := f32OfInt n
    let r := f32Sub x (f32Mul fn 0x3C317200)
    let r := f32Sub r (f32Mul fn 0x32BFBE8E)
    let j := (n % 64).toNat
    let k := n / 64
    let p := f32Add (f32Mul 0x3E2AAAAB r) 0x3F000000
    let p := f32Mul (f32Add (f32Mul p r) f32One) r
    let e := etTable.getD j 0
    scale2 (f32Add e (f32Mul e p)) k

/-- LOG (R216). -/
def f32Log (x : Nat) : Nat :=
  match f32Val x with
  | .nan _ => nanOperand
  | .inf n => if n then nanOperation else 0x7F800000
  | .fin n m ex =>
    if m = 0 then 0xFF800000
    else if n then nanOperation
    else
      let k := Nat.log2 m
      let e := ex + k
      let j := (m - 2 ^ k) * 64 / 2 ^ k
      let diff := (m : Int) * 128 - (2 ^ k * (129 + 2 * j) : Nat)
      let r := f32Mul (f32Of (Val.ofInt diff (-(k : Int) - 7))) (rtTable.getD j 0)
      let s := f32Add (f32Mul 0xBE800000 r) 0x3EAAAAAB
      let s := f32Add (f32Mul s r) 0xBF000000
      let s := f32Add (f32Mul (f32Mul r r) s) r
      f32Add (f32Mul (f32OfInt e) 0x3F317218) (f32Add (ltTable.getD j 0) s)

def withSignOf (x y : Nat) : Nat := y % 2 ^ 31 + (if x ≥ 2 ^ 31 then 2 ^ 31 else 0)

/-- TANH (R216). -/
def f32Tanh (x : Nat) : Nat :=
  if (f32Val x).isNan then nanOperand else
  let a := f32Abs x
  let y :=
    if f32Lt a 0x3D800000 then
      f32Add a (f32Mul (f32Mul (f32Mul a a) a) (f32Add (f32Mul (f32Mul a a) 0x3E088889) 0xBEAAAAAB))
    else if !f32Lt a 0x41180000 then f32One
    else f32Sub f32One (f32Div 0x40000000 (f32Add (f32Exp (f32Mul 0x40000000 a)) f32One))
  withSignOf x y

/-- SIGMOID (R216). -/
def f32Sigmoid (x : Nat) : Nat :=
  if (f32Val x).isNan then nanOperand
  else if !f32Lt x 0 then f32Div f32One (f32Add f32One (f32Exp (f32Neg x)))
  else let e := f32Exp x; f32Div e (f32Add f32One e)

/-- GELU (R216). -/
def f32Gelu (x : Nat) : Nat :=
  if (f32Val x).isNan then nanOperand
  else if x = 0xFF800000 then 0x80000000
  else
    let c := f32Mul (f32Mul x x) x
    let t := f32Tanh (f32Mul 0x3F4C422A (f32Add x (f32Mul 0x3D372713 c)))
    f32Mul (f32Mul 0x3F000000 x) (f32Add f32One t)

/-- floor(B × 2^32) clamped to 2^32, for DROP (R215). -/
def dropLimit (b : Nat) : Int :=
  match f32Val b with
  | .nan _ => 0
  | .inf n => if n then -1 else 2 ^ 32
  | .fin n m e =>
    let x : Int := if n then -(m : Int) else m
    let sh := e + 32
    min (if sh ≥ 0 then x * 2 ^ sh.toNat else x / (2 ^ (-sh).toNat : Nat)) (2 ^ 32)

/-- Operands that an operation reads: A, and B (R215). -/
def stageArity (op : Nat) : Nat :=
  if op = 0x19 then 0 else if (1 ≤ op ∧ op ≤ 6) ∨ op = 0x11 ∨ op = 0x12 ∨ op = 0x14 ∨ op = 0x18 then 2 else 1

/-- Codes of R215. -/
def stageOpOk (op : Nat) : Bool := decide (op ≤ 0x14) || op == 0x18 || op == 0x19

/-- One stage operation on f32 operands; `u` is the draw of DROP and RAND (R215). -/
def stageOp (op a b u : Nat) : Nat :=
  let nan := decide (1 ≤ stageArity op) && (f32Val a).isNan || decide (2 ≤ stageArity op) && (f32Val b).isNan
  if op = 0x11 then (if f32Gt a b then f32One else 0)
  else if op = 0x12 then (if f32EqNum a b then f32One else 0)
  else if nan then nanOperand
  else match op with
    | 0x00 => a
    | 0x01 => f32Add a b
    | 0x02 => f32Sub a b
    | 0x03 => f32Mul a b
    | 0x04 => f32Div a b
    | 0x05 => f32Max a b
    | 0x06 => f32Min a b
    | 0x07 => f32Neg a
    | 0x08 => f32Abs a
    | 0x09 => f32Sqrt a
    | 0x0A => f32Rsqrt a
    | 0x0B => f32Exp a
    | 0x0C => f32Log a
    | 0x0D => f32Tanh a
    | 0x0E => f32Sigmoid a
    | 0x0F => f32Gelu a
    | 0x10 => f32Mul a (f32Sigmoid a)
    | 0x13 => f32Floor a
    | 0x14 => if (f32Val b).isZero then 0 else a
    | 0x18 => if (u : Int) ≥ dropLimit b then a else 0
    | _ => f32Of (.fin false (u / 256) (-24))

/-! ### Output conversion -/

/-- A value before its one rounding: a NaN with its cause (R149), an infinity, or ±n/d exactly. `plus` marks an exact sum, whose zero is
+0 (R143). -/
inductive Exact where
  | nan (cause : Nat)
  | inf (neg : Bool)
  | frac (neg : Bool) (n d : Nat) (plus : Bool)
deriving DecidableEq, Repr

/-- The exact value of an f32 (R214). -/
def Exact.ofF32 (x : Nat) : Exact :=
  match f32Val x with
  | .nan _ => .nan x
  | .inf n => .inf n
  | .fin n m e => .frac n (dyNum m e) (dyDen e) false

def Exact.isNan : Exact → Bool
  | .nan _ => true
  | _ => false

/-- The exact value that leaves a lane at anchor A, divided by `cnt`, and what is gathered at the exit (R137, R142, R146, R217). -/
def Lane.exact (l : Lane) (a : Int) (cnt : Nat) : Exact × Gather :=
  let (q, ovf) := l.saturate
  if l.inv then (.nan nanInvalid, ⟨0, ovf, true, false⟩) else
  let (neg, n, d) := laneFraction a q cnt
  (.frac neg n d true, ⟨bitmapOf q false, ovf, false, false⟩)

/-- What a conversion stores and the flags that it sets (R214). -/
structure Conv where
  bits : Nat
  sat : Bool
  inv : Bool
deriving DecidableEq, Repr

/-- Nearest-even integer of a value, saturating (R214 I32, U32). -/
def intConv (x : Exact) (lo hi : Int) (w : Nat) : Conv :=
  match x with
  | .nan _ => ⟨0, false, true⟩
  | .inf n => ⟨ofSigned w (if n then lo else hi), true, false⟩
  | .frac neg n d _ =>
    let q := rneOf (n / d, n % d, d)
    let i : Int := if neg then -(q : Int) else q
    if i < lo then ⟨ofSigned w lo, true, false⟩ else if hi < i then ⟨ofSigned w hi, true, false⟩
    else ⟨ofSigned w i, false, false⟩

/-- Conversion of a value into a format without block scales, rounded once (R143, R144, R214). A negative value into U8E5M3 is INV
(R214; of an exact sum DEDUCED, log 27). -/
def Exact.toCode (code : Nat) (r : Rounding) (x : Exact) : Conv :=
  if code = 14 then intConv x (-(2 ^ 31)) (2 ^ 31 - 1) 32
  else if code = 15 then intConv x 0 (2 ^ 32 - 1) 32
  else match fmtOf code, x with
  | _, .nan c => ⟨canonicalNan code c, false, true⟩
  | none, _ => ⟨0, false, false⟩
  | some f, .inf n =>
    if code = 11 && n then ⟨0xFF, false, true⟩
    else if code = 7 ∨ code = 8 ∨ code = 10 then ⟨f.withSign n (f.maxCode + 1), false, false⟩ else ⟨f.withSign n f.maxCode, true, false⟩
  | some f, .frac neg n d plus =>
    if code = 11 && neg && n != 0 then ⟨0xFF, false, true⟩ else
    let (c, sat) := f.roundSat r neg n d
    ⟨if c == 0 && (plus || r != .nearest) then 0 else f.withSign neg c, sat, false⟩

/-- Output conversion of one f32 into a format without block scales (R214). -/
def outConv (code : Nat) (r : Rounding) (x : Nat) : Conv := (Exact.ofF32 x).toCode code r

/-- floor(log2 |x|) of a value; none for 0 and for a NaN, 128 for an infinity. -/
def Exact.exponent : Exact → Option Int
  | .nan _ => none
  | .inf _ => some 128
  | .frac _ n d _ => if n = 0 then none else some (floorLog2 n d)

/-- The scale exponent of a block: none when every element is 0 (R194). -/
def blockExponent (emax : Int) (xs : List Exact) : Option Int :=
  match (xs.filterMap Exact.exponent) with
  | [] => none
  | e :: es => some (min (max (es.foldl max e - emax) (-127)) 127)

/-- One element of a block: x / 2^s rounded and saturated; MXINT8 symmetrically at ±127/64 (R194, R214, R427). -/
def blockElem (code : Nat) (r : Rounding) (s : Int) (x : Exact) : Nat :=
  match x with
  | .nan c => canonicalNan code c
  | .inf n =>
    if code = 9 then (if n then 0x81 else 0x7F)
    else match fmtOf code with
      | some f => f.withSign n f.maxCode
      | none => 0
  | .frac neg n d plus =>
    if code = 9 then
      let (i, rem, den) := scaledDiv n d (6 - s)
      let q := match r with
        | .nearest => rneOf (i, rem, den)
        | .draw u =>
          if rem = 0 then i
          else if neg then (if u < 2 ^ 32 * (den - rem) / den then i else i + 1)
          else (if u < 2 ^ 32 * rem / den then i + 1 else i)
      let q := min q 127
      ofSigned 8 (if neg then -(q : Int) else q)
    else match fmtOf code with
      | none => 0
      | some f =>
        let (c, _) := f.roundSat r neg (dyNum n (-s)) (d * dyDen (-s))
        if c == 0 && (plus || r != .nearest) then 0 else f.withSign neg c

/-- An MX block: its scale byte, its element bits, and whether it contains a NaN. MXFP8 elements have a NaN of their own; a block of the
other formats takes scale 0xFF and elements 0 (R149, R194, R214; the scale of an MXFP8 block with a NaN: DEDUCED, log 143). -/
def mxBlock (code : Nat) (draws : Nat → Rounding) (xs : List Exact) : Nat × List Nat × Bool :=
  let nan := xs.any Exact.isNan
  if nan && !(code == 2 || code == 3) then (0xFF, xs.map (fun _ => 0), true)
  else match blockExponent (fmtEmax code) xs with
    | none => (0, xs.map (fun x => if x.isNan then blockElem code .nearest 0 x else 0), nan)
    | some s => ((s + 127).toNat, xs.mapIdx (fun i x => blockElem code (draws i) s x), nan)

/-- The most negative (or largest) value of a format, for an empty RMAX (RMIN): an infinity where the format has one (R219). -/
def emptyExtreme (code : Nat) (neg : Bool) : Nat :=
  match code with
  | 14 => if neg then 0x80000000 else 0x7FFFFFFF
  | 15 => if neg then 0 else 0xFFFFFFFF
  | 11 => if neg then 0 else 0xFE
  | _ =>
    match fmtOf code with
    | none => 0
    | some f =>
      if code = 1 ∨ code = 7 ∨ code = 8 ∨ code = 10 then f.withSign neg (f.maxCode + 1) else f.withSign neg f.maxCode

end Sys2Proof.Machine
end

