-- ==== Sys2Proof/Machine/Vector.lean ====
section
/-! DEFINITION. The vector engine (chapter 8): streams, timing, the descriptor rules, chains, reductions, SOFTMAX and NORM,
scans, and the moving of elements. -/
namespace Sys2Proof.Machine

/-- An instruction in its ac of issue: the state, the core, the opcode, its fields. -/
structure VEnv where
  s : State
  core : Fin 8
  o : Origin
  op : Nat
  h : VHead
  d : VDesc

def VEnv.rows (v : VEnv) : Nat := v.h.count / v.d.rowLen

/-! ### Timing (R207) -/

/-- Sweeps of an opcode (R208). -/
def VEnv.sweeps (v : VEnv) : Nat :=
  if v.op = 0x041 then 3 else if v.op = 0x042 then (if v.h.flags % 2 = 1 then 3 else 2) else 1

def VEnv.b (v : VEnv) : Nat := ceilDiv v.d.rowLen v.h.rate
def VEnv.dRow (v : VEnv) : Nat := v.sweeps * v.b + 16 * (v.sweeps - 1)

/-- The ac in which element (r, c) of a sweep is read (R207). -/
def VEnv.readAc (v : VEnv) (sweep r c : Nat) : Nat :=
  let t := v.s.now
  if v.op = 0x040 then
    (if v.h.flags % 2 = 1 then t + 1 + r + c else t + 1 + (r * v.d.rowLen + c) / v.h.rate)
  else if v.op = 0x044 then t + 1 + ((r * v.d.rowLen + c) * v.d.parts + (v.d.parts - 1)) / 128
  else if v.op = 0x059 then t + 1 + r / 512 * (v.d.rowLen + 12) + (v.d.rowLen - 1 - c)
  else if v.op = 0x060 ∨ v.op = 0x061 then t + 4 + (r * v.d.rowLen + c) / 2
  else
    let c' := if v.op = 0x058 ∧ v.h.flags / 2 % 2 = 1 then v.d.rowLen - 1 - c else c
    t + 1 + r * v.dRow + sweep * (v.b + 16) + c' / v.h.rate

/-- The ac in which a per-element output is written (R207). -/
def VEnv.writeAc (v : VEnv) (r c : Nat) : Nat :=
  let rd := v.readAc (v.sweeps - 1) r c
  if v.op = 0x059 then rd + 12 else if v.op = 0x060 ∨ v.op = 0x061 then rd + 8 else rd + 24

/-- The ac in which a row's result is written: the last read of the row, + 28 (R207). -/
def VEnv.rowAc (v : VEnv) (r : Nat) : Nat :=
  v.s.now + 1 + r * v.dRow + (v.sweeps - 1) * (v.b + 16) + (v.b - 1) + 28

/-- One result per row, the opcodes of R217. -/
def isReduction (op : Nat) : Bool := decide (0x048 ≤ op ∧ op ≤ 0x051)

/-- The last ac of the busy span, the same whatever a bitmap or an index list holds (R46, R207). -/
def VEnv.lastAc (v : VEnv) : Nat :=
  let r := v.rows - 1
  if isReduction v.op || v.op == 0x062 then v.rowAc r
  else if v.op = 0x059 then v.writeAc r 0
  else if v.op = 0x058 ∨ v.op = 0x041 ∨ v.op = 0x042 then v.rowAc r - 4
  else v.writeAc r (v.d.rowLen - 1)

/-! ### Streams (R205) -/

def VEnv.mem (v : VEnv) (t : Nat) : Memory := v.s.sliceAsOf v.core t

/-- Element `n` of a dense stream with its scale. -/
def VEnv.elem (v : VEnv) (t code addr n scaleAddr scaleIdx : Nat) : Nat :=
  let m := v.mem t
  let sc := if fmtScaled code then (m.via (scaleAddr + scaleIdx)).toNat else 127
  inputF32 code (denseBits m.via addr (fmtBits code) n) sc

/-- Stream X at (r, c), converted (R205, R214). -/
def VEnv.xAt (v : VEnv) (t r c : Nat) : Nat :=
  v.elem t v.d.fx v.d.x (r * v.d.pitch + c) v.d.xs (r * v.d.pitch / 32 + c / 32)

/-- Stream Y: per element, per row or per column (R205, R210). -/
def VEnv.yAt (v : VEnv) (t r c : Nat) : Nat :=
  match v.d.bY with
  | 0 => v.elem t v.d.fy v.d.y (r * v.d.pitch + c) v.d.ys (r * v.d.pitch / 32 + c / 32)
  | 1 => v.elem t v.d.fy v.d.y r v.d.ys (r / 32)
  | _ => v.elem t v.d.fy v.d.y c v.d.ys (c / 32)

/-- Stream Z: one element per row; where BCAST declares it absent its value is a free value (log 28). -/
def VEnv.zAt (v : VEnv) (t r c : Nat) : Nat :=
  if v.d.bZ = 1 then v.elem t v.d.fz v.d.z r 0 0 else Config.absentStream r c % 2 ^ 32

/-- The mask bit of element (r, c): true keeps it (R210). -/
def VEnv.keeps (v : VEnv) (t r c : Nat) : Bool :=
  let i := r * v.d.rowLen + c
  !v.h.mask || bitAt ((v.mem t).via (v.d.maskA + i / 8)).toNat (i % 8)

/-- The segment-start bit of element (r, c); element 0 of a row always starts one (R221). -/
def VEnv.starts (v : VEnv) (t r c : Nat) : Bool :=
  let i := r * v.d.rowLen + c
  c == 0 || bitAt ((v.mem t).via (v.d.idx + i / 8)).toNat (i % 8)

def VEnv.draw (v : VEnv) (r c use : Nat) : Nat := v.s.draw v.d.tensor (v.d.rowBase + r) (v.d.colBase + c) (use % 256)

/-- How the output at (r, c) is rounded (R209, R214). -/
def VEnv.rounding (v : VEnv) (r c : Nat) : Rounding := if v.h.keyed then .draw (v.draw r c v.h.use) else .nearest

/-- Source operand of a stage (R212). -/
def VEnv.source (v : VEnv) (t r c prev src : Nat) : Nat :=
  match src with
  | 0 => v.xAt t r c
  | 1 => v.yAt t r c
  | 2 => v.zAt t r c
  | 3 => prev
  | n => v.d.ks.getD (n - 4) 0

/-- The chain from a value of S (R212, R214, R215). -/
def VEnv.chainFrom (v : VEnv) (t r c : Nat) (prev : Nat) : Nat :=
  v.d.active.foldl (fun prev w =>
    stageOp (w % 256) (v.source t r c prev (field w 8 4)) (v.source t r c prev (field w 12 4)) (v.draw r c (v.h.use + 1))) prev

/-- The chain result of element (r, c); S is X at stage 0 (R212). -/
def VEnv.chain (v : VEnv) (t r c : Nat) : Nat := v.chainFrom t r c (v.xAt t r c)

/-! ### Rules of the descriptor (R206, R210 to R213) -/

/-- Opcodes that apply a chain (R208). -/
def hasStages (op : Nat) : Bool :=
  op == 0x040 || op == 0x041 || op == 0x042 || (decide (0x048 ≤ op ∧ op ≤ 0x051)) || op == 0x058 || op == 0x059

/-- An active stage reads source `k` (R212). -/
def VDesc.reads (d : VDesc) (k : Nat) : Bool :=
  d.active.any (fun w => (decide (1 ≤ stageArity (w % 256)) && field w 8 4 == k)
    || (decide (2 ≤ stageArity (w % 256)) && field w 12 4 == k))

def VEnv.usesX (v : VEnv) : Bool := v.op != 0x040 || v.d.active.isEmpty || v.d.reads 0 || v.d.reads 3
def VEnv.usesY (v : VEnv) : Bool := hasStages v.op && v.d.reads 1
def VEnv.usesZ (v : VEnv) : Bool := hasStages v.op && v.d.reads 2 && v.d.bZ == 1
def VEnv.segmented (v : VEnv) : Bool := v.op == 0x059 || (v.op == 0x058 && v.h.flags / 4 % 2 == 1)

/-- Stage words: no reserved bit, source or operation; after OP 0xFF only OP 0xFF; at most one draw (R212, R213). -/
def stagesOk (d : VDesc) : Bool :=
  d.stages.all (fun w => w / 65536 == 0 && decide (field w 8 4 ≤ 11 ∧ field w 12 4 ≤ 11))
  && (d.stages.dropWhile (fun w => w % 256 != 0xFF)).all (fun w => w % 256 == 0xFF)
  && d.active.all (fun w => stageOpOk (w % 256))
  && decide ((d.active.filter (fun w => w % 256 == 0x18 || w % 256 == 0x19)).length ≤ 1)

/-- Bits per port in the busiest ac, for the streams that an instruction reads and writes, at its RATE (R206); ACCSUM, whose rate is 128
records per ac whatever RATE holds, carries 2,048 bytes (R225; DEDUCED, log 144). -/
def VEnv.portsOk (v : VEnv) : Bool :=
  let r := v.h.rate
  let stream := fun (on : Bool) code bc => if !on then 0 else
    (if bc = 1 then 64 * 8 else r * fmtBits code) + (if fmtScaled code then r / 32 * 8 else 0)
  let p0 := stream v.usesX v.d.fx 0 + stream v.usesZ v.d.fz 1
  let p1 := stream v.usesY v.d.fy v.d.bY + (if v.h.mask then r else 0)
  let w := if isReduction v.op then 0 else stream true v.h.fo 0
  v.op == 0x044 || decide (p0 ≤ 2048 * 8 ∧ p1 ≤ 2048 * 8 ∧ w ≤ 2048 * 8)

/-- Codes allowed in their places (R211, R213, R223, R225). -/
def VEnv.codesOk (v : VEnv) : Bool :=
  let x := v.d.fx
  let o := v.h.fo
  if v.op = 0x060 ∨ v.op = 0x061 then o == x && fmtBits x % 8 == 0
  else if v.op = 0x044 then x == 12 && o != 13
  else (!v.usesX || x != 12) && o != 13 && (o != 12 || v.op == 0x048 || v.op == 0x058)
    && (!v.usesY || v.d.fy != 12) && (!v.usesZ || (v.d.fz != 12 && !fmtScaled v.d.fz))
    && (!(v.op == 0x04C || v.op == 0x04D) || o == 15)

/-- Every rule whose break is a schedule fault at issue (R213). -/
def VEnv.ok (v : VEnv) : Bool :=
  let d := v.d
  let sub := fun code => decide (fmtBits code < 8)
  v.portsOk && v.codesOk && stagesOk d
  && [d.x, d.y, d.z, d.out, d.xs, d.ys, d.os, d.maskA, d.idx, d.status].all (fun a => a % 64 == 0)
  && decide (1 ≤ d.rowLen ∧ d.rowLen ≤ v.h.count) && v.h.count % d.rowLen == 0 && decide (d.rowLen ≤ d.pitch)
  && (!((v.usesX && sub d.fx) || sub v.h.fo || (v.usesY && sub d.fy)) || d.pitch % 32 == 0)
  && d.bY != 3 && decide (d.bZ ≤ 1)
  && (v.op != 0x044 || (decide (1 ≤ d.parts ∧ d.parts ≤ 64) && d.pstride % 64 == 0))
  && !(v.h.keyed && [10, 12, 14, 15].contains v.h.fo)
  && !(v.op == 0x040 && v.h.flags % 2 == 1 && decide (512 < d.rowLen))
  && !(v.op == 0x062 && !v.h.mask)
  && !(decide (2 ≤ v.h.fo ∧ v.h.fo ≤ 6) && d.rowLen % 32 != 0) && !(v.h.fo == 9 && d.rowLen % 32 != 0)

/-! ### What an instruction touches (R248) -/

/-- Extents of a per-element stream. -/
def VEnv.rowsOf (v : VEnv) (addr code : Nat) : List (Nat × Nat) :=
  (List.range v.rows).map (fun r =>
    let b := r * v.d.pitch * fmtBits code
    (addr + b / 8, ceilDiv (b % 8 + v.d.rowLen * fmtBits code) 8))

/-- Extents of the scales of a per-element stream; GATHER and SCATTER move elements without them (R223). -/
def VEnv.scalesOf (v : VEnv) (addr code : Nat) : List (Nat × Nat) :=
  if fmtScaled code && !(v.op == 0x060 || v.op == 0x061) then (List.range v.rows).map (fun r => (addr + r * v.d.pitch / 32, ceilDiv v.d.rowLen 32)) else []

/-- Slice accesses that read, of GATHER and SCATTER only the index list and, for SCATTER, its stream. -/
def VEnv.readExt (v : VEnv) : List (List (Nat × Nat)) :=
  (if v.op = 0x044 then
      (List.range v.d.parts).map (fun p => [(v.d.x + p * v.d.pstride, 16 * v.h.count)])
    else if v.op = 0x060 then []
    else if v.usesX then [v.rowsOf v.d.x v.d.fx, v.scalesOf v.d.xs v.d.fx] else [])
  ++ (if v.usesY then
        (match v.d.bY with
         | 0 => [v.rowsOf v.d.y v.d.fy, v.scalesOf v.d.ys v.d.fy]
         | 1 => [[(v.d.y, ceilDiv (v.rows * fmtBits v.d.fy) 8)]]
         | _ => [[(v.d.y, ceilDiv (v.d.rowLen * fmtBits v.d.fy) 8)]])
      else [])
  ++ (if v.usesZ then [[(v.d.z, ceilDiv (v.rows * fmtBits v.d.fz) 8)]] else [])
  ++ (if v.h.mask then [[(v.d.maskA, ceilDiv v.h.count 8)]] else [])
  ++ (if v.segmented then [[(v.d.idx, ceilDiv v.h.count 8)]]
      else if v.op = 0x060 ∨ v.op = 0x061 then [[(v.d.idx, 4 * v.h.count)]] else [])

/-- Extent of the status bytes, or of the counts of COMPACT, which it always writes (R217, R223, R224). -/
def VEnv.statusExt (v : VEnv) : List (Nat × Nat) :=
  if v.d.status = 0 && v.op != 0x062 then [] else [(v.d.status, if v.op = 0x062 then 4 * v.rows else v.rows)]

/-- Extents of the per-element or per-row output. -/
def VEnv.outExt (v : VEnv) : List (Nat × Nat) :=
  if v.op = 0x061 then []
  else if isReduction v.op then [(v.d.out, ceilDiv (v.rows * fmtBits v.h.fo) 8)]
  else v.rowsOf v.d.out v.h.fo

/-- Extents of the output's scales. -/
def VEnv.outScaleExt (v : VEnv) : List (Nat × Nat) :=
  if isReduction v.op then (if fmtScaled v.h.fo then [(v.d.os, ceilDiv v.rows 32)] else []) else v.scalesOf v.d.os v.h.fo

def VEnv.writeExt (v : VEnv) : List (Nat × Nat) := v.outExt ++ v.outScaleExt

def VEnv.accesses (v : VEnv) : List Access :=
  v.readExt.map (fun e => ⟨0, e⟩) ++ [⟨1, v.outExt⟩, ⟨1, v.outScaleExt⟩, ⟨1, v.statusExt⟩]
  ++ (if v.h.slot then
        slotAccess v.s v.h.anchorId
          :: (if v.op = 0x042 ∧ v.h.flags % 2 = 1 then [slotAccess v.s ((v.h.anchorId + 1) % 65536)] else [])
      else [])

/-- The reads that element (r, c) of a sweep makes, in its ac and through its port, but for the elements that GATHER and SCATTER move; the
record shows the element, the sweep and the row (R205, R207, R253). -/
def VEnv.elementReads (v : VEnv) (sweep r c : Nat) : List SliceRead :=
  let i := r * v.d.rowLen + c
  let t := v.readAc sweep r c
  let rd := fun p a n => (⟨p, t, i, sweep * 2 ^ 24 + r, a, n⟩ : SliceRead)
  let dense := fun p addr code n => rd p (addr + n * fmtBits code / 8) (ceilDiv (fmtBits code) 8)
  let scale := fun p addr code n => if fmtScaled code then [rd p (addr + n) 1] else []
  let e := r * v.d.pitch + c
  let g := r * v.d.pitch / 32 + c / 32
  (if v.op = 0x044 then
      (List.range v.d.parts).map (fun p =>
        ⟨1, v.s.now + 1 + (i * v.d.parts + p) / 128, i, r, v.d.x + p * v.d.pstride + 16 * i, 16⟩)
    else if v.op = 0x060 ∨ v.op = 0x061 ∨ !v.usesX then []
    else dense 1 v.d.x v.d.fx e :: scale 1 v.d.xs v.d.fx g)
  ++ (if v.usesY then
        (match v.d.bY with
         | 0 => dense 2 v.d.y v.d.fy e :: scale 2 v.d.ys v.d.fy g
         | 1 => dense 2 v.d.y v.d.fy r :: scale 2 v.d.ys v.d.fy (r / 32)
         | _ => dense 2 v.d.y v.d.fy c :: scale 2 v.d.ys v.d.fy (c / 32))
      else [])
  ++ (if v.usesZ then [dense 1 v.d.z v.d.fz r] else [])
  ++ (if v.h.mask then [rd 2 (v.d.maskA + i / 8) 1] else [])
  ++ (if v.segmented then [rd 2 (v.d.idx + i / 8) 1]
      else if v.op = 0x060 ∨ v.op = 0x061 then [⟨2, v.s.now + 1 + i / 512, i, r, v.d.idx + 4 * i, 4⟩] else [])

/-- All reads of an instruction, the descriptor's among them (R207, R210). -/
def VEnv.timedReads (v : VEnv) : List SliceRead :=
  ⟨1, v.s.now, 0, 0, v.h.desc, 128⟩
    :: (List.range v.sweeps).flatMap (fun sweep => (List.range v.rows).flatMap (fun r =>
        (List.range v.d.rowLen).flatMap (fun c => v.elementReads sweep r c)))

/-! ### Results -/

/-- What an instruction's results come to: its writes of data, its writes of status bytes and counts, the flags of VEC_STATUS, and what
its slots gather. -/
structure VOut where
  effs : List Timed
  status : List Timed
  flags : VecFlags
  gather : Gather
  gather2 : Gather

def noFlags : VecFlags := ⟨false, false, false, false, false⟩
def VecFlags.or (x y : VecFlags) : VecFlags :=
  ⟨x.clamp || y.clamp, x.fmtSat || y.fmtSat, x.ovf || y.ovf, x.inv || y.inv, x.empty || y.empty⟩
def VOut.none : VOut := ⟨[], [], noFlags, Gather.none, Gather.none⟩
/-- Flags and what a slot gathers, with no write. -/
def VOut.seen (f : VecFlags) (g : Gather) : VOut := { VOut.none with flags := f, gather := g }
def VOut.join (x y : VOut) : VOut :=
  ⟨x.effs ++ y.effs, x.status ++ y.status, x.flags.or y.flags, x.gather.or y.gather, x.gather2.or y.gather2⟩
def joinAll (l : List VOut) : VOut := l.foldl VOut.join VOut.none

/-- One output element before it is stored: left as it is, a value to convert, or finished bits. -/
inductive OVal where
  | skip
  | val (x : Exact)
  | bits (x : Nat)
deriving DecidableEq, Repr

/-- A chain result to convert. -/
def OVal.f32 (x : Nat) : OVal := .val (.ofF32 x)

/-- The value that an element of a block takes part with. -/
def OVal.exact : OVal → Exact
  | .val x => x
  | .bits x => .ofF32 x
  | .skip => .frac false 0 1 true

/-- Write bytes through the vector write port, for element `i`; the record shows the element, the last sweep and the row (R253). -/
def VEnv.put (v : VEnv) (t i a : Nat) (d : Bytes) : Timed :=
  ⟨t, false, v.o.along i ((v.sweeps - 1) * 2 ^ 24 + i / max v.d.rowLen 1), .sp v.core a .plain 4 d⟩

/-- Where a row of outputs goes: its first element and first scale in their streams, its columns, and of each column the ac of its write,
its rounding and its element. -/
structure VRow where
  base : Nat
  scale : Nat
  len : Nat
  at_ : Nat → Nat
  key : Nat → Rounding
  elem : Nat → Nat

/-- A row of per-element outputs (R205, R214). -/
def VEnv.elemRow (v : VEnv) (r : Nat) (at_ : Nat → Nat) : VRow :=
  ⟨r * v.d.pitch, r * v.d.pitch / 32, v.d.rowLen, at_, v.rounding r, fun c => r * v.d.rowLen + c⟩

/-- The results of a reduction, one per row, as one row of outputs; the draw of a result is keyed by its global row and the global column
of column 0 (R217; DEDUCED, log 29). -/
def VEnv.resultRow (v : VEnv) : VRow :=
  ⟨0, 0, v.rows, v.rowAc, fun r => v.rounding r 0, fun r => r * v.d.rowLen⟩

/-- The ac in which column c of a row is written: of a block, with its last column (R205, R207). -/
def VEnv.partAc (v : VEnv) (w : VRow) (c : Nat) : Nat :=
  if fmtScaled v.h.fo then ((List.range (min 32 (w.len - c / 32 * 32))).map (fun i => w.at_ (c / 32 * 32 + i))).foldl max 0 else w.at_ c

/-- Store one element of a format without block scales. -/
def VEnv.storeOne (v : VEnv) (w : VRow) (c : Nat) (x : OVal) : VOut :=
  let n := fmtBits v.h.fo / 8
  let put := fun b => v.put (w.at_ c) (w.elem c) (v.d.out + (w.base + c) * n) (leBytes n b)
  match x with
  | .skip => VOut.none
  | .bits b => { VOut.none with effs := [put b] }
  | .val y =>
    let k := y.toCode v.h.fo (w.key c)
    { VOut.seen ⟨false, k.sat, false, k.inv, false⟩ ⟨0, false, k.inv, k.sat⟩ with effs := [put k.bits] }

/-- Store one MX block of a row, elements 32·j onward; those left as they are keep their stored bits (R214). -/
def VEnv.storeBlock (v : VEnv) (w : VRow) (j : Nat) (xs : List OVal) : VOut :=
  if xs.all (fun x => x == .skip) then VOut.none else
  let n := fmtBits v.h.fo
  let base := v.d.out + (w.base + 32 * j) * n / 8
  let t := v.partAc w (32 * j)
  let (sc, bits, nan) := mxBlock v.h.fo (fun i => w.key (32 * j + i)) (xs.map OVal.exact)
  let m := v.mem t
  let stored := (List.range 32).map (fun i => if xs.getD i .skip == .skip then denseBits m.via base n i else bits.getD i 0)
  let num := (stored.mapIdx (fun i b => b * 2 ^ (i * n))).foldl (· + ·) 0
  { VOut.seen ⟨false, false, false, nan, false⟩ ⟨0, false, nan, false⟩ with
    effs := [v.put t (w.elem (32 * j)) base (leBytes (ceilDiv (n * xs.length) 8) num), v.put t (w.elem (32 * j)) (v.d.os + w.scale + j) (u8 sc)] }

/-- Store a row of outputs from its first column (R205, R214). -/
def VEnv.store (v : VEnv) (w : VRow) (xs : List OVal) : VOut :=
  if fmtScaled v.h.fo then joinAll ((chunks 32 xs).mapIdx (fun j b => v.storeBlock w j b)) else joinAll (xs.mapIdx (v.storeOne w))

/-- Store a row of per-element outputs, each in its ac. -/
def VEnv.storeRow (v : VEnv) (r : Nat) (xs : List OVal) : VOut := v.store (v.elemRow r (v.writeAc r)) xs

/-- What a masked element's output is (R209 MASK_ZERO). -/
def VEnv.maskedOut (v : VEnv) : OVal := if v.h.maskZero then .f32 0 else .skip

/-- Exit of an exact sum of a row: as a record, or as a value that is rounded once into FMT_OUT (R127, R137, R142 to R146, R217). -/
def VEnv.exitSum (v : VEnv) (l : Lane) (cnt : Nat) : OVal × Gather :=
  if v.h.fo = 12 then (.bits (leNat l.record), ⟨0, false, l.inv, false⟩)
  else let (x, g) := l.exact (v.s.anchor v.core v.h.anchorId) cnt; (.val x, g)

/-- The flags of VEC_STATUS that a lane's exit sets (R226). -/
def exitFlags (l : Lane) (g : Gather) : VecFlags := ⟨l.clamp, g.fmtSat, g.ovf, g.inv, false⟩

/-- The unmasked columns of a row and their chain results, as read in a sweep. -/
def VEnv.kept (v : VEnv) (sweep r : Nat) : List (Nat × Nat) :=
  ((List.range v.d.rowLen).filter (fun c => v.keeps (v.readAc sweep r c) r c)).map
    (fun c => (c, v.chain (v.readAc sweep r c) r c))

/-! ### Reductions (R217 to R219) -/

/-- One block of a blocked reduction: pairwise halving of 512 values (R218). -/
def halve (op : Nat → Nat → Nat) : Nat → List Nat → Nat
  | 0, l => l.headD 0
  | k + 1, l => halve op k (List.zipWith op (l.take (2 ^ k)) ((l.drop (2 ^ k)).take (2 ^ k)))

/-- A blocked reduction of a row: its global columns, and of the unmasked ones (global column, value); a masked element is e (R218). -/
def blocked (op : Nat → Nat → Nat) (e : Nat) (cols : List Nat) (xs : List (Nat × Nat)) : Nat :=
  let bs := cols.foldl (fun l c => tabSet (c / 512) () l) []
  bs.foldl (fun acc b =>
    let blk := xs.filter (fun x => x.1 / 512 == b.1)
    op acc (halve op 9 ((List.range 512).map (fun l => tabGet e (512 * b.1 + l) blk)))) e

/-- The exact sum of f32 values at an anchor (R125, R131). -/
def exactSum (a : Int) (xs : List Nat) : Lane := xs.foldl (fun l x => l.addVal a (f32Val x)) Lane.zero

/-- Exact maximum (or minimum) of f32 values; NaN wins (R217). -/
def extreme (mx : Bool) (xs : List Nat) : Nat :=
  match xs with
  | [] => if mx then 0xFF800000 else 0x7F800000
  | y :: ys => ys.foldl (fun a b => if mx then f32Max a b else f32Min a b) (if (f32Val y).isNan then nanOperand else y)

/-- Column of the maximum or minimum, lowest on a tie; the lowest that holds a NaN if there is one (R217). -/
def argExtreme (mx : Bool) (xs : List (Nat × Nat)) : Nat :=
  let nans := xs.filter (fun x => (f32Val x.2).isNan)
  let m := extreme mx (xs.map (·.2))
  ((if nans.isEmpty then xs.filter (fun x => x.2 == m) else nans).map (·.1)).foldl min 0xFFFFFFFF

/-- The result of a row of a reduction: what is stored, its gather, and the lane's flags (R217, R219). -/
def VEnv.reduceRow (v : VEnv) (xs : List (Nat × Nat)) : OVal × Gather × VecFlags :=
  let col := fun c => (v.d.colBase + c) % 2 ^ 32
  let vals := xs.map (·.2)
  let global := xs.map (fun x => (col x.1, x.2))
  let cols := (List.range v.d.rowLen).map col
  let a := v.s.anchor v.core v.h.anchorId
  let nan := vals.any (fun x => (f32Val x).isNan)
  let inv : VecFlags := ⟨false, false, false, nan, false⟩
  if xs.isEmpty then
    let x := match v.op with
      | 0x050 => OVal.f32 f32One
      | 0x04A => if fmtScaled v.h.fo then .f32 0xFF800000 else .bits (emptyExtreme v.h.fo true)
      | 0x051 => if fmtScaled v.h.fo then .f32 0xFF800000 else .bits (emptyExtreme v.h.fo true)
      | 0x04B => if fmtScaled v.h.fo then .f32 0x7F800000 else .bits (emptyExtreme v.h.fo false)
      | 0x04C => .bits 0xFFFFFFFF
      | 0x04D => .bits 0xFFFFFFFF
      | 0x049 => if fmtScaled v.h.fo then .f32 nanEmptyMean else .bits (canonicalNan v.h.fo nanEmptyMean)
      | 0x048 => if v.h.fo = 12 then .bits 0 else .f32 0
      | _ => .f32 0
    (x, Gather.none, ⟨false, false, false, false, true⟩)
  else match v.op with
    | 0x048 =>
      let l := exactSum a vals
      let (x, g) := v.exitSum l 1
      (x, g, exitFlags l g)
    | 0x049 =>
      let l := exactSum a vals
      let (x, g) := v.exitSum l xs.length
      (x, g, exitFlags l g)
    | 0x04A => (.f32 (extreme true vals), Gather.none, inv)
    | 0x04B => (.f32 (extreme false vals), Gather.none, inv)
    | 0x04C => (.bits (argExtreme true global), Gather.none, inv)
    | 0x04D => (.bits (argExtreme false global), Gather.none, inv)
    | 0x04E =>
      let n := (vals.filter (fun x => !(f32Val x).isZero && !(f32Val x).isNan)).length
      (.val (.frac false n 1 true), Gather.none, noFlags)
    | 0x04F => (.f32 (blocked f32Add 0 cols global), Gather.none, noFlags)
    | 0x050 => (.f32 (blocked f32Mul f32One cols global), Gather.none, noFlags)
    | _ =>
      let m := extreme true vals
      if m = 0x7F800000 then (.f32 m, Gather.none, noFlags)
      else
        let s := blocked f32Add 0 cols (global.map (fun x => (x.1, f32Exp (f32Sub x.2 m))))
        (.f32 (f32Add m (f32Log s)), Gather.none, noFlags)

/-- The status byte of a row (R217). -/
def statusByte (f : VecFlags) : Nat := bit f.empty + 2 * bit f.inv + 4 * bit f.ovf + 8 * bit f.fmtSat

/-- Flags that the storing of a row's result sets. -/
def VEnv.storedFlags (v : VEnv) (x : OVal) (r : Nat) : VecFlags :=
  if fmtScaled v.h.fo then { noFlags with inv := x.exact.isNan } else (v.storeOne v.resultRow r x).flags

/-- A reduction: one result per row at OUT_ADDR + r × size, MX results in blocks of 32 rows, and the status bytes (R217). -/
def VEnv.reduce (v : VEnv) : VOut :=
  let rs := (List.range v.rows).map (fun r => v.reduceRow (v.kept 0 r))
  let own := joinAll (rs.map (fun x => VOut.seen x.2.2 x.2.1))
  let status := rs.mapIdx (fun r x =>
    v.put (v.rowAc r) (r * v.d.rowLen) (v.d.status + r) (u8 (statusByte (x.2.2.or (v.storedFlags x.1 r)))))
  ((v.store v.resultRow (rs.map (·.1))).join own).join { VOut.none with status := if v.d.status = 0 then [] else status }

/-! ### SOFTMAX and NORM (R220) -/

/-- SOFTMAX of a row (R220). The exit of its exact sum, at anchor 1, enters the working slot of ANCHOR_ID as any exit does (DEDUCED,
log 140). -/
def VEnv.softmaxRow (v : VEnv) (r : Nat) : VOut :=
  let zs := v.kept 0 r
  let m := extreme true (zs.map (·.2))
  let empty := zs.isEmpty || m == 0xFF800000
  let w := fun (z : Nat) => f32Exp (f32Sub z m)
  let l := exactSum 1 ((v.kept 1 r).map (fun z => w z.2))
  let e := l.exitFloat 1 10 .nearest
  let out := fun c =>
    if !v.keeps (v.readAc 2 r c) r c then v.maskedOut
    else if empty then .f32 0
    else .f32 (f32Div (w (v.chain (v.readAc 2 r c) r c)) e.bits)
  let o := v.storeRow r ((List.range v.d.rowLen).map out)
  let fl := if empty then ⟨false, false, false, false, true⟩ else exitFlags l e.gather
  o.join (VOut.seen fl (if empty then Gather.none else e.gather))

/-- NORM of a row (R220). -/
def VEnv.normRow (v : VEnv) (r : Nat) : VOut :=
  let layer := v.h.flags % 2 == 1
  let sq := if layer then 1 else 0
  let raw := fun sweep => ((List.range v.d.rowLen).filter (fun c => v.keeps (v.readAc sweep r c) r c)).map
    (fun c => v.xAt (v.readAc sweep r c) r c)
  let n := (raw 0).length
  let masked := (List.range v.d.rowLen).map (fun c =>
    if v.keeps (v.readAc (v.sweeps - 1) r c) r c then OVal.skip else v.maskedOut)
  if n = 0 then
    (v.storeRow r masked).join (VOut.seen ⟨false, false, false, false, true⟩ Gather.none)
  else
    let ml := exactSum (v.s.anchor v.core ((v.h.anchorId + 1) % 65536)) (raw 0)
    let me := ml.exitFloat (v.s.anchor v.core ((v.h.anchorId + 1) % 65536)) 10 .nearest n
    let mean := if layer then me.bits else 0
    let ds := (raw sq).map (fun z => let d := f32Sub z mean; f32Mul d d)
    let a := v.s.anchor v.core v.h.anchorId
    let l := exactSum a ds
    let e := l.exitFloat a 10 .nearest n
    let k7 := v.d.ks.getD 7 0
    let scale := f32Rsqrt (f32Add e.bits k7)
    let t := fun c => v.readAc (v.sweeps - 1) r c
    let outs := masked.mapIdx (fun c x =>
      if v.keeps (t c) r c then OVal.f32 (v.chainFrom (t c) r c (f32Mul (f32Sub (v.xAt (t c) r c) mean) scale)) else x)
    let o := v.storeRow r outs
    let fl := if layer then (exitFlags l e.gather).or (exitFlags ml me.gather) else exitFlags l e.gather
    o.join { VOut.seen fl e.gather with gather2 := if layer then me.gather else Gather.none }

/-! ### Scans (R221, R222) -/

/-- SCAN over the columns of a row in order: the lane so far, and each output (R221). -/
def VEnv.scanRow (v : VEnv) (r : Nat) : Lane → List Nat → List (Nat × OVal × Gather × VecFlags)
  | _, [] => []
  | l, c :: cs =>
    let t := v.readAc 0 r c
    let l := if v.h.flags / 4 % 2 = 1 && v.starts t r c then Lane.zero else l
    let keep := v.keeps t r c
    let incl := if keep then l.addVal (v.s.anchor v.core v.h.anchorId) (f32Val (v.chain t r c)) else l
    let shown := if v.h.flags % 2 = 1 then l else incl
    let here := if keep then
        let (x, g) := v.exitSum shown 1
        (c, x, g, exitFlags shown g)
      else (c, v.maskedOut, Gather.none, noFlags)
    here :: v.scanRow r incl cs

def VEnv.scan (v : VEnv) (r : Nat) : VOut :=
  let cols := List.range v.d.rowLen
  let outs := v.scanRow r Lane.zero (if v.h.flags / 2 % 2 = 1 then cols.reverse else cols)
  let xs := cols.map (fun c => ((outs.find? (fun o => o.1 == c)).map (·.2.1)).getD .skip)
  (v.storeRow r xs).join (joinAll (outs.map (fun o => VOut.seen o.2.2.2 o.2.2.1)))

/-- DSCAN of a row, from its last column: y of the column after, none past a segment's end (R222). -/
def VEnv.dscanRow (v : VEnv) (r : Nat) : Option Nat → List Nat → List (Nat × Nat)
  | _, [] => []
  | next, c :: cs =>
    let t := v.readAc 0 r c
    let x := if v.keeps t r c then v.chain t r c else 0
    let y := match next with
      | none => x
      | some n => f32Add x (f32Mul (v.d.ks.getD 0 0) n)
    (c, y) :: v.dscanRow r (if v.starts t r c then none else some y) cs

def VEnv.dscan (v : VEnv) (r : Nat) : VOut :=
  let ys := v.dscanRow r none (List.range v.d.rowLen).reverse
  v.storeRow r ((List.range v.d.rowLen).map (fun c =>
    if v.keeps (v.readAc 0 r c) r c then .f32 (((ys.find? (fun y => y.1 == c)).map (·.2)).getD 0) else v.maskedOut))

/-! ### Moving elements (R223 to R225) -/

/-- Index i of the list, read in its own ac (R207, R223). -/
def VEnv.index (v : VEnv) (i : Nat) : Nat := (v.mem (v.s.now + 1 + i / 512)).viaLe (v.d.idx + 4 * i) 4

/-- Index i is valid: below ROW_LEN, and its element unmasked (R223). -/
def VEnv.indexOk (v : VEnv) (i : Nat) : Bool :=
  decide (v.index i < v.d.rowLen)

/-- Address of element i of the per-element side and of the table side (R205, R223). -/
def VEnv.sideAddr (v : VEnv) (base i : Nat) : Nat :=
  base + ((i / v.d.rowLen) * v.d.pitch + i % v.d.rowLen) * (fmtBits v.d.fx / 8)
def VEnv.tableAddr (v : VEnv) (base i : Nat) : Nat := base + v.index i * (fmtBits v.d.fx / 8)

/-- The elements of GATHER and SCATTER in index order, one per fc: an element reads its source, or its stream, in its read ac and is
written 8 ac later in the same fc. `done` holds the writes so far; a read in the second fc of an ac sees those of its first, and the
memory holds those of earlier acs (R207, R223, R227). -/
def VEnv.moveFrom (v : VEnv) (size : Nat) : List Timed → List Nat → VOut
  | _, [] => VOut.none
  | done, i :: is =>
    let t := v.s.now + 4 + i / 2
    let fc := i % 2 == 1
    let row := i / v.d.rowLen
    let put := fun a d => ({ v.put (t + 8) i a d with half := fc } : Timed)
    let gather := v.op == 0x060
    let keep := v.keeps t row (i % v.d.rowLen)
    let valid := v.indexOk i
    let src := if gather then v.tableAddr v.d.x i else v.sideAddr v.d.x i
    let dst := if gather then v.sideAddr v.d.out i else v.tableAddr v.d.out i
    let status : List Timed := if valid || v.d.status = 0 then [] else [put (v.d.status + row) (u8 1)]
    let moved := keep && valid
    let zero := v.h.maskZero && !moved && (gather || valid)
    let read := if gather && !moved then [] else
      (operandReads v.s v.core v.o [⟨1, t, i, row, src, size⟩]).map (fun x => { x with half := fc })
    let access := if gather then (if moved then some (t, 0, src) else none) else if moved || zero then some (t + 8, 1, dst) else none
    let fault := match access with
      | none => none
      | some (ac, right, a) => match v.s.checkSlice 0 v.core right a size with
        | .pass _ => none
        | .fail k r => some (⟨ac, fc, v.o, .fault { (accessFault v.s v.o k r (accessOp right a) 2 (sliceAddress v.core a)) with
            progressA := i, progressB := row }⟩ : Timed)
    match fault with
    | some f => { VOut.none with effs := (if gather then [] else read) ++ [f], status := status }
    | none =>
      let m := (done.filter (fun x => fc && x.at_ == t && !x.half)).foldl (fun m x => match x.eff with
        | .sp _ a op _ d => spStore op m a d
        | _ => m) (v.mem t)
      let writes := if moved then [put dst (m.viaBytes src size)] else if zero then [put dst (List.replicate size 0)] else []
      ({ VOut.none with effs := read ++ writes, status := status } : VOut).join (v.moveFrom size (done ++ writes ++ status) is)

/-- COMPACT of a row: the unmasked elements from column 0, each 24 ac after its read, and their count (R224). -/
def VEnv.compact (v : VEnv) (r : Nat) : VOut :=
  let cols := (List.range v.d.rowLen).filter (fun c => v.keeps (v.readAc 0 r c) r c)
  let same := v.h.fo == v.d.fx && !fmtScaled v.d.fx
  let w := fmtBits v.d.fx
  let xs := cols.map (fun c =>
    let t := v.readAc 0 r c
    if same then OVal.bits (denseBits (v.mem t).via v.d.x w (r * v.d.pitch + c)) else .f32 (v.xAt t r c))
  let at_ := fun q => v.readAc 0 r (cols.getD (min q (cols.length - 1)) 0) + 24
  (v.store { v.elemRow r at_ with len := cols.length } xs).join
    { VOut.none with status := [v.put (v.rowAc r) (r * v.d.rowLen) (v.d.status + 4 * r) (le32 cols.length)] }

/-- One element of ACCSUM: the records of its parts in one lane, then the exit of RSUM (R225). -/
def VEnv.accsumAt (v : VEnv) (r c : Nat) : OVal × Gather × VecFlags :=
  let i := r * v.d.rowLen + c
  let l := (List.range v.d.parts).foldl (fun l p =>
    let t := v.s.now + 1 + (i * v.d.parts + p) / 128
    l.addLane (Lane.ofRecord ((v.mem t).viaBytes (v.d.x + p * v.d.pstride + 16 * i) 16))) Lane.zero
  if !v.keeps (v.readAc 0 r c) r c then (v.maskedOut, Gather.none, noFlags)
  else
    let (x, g) := v.exitSum l 1
    (x, g, exitFlags l g)

def VEnv.accsum (v : VEnv) (r : Nat) : VOut :=
  let xs := (List.range v.d.rowLen).map (fun c => v.accsumAt r c)
  (v.storeRow r (xs.map (·.1))).join (joinAll (xs.map (fun x => VOut.seen x.2.2 x.2.1)))

/-- VCHAIN of a row (R214). -/
def VEnv.vchain (v : VEnv) (r : Nat) : VOut :=
  v.storeRow r ((List.range v.d.rowLen).map (fun c =>
    let t := v.readAc 0 r c
    if v.keeps t r c then .f32 (v.chain t r c) else v.maskedOut))

/-- All results of an instruction. -/
def VEnv.result (v : VEnv) : VOut :=
  let perRow := fun (f : Nat → VOut) => joinAll ((List.range v.rows).map f)
  match v.op with
  | 0x040 => perRow v.vchain
  | 0x041 => perRow v.softmaxRow
  | 0x042 => perRow v.normRow
  | 0x044 => perRow v.accsum
  | 0x058 => perRow v.scan
  | 0x059 => perRow v.dscan
  | 0x060 => v.moveFrom (fmtBits v.d.fx / 8) [] (List.range v.h.count)
  | 0x061 => v.moveFrom (fmtBits v.d.fx / 8) [] (List.range v.h.count)
  | 0x062 => perRow v.compact
  | _ => v.reduce

/-- The parts of a row of outputs, with its block scales. -/
def VEnv.rowParts (v : VEnv) (w : VRow) : List OutPart :=
  let n := fmtBits v.h.fo
  (List.range w.len).flatMap (fun c =>
    ⟨v.d.out + (w.base + c) * n / 8, ceilDiv n 8, v.partAc w c⟩
      :: (if fmtScaled v.h.fo && c % 32 == 0 then [⟨v.d.os + w.scale + c / 32, 1, v.partAc w c⟩] else []))

/-- An extent joins a rising list of extents that do not touch. -/
def addExtent (e : Nat × Nat) : List (Nat × Nat) → List (Nat × Nat)
  | [] => [e]
  | x :: t =>
    if e.1 + e.2 < x.1 then e :: x :: t
    else if x.1 + x.2 < e.1 then x :: addExtent e t
    else addExtent (min e.1 x.1, max (e.1 + e.2) (x.1 + x.2) - min e.1 x.1) t

/-- What a writer's data covers, and its parts, for its check entries: of SCATTER and COMPACT what their index list and bitmap make them
write, of any other the whole output (R119, R209). -/
def VEnv.written (v : VEnv) (effs : List Timed) : List (Nat × Nat) × List OutPart :=
  if v.op = 0x061 ∨ v.op = 0x062 then
    let ps := effs.filterMap (fun t => match t.eff with | .sp _ a _ _ d => some (⟨a, d.length, t.at_⟩ : OutPart) | _ => none)
    (ps.foldl (fun l p => addExtent (p.addr, p.len) l) [], ps)
  else (v.writeExt, if isReduction v.op then v.rowParts v.resultRow
    else (List.range v.rows).flatMap (fun r => v.rowParts (v.elemRow r (v.writeAc r))))

/-- What a vector instruction plans in its ac of issue: the descriptor's rules, the region check, its results (R210, R213,
R226, R248). -/
def vecPlan (op : Nat) (i : Issue) (s : State) (o : Origin) : Plan :=
  let h := vHead i.head
  match s.checkSlice 0 i.core 0 h.desc 128 with
  | .fail k r => sliceFault s o i.core k r 0 h.desc
  | .pass ri =>
    let b := (s.sliceNow i.core).viaBytes h.desc 128
    let v : VEnv := ⟨s, i.core, o, op, h, vDesc b⟩
    if !vDescReserved b || !v.ok then
      .fault (faultRec 7 o.master ri 5 2 (sliceAddress i.core h.desc) o.instr o.opcode 0 0 0)
    else match s.checkAll 0 i.core v.accesses with
      | some (k, r, op, a) => sliceFault s o i.core k r op a
      | none =>
        let x := v.result
        let last := v.lastAc
        let checks := if h.crc then let w := v.written x.effs; sealOutput s i.core 1 4 o w.1 w.2 x.effs else []
        let slots := if h.slot then
            slotWrite s i.core (last + 2) o 4 h.anchorId x.gather
              :: (if op = 0x042 ∧ h.flags % 2 = 1 then
                    [{ slotWrite s i.core (last + 2) o 4 ((h.anchorId + 1) % 65536) x.gather2 with half := true }] else [])
          else []
        .run (last + 1) (last + 2) (operandReads s i.core o v.timedReads ++ x.effs ++ x.status ++ checks ++ slots
          ++ [⟨last, false, o, .vecDone i.core x.flags⟩])

/-- A row of the vector engine's table (R208). -/
def execVec (op : Nat) (i : Issue) (s : State) : Out := worded (vecWord op i) (s.issueUnit i (vecPlan op i))

def execVchain (i : Issue) (s : State) : Out := execVec 0x040 i s
def execSoftmax (i : Issue) (s : State) : Out := execVec 0x041 i s
def execNorm (i : Issue) (s : State) : Out := execVec 0x042 i s
def execAccsum (i : Issue) (s : State) : Out := execVec 0x044 i s
def execRsum (i : Issue) (s : State) : Out := execVec 0x048 i s
def execRmean (i : Issue) (s : State) : Out := execVec 0x049 i s
def execRmax (i : Issue) (s : State) : Out := execVec 0x04A i s
def execRmin (i : Issue) (s : State) : Out := execVec 0x04B i s
def execRargmax (i : Issue) (s : State) : Out := execVec 0x04C i s
def execRargmin (i : Issue) (s : State) : Out := execVec 0x04D i s
def execRcount (i : Issue) (s : State) : Out := execVec 0x04E i s
def execRsumf (i : Issue) (s : State) : Out := execVec 0x04F i s
def execRprod (i : Issue) (s : State) : Out := execVec 0x050 i s
def execRlse (i : Issue) (s : State) : Out := execVec 0x051 i s
def execScan (i : Issue) (s : State) : Out := execVec 0x058 i s
def execDscan (i : Issue) (s : State) : Out := execVec 0x059 i s
def execGather (i : Issue) (s : State) : Out := execVec 0x060 i s
def execScatter (i : Issue) (s : State) : Out := execVec 0x061 i s
def execCompact (i : Issue) (s : State) : Out := execVec 0x062 i s

end Sys2Proof.Machine
end

