-- ==== Sys2Proof/Machine/Load.lean ====
section
/-! DEFINITION. The load checks 5 to 15 and what an accepted load leaves (R57 to R64, R69 to R78, R87, R140, R234 to R236, R240,
R246, R262 to R268, R286, R321, R344, R345, R356 to R358, R362, R430). -/
namespace Sys2Proof.Machine

/-! ### Check 9: stream words, and their busy spans (R65 to R69, R97, R103, R179, R244, R268) -/

/-- A head word of a stream with the offset in the step at which it issues. -/
structure StreamWord where
  offset : Nat
  issue : Issue
deriving DecidableEq, Repr

/-- The words of a stream with their issue offsets; none where a word is invalid (R65 to R67, R87 check 9). -/
def walkWords (core : Fin 8) (unit : Fin 7) : Nat → Bool → Nat → List Word128 → Option (List StreamWord)
  | 0, _, _, _ => some []
  | _ + 1, _, _, [] => some []
  | fuel + 1, first, base, w :: ws =>
    let k := headCont w
    let i : Issue := ⟨core, unit, w, ws.take k⟩
    let t := base + headDelta w
    if (!first && headDelta w == 0) || decide (ws.length < k) || !wordOk i then none
    else
      match walkWords core unit fuel false (t + (if headOpcode w = 1 then wf w 0 32 else 0)) (ws.drop k) with
      | none => none
      | some l => some (⟨t, i⟩ :: l)

/-- Offset of an update-engine instruction's last write (R179). -/
def updEnd (op t n : Nat) : Nat :=
  match op with
  | 0x040 => t + ceilDiv n 256 + 12
  | 0x041 => t + 4
  | 0x042 => t + 40
  | 0x043 => t + ceilDiv n 256 + 48
  | 0x044 => t + 40
  | 0x045 => t + 160
  | 0x046 => t + 8200
  | 0x047 => t + ceilDiv n 256 + 16
  | 0x048 => t + 34 * n + 8
  | 0x049 => t + n + 1
  | _ => t + ceilDiv n 32 + 70

/-- The last ac of a vector instruction as far as its head word fixes it: of the shapes that its descriptor may give its COUNT elements, the
shortest (R207; DEDUCED, log 63). -/
def vecEnd (op t : Nat) (h : VHead) : Nat :=
  let n := h.count
  let b := ceilDiv n h.rate
  match op with
  | 0x040 =>
    if h.flags % 2 = 1 then t + 23 + ((List.range 512).map (fun k => ceilDiv n (k + 1) + (k + 1))).foldl min (n + 1)
    else t + 24 + b
  | 0x041 => t + 3 * b + 32 + 24
  | 0x042 => t + (if h.flags % 2 = 1 then 3 * b + 32 else 2 * b + 16) + 24
  | 0x044 => t + 24 + ceilDiv n 128
  | 0x058 => t + b + 24
  | 0x059 => t + ceilDiv n 512 + 12
  | 0x060 => t + 12 + (n - 1) / 2
  | 0x061 => t + 12 + (n - 1) / 2
  | _ => t + b + 28

/-- The first streamed read of a matrix instruction (R102). -/
def firstRead (c : MatCfg) (t : Nat) : Nat := t + c.pace * c.e + routeDelay c.rb c.pace

/-- The last ac in which a word is certainly in progress. Where a descriptor or a region decides its length, the least it can be
(R69, R78, R107, R179, R207, R244, R268; DEDUCED, log 63). -/
def wordEnd (w : StreamWord) : Nat :=
  let op := headOpcode w.issue.head
  let t := w.offset
  if op < 0x040 then (if op = 0x008 ∨ op = 0x009 then t + 1 else t)
  else match w.issue.unit.val with
    | 0 =>
      let c := matCfg w.issue.head
      if op = 0x040 then finalResult c (mmulTile w.issue) (tileBlocks c (mmulTile w.issue) t) + 1
      else firstRead c t + c.e + 9 + routeDelay c.ra c.pace
    | 1 => vecEnd op t (vHead w.issue.head)
    | 2 => updEnd op t (uHead w.issue.head).count
    | _ =>
      if op < 0x080 then t + 10 + ((moveOp w.issue).len - 1) / 2048
      else
        let r := remoteOp w.issue
        if r.port = 16 then t + 18 + (r.len64 - 1) / 32 + (if r.sig then 2 else 0)
        else if op = 0x081 ∨ op = 0x085 then t
        else t + 2 + (r.len64 - 1) / 32

/-- What a matrix word leaves for the issue rules: of MMUL_PACK, whose descriptors stand in memory, the earliest that they can be
(R102, R103). -/
def matrixNext (w : StreamWord) : MatrixPrev :=
  let c := matCfg w.issue.head
  if headOpcode w.issue.head = 0x040 then
    let e := lastPass c (mmulTile w.issue) (tileBlocks c (mmulTile w.issue) w.offset)
    ⟨c.e, c.pace, e.1, e.2⟩
  else ⟨c.e, c.pace, firstRead c w.offset, firstRead c w.offset + c.pace⟩

/-- The words of a unit's own operations never issue while the unit is certainly busy (R69, R103). -/
def notBusy : Option Nat → Option MatrixPrev → List StreamWord → Bool
  | _, _, [] => true
  | busy, prev, w :: ws =>
    if headOpcode w.issue.head < 0x040 then notBusy busy prev ws
    else if w.issue.unit == 0 then
      let c := matCfg w.issue.head
      (match prev with
       | none => true
       | some p => decide (p.pathFree ≤ w.offset)
          || (p.gang == c.e && p.pace == c.pace && decide (p.lastPassFirst ≤ w.offset ∧ p.pathFree ≤ firstRead c w.offset)))
      && notBusy busy (some (matrixNext w)) ws
    else
      (match busy with | none => true | some b => decide (b < w.offset)) && notBusy (some (wordEnd w)) prev ws

/-- The streams of a program, walked: entry 8·core + unit. -/
def walkProgram (p : Program) : List (Option (List StreamWord)) :=
  allCores.flatMap (fun c => (List.range 8).map (fun u =>
    if h : u < 7 then
      let ws := p.streams.getD (8 * c.val + u) []
      walkWords c ⟨u, h⟩ ws.length true 0 ws
    else some []))

def streamsOk (p : Program) : Bool :=
  (walkProgram p).all (fun l => match l with | none => false | some ws => notBusy none none ws)

def walked (p : Program) : List (List StreamWord) := (walkProgram p).map (·.getD [])

/-- The streams whose traffic leaves its core: in a paired image the primaries' (R354). -/
def forwarded (im : Image) (p : Program) : List (List StreamWord) :=
  if im.hdr.paired then ((walked p).mapIdx (fun k l => if k / 8 % 2 = 1 then [] else l)) else walked p

/-! ### Checks 5 to 8 and 10 -/

/-- LC_MASK of ORG_ID (R24, R44). -/
def lcMask : Nat := 1 + 2 * Config.lcMaskUpper.toNat

/-- An image of a class above LC1 that this stepping supports loads, and runs with the figures of LC1: the spec gives no other's (DESIGN
CHOICE, log 131). -/
def lcOk (h : ImageHeader) : Bool := decide (1 ≤ h.lc ∧ h.lc ≤ 8) && bitAt lcMask (h.lc - 1)

def placedOk (b : Bytes) (h : ImageHeader) : Bool :=
  decide (1 ≤ h.n ∧ h.n ≤ 8192 ∧ h.position < h.n) && sha256 (secData (imageSecs b) 0x0B 0) == h.placementHash

/-- The program that follows a step of a program (R166). -/
def nextProgram (im : Image) (p : Nat) : Nat :=
  match ((im.programs.getD p Program.empty).barriers).getLast? with
  | some r => if r.turn then r.turnTo else p
  | none => p

/-- The repeating sequence of programs that the final barriers produce (R358). -/
def programCycle (im : Image) : List Nat :=
  let n := nextProgram im 0
  if n = 0 then [0] else if nextProgram im n = 0 then [0, n] else [n]

/-- Two half-open spans meet. -/
def meets (a b c d : Nat) : Bool := decide (a < d ∧ c < b)

/-- A window is quiet for its core (R357). -/
def windowQuiet (im : Image) (c : Nat) (w : Window) : Bool :=
  let p := im.programs.getD w.program Program.empty
  let e := w.offset + w.length
  let ws := walked p
  decide (1020000 ≤ w.length ∧ e + 32 ≤ p.stepLen)
  && p.barriers.all (fun r => !meets w.offset e r.offset (r.offset + 32))
  && (List.range 7).all (fun u => (ws.getD (8 * c + u) []).all (fun x =>
      !(decide (x.offset < e) && decide (w.offset ≤ wordEnd x))))
  && (List.range 8).all (fun k => (p.fabric.getD (8 * c + k) []).all (fun x =>
      [field x.toNat 124 4, field x.toNat 60 4].all (fun kind => !(decide (1 ≤ kind ∧ kind ≤ 3)))))
  && p.links.all (fun t => t.entries.all (fun x => field x.toNat 92 4 == 0 || field x.toNat 89 3 != c))
  && ws.all (fun l => l.all (fun x =>
      !(decide (3 ≤ x.issue.unit.val ∧ 0x080 ≤ headOpcode x.issue.head) && (remoteOp x.issue).port == 16 && (remoteOp x.issue).dstCore == c
        && meets w.offset e (x.offset + 18) (wordEnd x + 1))))

/-- Start and length of a core's windows over the repeating sequence (R358). -/
def windowStarts (im : Image) (ws : List Window) : List (Nat × Nat) :=
  let step := fun (acc : Nat × List (Nat × Nat)) (p : Nat) =>
    (acc.1 + (im.programs.getD p Program.empty).stepLen,
     acc.2 ++ sortExtents ((ws.filter (fun w => w.program == p)).map (fun w => (acc.1 + w.offset, w.length))))
  ((programCycle im).foldl step (0, [])).2

def cycleLen (im : Image) : Nat :=
  ((programCycle im).map (fun p => (im.programs.getD p Program.empty).stepLen)).foldl (· + ·) 0

/-- Spacings of one core's windows, start to start, with the next window's length (R358). -/
def windowGaps (im : Image) (ws : List Window) : List (Nat × Nat) :=
  let l := windowStarts im ws
  match l with
  | [] => []
  | x :: t => (l.zip (t ++ [(x.1 + cycleLen im, x.2)])).map (fun p => (p.2.1 - p.1.1, p.2.2))

/-- Load check 8 (R356 to R358). -/
def testWindowsOk (im : Image) : Bool :=
  let gaps := im.windows.map (windowGaps im)
  im.hdr.testWindows && im.windows.length == 8
  && (List.range 8).all (fun c => (im.windows.getD c []).all (windowQuiet im c))
  && gaps.all (fun g => !g.isEmpty && g.all (fun x => decide (4250000 ≤ x.1 ∧ x.1 + x.2 ≤ 25500000000 + 1)))
  && im.hdr.testWindowsMin == (gaps.flatten.map (·.1)).foldl min (((gaps.flatten.head?).map (·.1)).getD 0)

/-- Load check 10: a core's streams of both programs fit 16 MiB. -/
def storeOk (im : Image) : Bool :=
  (List.range 8).all (fun c => decide (16 * ((im.programs.map (fun p =>
    ((List.range 7).map (fun u => (p.streams.getD (8 * c + u) []).length)).foldl (· + ·) 0)).foldl (· + ·) 0) ≤ 2 ^ 24))

/-! ### Check 11: link slot tables (R262 to R267) -/

/-- Start of position `k`, counted from the step's start (R259, R262). -/
def positionStart (k : Nat) : Nat := 85 * (k / 46) + 85 * (k % 46) / 46

/-- The entry of a position of the step (R262, R263); of a free position where the port has no table. -/
def LinkTable.entry (t : LinkTable) (k : Nat) : Word128 := if t.cycle = 0 then 0 else t.entries.getD (k % t.cycle) 0

/-- Positions that start below an offset of the step (R262). -/
def positionsIn (len : Nat) : Nat := len * 46 / 85 + 46

/-- The first position that starts at or after an offset of the step (R262). -/
def positionFrom (t : Nat) : Nat := 46 * (t / 85) + ((List.range 46).find? (fun j => decide (t % 85 ≤ 85 * j / 46))).getD 46

/-- The first `n` positions of at most `fuel`, from `k` on, whose entries satisfy `sel`. -/
def bookedFrom (t : LinkTable) (sel : Word128 → Bool) : Nat → Nat → Nat → List Nat
  | 0, _, _ => []
  | _, _, 0 => []
  | fuel + 1, k, n + 1 => if sel (t.entry k) then k :: bookedFrom t sel fuel (k + 1) n else bookedFrom t sel fuel (k + 1) (n + 1)

/-- The position that starts in an ac, if any. -/
def positionAt (t : Nat) : Option Nat :=
  ((List.range 46).find? (fun j => 85 * j / 46 == t % 85)).map (fun j => 46 * (t / 85) + j)

/-- Fields of a slot-table entry (R263). -/
def txKind (e : Word128) : Nat := wf e 125 3
def txCore (e : Word128) : Nat := wf e 122 3
def txEngine (e : Word128) : Nat := wf e 120 2
def txFlit (e : Word128) : Nat := wf e 105 15
def rxKind (e : Word128) : Nat := wf e 92 4
def rxCore (e : Word128) : Nat := wf e 89 3

def linkEntryOk (e : Word128) : Bool :=
  decide (txKind e ≤ 3) && wf e 96 9 == 0 && decide (rxKind e ≤ 9 ∧ wf e 86 3 ≤ 5 ∧ wf e 17 3 ≤ 4)
  && (!(wf e 21 1 == 1 || rxKind e == 7) || wf e 22 8 != 0)

/-- Any 46 consecutive transmit positions hold a free one (R264). -/
def freePositions (t : LinkTable) : Bool :=
  let free := (List.range t.cycle).filter (fun k => txKind (t.entries.getD k 0) == 0)
  match free with
  | [] => false
  | f :: rest => (free.zip (rest ++ [f + t.cycle])).all (fun p => decide (p.2 - p.1 ≤ 46))

/-- Flits of a transfer (R267); the tiles of a VERIFY are those of its source region. -/
def flitCount (regions : List Region) (op : Nat) (r : RemoteOp) : Nat :=
  let tiles := ceilDiv (64 * r.len64) (regions.getD r.src unusedRegion).tileBytes
  if op = 0x081 ∨ op = 0x085 then 1
  else if r.gx then 5 * (r.len64 / 32)
  else ceilDiv r.len64 4 + (if op = 0x080 ∧ r.verify then ceilDiv tiles 51 else 0)

/-- A word is a remote operation over a link (R265, R266). -/
def StreamWord.byLink (w : StreamWord) : Bool :=
  decide (3 ≤ w.issue.unit.val ∧ 0x080 ≤ headOpcode w.issue.head) && (remoteOp w.issue).port != 16

/-- Whether an entry's transmit side is booked for a word's DMA engine (R263, R267). -/
def StreamWord.owns (w : StreamWord) (e : Word128) : Bool :=
  txKind e == 1 && txCore e == w.issue.core.val && txEngine e + 3 == w.issue.unit.val

/-- The positions of the step in which a link transfer's flits go out (R267). -/
def StreamWord.positions (regions : List Region) (p : Program) (w : StreamWord) : List Nat :=
  let r := remoteOp w.issue
  bookedFrom (p.links.getD r.port ⟨0, []⟩) w.owns (positionsIn (p.stepLen - w.offset)) (positionFrom (w.offset + 20))
    (flitCount regions (headOpcode w.issue.head) r)

/-- A link transfer's transmit entries: its first position is SLOT and starts at T + 20, and its flits follow in their order in booked
positions (R267). -/
def transferBooked (regions : List Region) (p : Program) (w : StreamWord) : Bool :=
  if !w.byLink then true
  else
    let r := remoteOp w.issue
    let t := p.links.getD r.port ⟨0, []⟩
    let ks := w.positions regions p
    (match ks with
     | [] => false
     | k :: _ => positionStart k == w.offset + 20 && k % t.cycle == r.slot)
    && ks.map (fun k => txFlit (t.entry k)) == List.range (flitCount regions (headOpcode w.issue.head) r)

/-- No position of a port is booked by two transfers (R20, R264). -/
def positionsApart (im : Image) (regions : List Region) (p : Program) : Bool :=
  (List.range 16).all (fun q => decide ((((forwarded im p).flatMap (fun l =>
    l.filter (fun w => w.byLink && (remoteOp w.issue).port == q))).flatMap (StreamWord.positions regions p)).Nodup))

/-- Scratchpad words that a GX part can touch: the most of its three widths (R271). -/
def gxPartWords (part : Nat) : Nat := [11, 12, 11, 8, 7].getD part 0

/-- Accesses of a receive entry at the remote-operation port, an add two for each word (R270). -/
def rxAccesses (e : Word128) : Nat :=
  let words := if wf e 20 1 = 1 then gxPartWords (wf e 17 3) else 4
  match rxKind e with
  | 1 => words
  | 3 => words
  | 4 => 2 * words
  | 5 => 4
  | 6 => 4
  | 9 => 4
  | _ => 0

/-- Words that PORT 16 transfers bring into a slice: the core, the ac of the step and their number (R268). -/
def port16Words (im : Image) (p : Program) : List (Nat × Nat × Nat) :=
  (forwarded im p).flatMap (fun l => l.flatMap (fun w =>
    let r := remoteOp w.issue
    if decide (3 ≤ w.issue.unit.val ∧ 0x080 ≤ headOpcode w.issue.head) && r.port == 16 then
      (List.range (ceilDiv r.len64 32)).map (fun k => (r.dstCore, w.offset + 18 + k, min 32 (r.len64 - 32 * k)))
    else []))

/-- Deliveries into one core in one ac, by links and by PORT 16, need at most 32 accesses of its remote-operation port; a PORT 16 word
counts once, at the rate that R268 gives it (R264, R268, R270; DEDUCED, log 150). -/
def ropLoadOk (im : Image) (p : Program) : Bool :=
  let cyc := 85 * (p.links.headD ⟨0, []⟩).cycle / 46
  let byLink := (List.range 16).flatMap (fun q =>
    let t := p.links.getD q ⟨0, []⟩
    ((List.range t.cycle).filter (fun k => rxAccesses (t.entries.getD k 0) != 0)).map (fun k =>
      let e := t.entries.getD k 0
      (rxCore e, (positionStart k + 84 + im.allow.allow.getD q 0) % cyc, rxAccesses e)))
  let by16 := port16Words im p
  let sum : List (Nat × Nat × Nat) → Nat → Nat → Nat := fun l c t =>
    ((l.filter (fun x => x.1 == c && x.2.1 == t)).map (·.2.2)).foldl (· + ·) 0
  byLink.all (fun u => decide (sum byLink u.1 u.2.1 ≤ 32))
  && by16.all (fun u => decide (sum by16 u.1 u.2.1 + sum byLink u.1 (u.2.1 % cyc) ≤ 32))

/-- Load check 11, the link slots (R264, R267). -/
def linksOk (im : Image) (regions : List Region) (p : Program) : Bool :=
  p.links.all (fun t => t.cycle % 46 == 0 && t.cycle == (p.links.headD ⟨0, []⟩).cycle && t.entries.all linkEntryOk && freePositions t)
  && (forwarded im p).all (fun l => l.all (transferBooked regions p)) && positionsApart im regions p && ropLoadOk im p

/-! ### Check 12: HBM command streams (R70, R71, R234 to R236, R430) -/

/-- A command of an HBM stream with its issue fc in the step. -/
structure HbmCmd where
  fc : Nat
  cmd : Nat
  bank : Nat
  xfer : Nat
deriving DecidableEq, Repr

def hbmDelta (w : U64) : Nat := field w.toNat 52 12
def hbmCmd (w : U64) : Nat := field w.toNat 48 4
def hbmBank (w : U64) : Nat := field w.toNat 42 6
def hbmRow (w : U64) : Nat := field w.toNat 24 18
def hbmCol (w : U64) : Nat := field w.toNat 19 5
def hbmXfer (w : U64) : Nat := field w.toNat 0 13

/-- A valid command word (R70, R71). -/
def hbmWordOk (w : U64) : Bool :=
  let cmd := hbmCmd w
  let banked := decide (1 ≤ cmd ∧ cmd ≤ 5)
  let data := cmd == 2 || cmd == 3
  decide (cmd ≤ 7) && field w.toNat 13 5 == 0
  && (if banked then decide (hbmBank w ≤ 47) else hbmBank w == 0)
  && (if cmd = 1 then decide (hbmRow w ≤ 16383) else cmd == 6 || hbmRow w == 0)
  && (data || (hbmCol w == 0 && hbmXfer w == 0))

/-- Issue fc of every command of a stream (R70, R71). -/
def walkHbm : Nat → List U64 → List HbmCmd
  | _, [] => []
  | base, w :: ws =>
    let t := base + hbmDelta w
    ⟨t, hbmCmd w, hbmBank w, hbmXfer w⟩ :: walkHbm (t + (if hbmCmd w = 6 then hbmRow w else 0)) ws

/-- The hold loop at the end of a stream (R236). -/
def holdLoopOk (ws : List U64) : Bool :=
  let loop := ws.drop (ws.length - 49)
  decide (49 ≤ ws.length)
  && (List.range 48).all (fun k => let w := loop.getD k 0; hbmCmd w == 5 && hbmBank w == k && hbmDelta w == 2)
  && (let w := loop.getD 48 0; hbmCmd w == 6 && 96 + hbmDelta w + hbmRow w == 400)

/-- Latest commands of a stream, for the spacings of R430. -/
structure HbmHist where
  act : List (Nat × Nat)
  pre : List (Nat × Nat)
  rd : List (Nat × Nat)
  wr : List (Nat × Nat)
  ref : List (Nat × Nat)
  acts : List Nat
  col : Option Nat
  lastRd : Option Nat
  lastWr : Option Nat

def HbmHist.empty : HbmHist := ⟨[], [], [], [], [], [], none, none, none⟩

def gapOk (prev : Option Nat) (gap t : Nat) : Bool := match prev with | none => true | some p => decide (p + gap ≤ t)
def tabFind (k : Nat) (l : List (Nat × Nat)) : Option Nat := (l.find? (fun x => x.1 == k)).map (·.2)
def tabOther (k : Nat) (l : List (Nat × Nat)) : Option Nat :=
  match (l.filter (fun x => x.1 != k)).map (·.2) with
  | [] => none
  | x :: t => some (t.foldl max x)

/-- The minimum spacings of R430 before a command. -/
def HbmHist.gaps (h : HbmHist) (c : HbmCmd) : Bool :=
  let b := c.bank
  let t := c.fc
  (!(decide (1 ≤ c.cmd ∧ c.cmd ≤ 5)) || gapOk (tabFind b h.ref) 272 t)
  && match c.cmd with
    | 1 => gapOk (tabFind b h.act) 80 t && gapOk (tabFind b h.pre) 24 t && gapOk (tabOther b h.act) 4 t
           && (decide (h.acts.length < 4) || gapOk h.acts.head? 28 t)
    | 2 => gapOk (tabFind b h.act) 24 t && gapOk h.col 2 t && gapOk h.lastWr 16 t
    | 3 => gapOk (tabFind b h.act) 24 t && gapOk h.col 2 t && gapOk h.lastRd 10 t
    | 4 => gapOk (tabFind b h.act) 56 t && gapOk (tabFind b h.rd) 8 t && gapOk (tabFind b h.wr) 30 t
    | 5 => gapOk (tabOther b h.ref) 2 t
    | _ => true

def HbmHist.push (h : HbmHist) (c : HbmCmd) : HbmHist :=
  let b := c.bank
  let t := c.fc
  match c.cmd with
  | 1 => { h with act := tabSet b t h.act, acts := (h.acts ++ [t]).drop ((h.acts.length + 1) - 4) }
  | 2 => { h with rd := tabSet b t h.rd, col := some t, lastRd := some t }
  | 3 => { h with wr := tabSet b t h.wr, col := some t, lastWr := some t }
  | 4 => { h with pre := tabSet b t h.pre }
  | 5 => { h with ref := tabSet b t h.ref }
  | _ => h

/-- Spacings of the commands after the first `skip` of a sequence. -/
def spacingOk : HbmHist → Nat → List HbmCmd → Bool
  | _, _, [] => true
  | h, skip, c :: cs => (decide (0 < skip) || h.gaps c) && spacingOk (h.push c) (skip - 1) cs

/-- The open banks before each command, and whether every command suits its bank's state (R430). -/
def bankStates : List Nat → List HbmCmd → Bool
  | _, [] => true
  | op, c :: cs =>
    let isOpen := op.contains c.bank
    match c.cmd with
    | 1 => !isOpen && bankStates (c.bank :: op) cs
    | 2 => isOpen && bankStates op cs
    | 3 => isOpen && bankStates op cs
    | 4 => bankStates (op.filter (fun b => b != c.bank)) cs
    | 5 => !isOpen && bankStates op cs
    | _ => bankStates op cs

/-- Banks open at an fc, and whether a burst spans it (R234). -/
def quietAt (cs : List HbmCmd) (t : Nat) : Bool :=
  let before := cs.filter (fun c => decide (c.fc < t))
  (before.foldl (fun op c => if c.cmd = 1 then c.bank :: op else if c.cmd = 4 then op.filter (fun b => b != c.bank) else op)
    ([] : List Nat)).isEmpty
  && before.all (fun c => !((c.cmd == 2 || c.cmd == 3) && c.fc + 1 == t))

/-- At most one row command and one column command in an fc; NOP, DELAY and BARRIER take neither slot. The fc of the latest row and
column command come first (R71). -/
def fcSlotsOk : Option Nat → Option Nat → List HbmCmd → Bool
  | _, _, [] => true
  | row, col, c :: cs =>
    if c.cmd = 1 ∨ c.cmd = 4 ∨ c.cmd = 5 then row != some c.fc && fcSlotsOk (some c.fc) col cs
    else if c.cmd = 2 ∨ c.cmd = 3 then col != some c.fc && fcSlotsOk row (some c.fc) cs
    else fcSlotsOk row col cs

/-- Refresh of every bank, across the wrap of the step (R235). -/
def refreshOk (cs : List HbmCmd) (stepFc : Nat) : Bool :=
  (List.range 48).all (fun b =>
    match (cs.filter (fun c => c.cmd == 5 && c.bank == b)).map (·.fc) with
    | [] => false
    | f :: rest => ((f :: rest).zip (rest ++ [f + stepFc])).all (fun p => decide (p.2 ≤ p.1 + 2800)))

/-- g of R234. -/
def gridGcd (im : Image) : Nat := im.programs.foldl (fun g p => Nat.gcd g p.stepLen) im.hdr.soakPeriod

/-- The step's points at which every bank is precharged (R234), in fc. -/
def quietPoints (im : Image) (p : Program) : List Nat :=
  let g := gridGcd im
  (if g = 0 then [] else (List.range (p.stepLen / g + 1)).map (fun k => 2 * g * k)) ++ p.barriers.map (fun r => 2 * r.offset)

/-- One HBM stream, followed by the stream of the next step (R430). -/
def hbmStreamOk (im : Image) (p : Program) (ws next : List U64) : Bool :=
  let body := walkHbm 0 (ws.take (ws.length - 49))
  let after := walkHbm (2 * p.stepLen) (next.take (next.length - 49))
  ws.all hbmWordOk && holdLoopOk ws && body.all (fun c => decide (c.fc < 2 * p.stepLen)) && fcSlotsOk none none body && bankStates [] body
  && (quietPoints im p).all (quietAt body) && refreshOk body (2 * p.stepLen)
  && spacingOk HbmHist.empty 0 body && spacingOk HbmHist.empty body.length (body ++ after)

/-! ### Check 11: fabric slots (R20, R60) -/

/-- The slots that the bursts of one controller need: the direction, the entry and the fc of the slot; a read's slot follows its burst,
and a write's comes before it (R60, R70; DEDUCED, log 151). -/
def burstSlots (p : Program) (controller : Nat) : List (Bool × Nat × Nat) :=
  let n := (p.fabric.getD (64 + controller) []).length
  (List.range 32).flatMap (fun k =>
    let ws := p.hbm.getD (32 * controller + k) []
    ((walkHbm 0 (ws.take (ws.length - 49))).filter (fun c => (c.cmd == 2 || c.cmd == 3) && decide (c.xfer < n))).map (fun c =>
      (c.cmd == 3, c.xfer, if c.cmd = 2 then c.xfer + ceilDiv (c.fc - c.xfer) n * n else c.xfer + (c.fc - c.xfer) / n * n)))

/-- No slot is needed by two transfers: a slot that is booked for a transfer carries the bursts of its own controller only, and no slot
carries more than its 512 bytes (R20, R60; DEDUCED, log 151). -/
def fabricApart (p : Program) : Bool :=
  (List.range 20).all (fun n =>
    let uses := burstSlots p n
    uses.all (fun u =>
      let x := fabricHalf ((p.fabric.getD (64 + n) []).getD u.2.1 0) u.1
      (!decide (1 ≤ x.kind ∧ x.kind ≤ 3) || (if u.1 then x.dst else x.src) == 0x40 + n)
      && decide ((uses.filter (fun y => y == u)).length ≤ 16)))

/-- Load check 11. -/
def slotsOk (im : Image) (regions : List Region) (p : Program) : Bool := linksOk im regions p && fabricApart p

/-- Load check 12. -/
def hbmOk (im : Image) : Bool :=
  (List.range im.programs.length).all (fun q =>
    let p := im.programs.getD q Program.empty
    let n := im.programs.getD (nextProgram im q) Program.empty
    (List.range 640).all (fun i => hbmStreamOk im p (p.hbm.getD i []) (n.hbm.getD i [])))

/-! ### Check 13: the region table (R62, R64, R240, R246, R313, R321) -/

def regionShapeOk (r : Region) : Bool :=
  let sp := r.place == 2 || r.place == 4
  r.base % 65536 == 0 && decide (r.thLog2 ≤ (if r.small then 3 else 5)) && decide (1 ≤ r.size ∧ r.base + r.bytes ≤ (if sp then sliceSize else hbmSize))
  && ((r.cores != 0) == sp) && (if r.place ≤ 2 then true else r.owner != 0)

/-- Pairs (R246). -/
def regionPairOk (rs : List Region) (i : Nat) (r : Region) : Bool :=
  if !r.pair then r.partner == 0xFFFF && !r.ledger
  else match rs[r.partner]? with
    | none => false
    | some q => q.used && q.pair && q.partner == i && q.shelf != r.shelf
        && decide ({ q with base := 0, checkRegion := 0, partner := 0, shelf := false } = { r with base := 0, checkRegion := 0, partner := 0, shelf := false })

/-- Check regions and tile layouts (R238, R240, R246). -/
def regionCheckOk (rs : List Region) (r : Region) : Bool :=
  if !r.check then r.checkRegion == 0xFFFF && r.rowBytes == 0
  else match rs[r.checkRegion]? with
    | none => false
    | some c => c.place == r.place && c.cores == r.cores && r.segment % 64 == 0
        && r.rowBytes != 0 && r.rowBytes % r.segment == 0 && decide (5 * r.tiles ≤ c.bytes)

def extentsApart : List (Nat × Nat) → Bool
  | (a, n) :: (b, m) :: t => decide (a + n ≤ b) && extentsApart ((b, m) :: t)
  | _ => true

def regionsApart (rs : List Region) (staging : Nat × Nat) : Bool :=
  let used := rs.filter Region.used
  extentsApart (sortExtents ((used.filter Region.inHbm).map (fun r => (r.base, r.bytes))))
  && allCores.all (fun c => extentsApart (sortExtents ((used.filter (fun r => r.inSlice c)).map (fun r => (r.base, r.bytes)))))
  && (used.filter Region.inHbm).all (fun r => !meets r.base (r.base + r.bytes) staging.1 (staging.1 + staging.2))

def bitCount (x : Nat) : Nat := sumBelow 8 (fun k => bit (bitAt x k))

/-- Ring takes (R321). -/
def takesOk (im : Image) (rs : List Region) : Bool :=
  let ts := im.programs.flatMap (fun p => p.barriers.flatMap (·.takes))
  ts.all (fun t =>
    (match rs[t.region]? with
     | none => false
     | some r => (r.place == 3 || (r.place == 4 && bitCount r.cores == 1)) && decide (t.slots * t.entryBytes ≤ r.bytes))
    && ts.all (fun u => u.ring != t.ring || (u.region == t.region && u.counter == t.counter && u.entryBytes == t.entryBytes && u.slots == t.slots)))

/-- TILE_BYTES of every used entry of a region section is 0 or 1 (R246). -/
def tileBytesOk (b : Bytes) : Bool := (chunks 32 b).all (fun e => leAt e 0x0C 1 == 0 || decide (leAt e 0x1D 1 ≤ 1))

/-- Load check 13, the table as regions. -/
def regionTableRulesOk (im : Image) (rs : List Region) (staging : Nat × Nat) : Bool :=
  (List.range rs.length).all (fun i =>
    let r := rs.getD i unusedRegion
    !r.used || (regionShapeOk r && regionPairOk rs i r && regionCheckOk rs r))
  && regionsApart rs staging
  && (match rs[im.seed.ledgerRegion]? with
      | none => false
      | some r => r.used && r.pair && r.ledger && decide (544 * im.seed.entries.length ≤ r.bytes))
  && im.init.all (fun d => match rs[d.region]? with
      | none => false
      | some r => r.used && decide (d.offset + d.data.length ≤ r.bytes))
  && takesOk im rs

/-! ### Check 14: counters (R73, R74, R76, R321) -/

/-- Counters that a program's stream words name, with the offset of a SET; a pair's operation counts once (R354). -/
def counterUses (im : Image) (p : Program) : List (Nat × Option Nat) :=
  (forwarded im p).flatMap (fun l => l.flatMap (fun w =>
    let op := headOpcode w.issue.head
    if op = 0x008 ∨ op = 0x00A then [(wf w.issue.head 0 16, none)]
    else if op = 0x009 then [(wf w.issue.head 0 16, some w.offset)]
    else if 0x080 ≤ op ∧ 3 ≤ w.issue.unit.val then
      let r := remoteOp w.issue
      if r.port = 16 ∧ r.sig then [(r.counter, none)] else []
    else []))

/-- Load check 14. -/
def counterRulesOk (im : Image) (cs : List CounterEntry) : Bool :=
  let owner := fun (c : Nat) => ((cs.find? (fun e => e.counter == c)).map (·.owner)).getD 0
  decide ((cs.map (·.counter)).Nodup)
  && im.programs.all (fun p =>
    let uses := counterUses im p
    let sets := uses.filter (fun u => u.2.isSome)
    uses.all (fun u => owner u.1 == 1) && decide sets.Nodup
    && p.links.all (fun t => t.entries.all (fun e => rxKind e == 0 || !(wf e 21 1 == 1 || rxKind e == 7) || owner (wf e 30 16) == 1))
    && p.barriers.all (fun b => b.waits.all (fun w => owner w.counter != 0) && b.takes.all (fun t => owner t.counter == 2)))

/-! ### Check 15: barriers (R78, R151, R166, R286) -/

/-- A stream's BARRIER words are the table's, and no other word is in progress in a window (R78). -/
def streamQuiet (p : Program) (ws : List StreamWord) : Bool :=
  let marks := (ws.filter (fun w => headOpcode w.issue.head == 0x00C)).map (fun w => (w.offset, barrierId w.issue))
  marks == p.barriers.map (fun r => (r.offset, r.id))
  && ws.all (fun w => headOpcode w.issue.head == 0x00C
      || p.barriers.all (fun r => !meets w.offset (wordEnd w + 1) r.offset (r.offset + 32)))

/-- No link transfer is in progress in a window: from its issue to the end of its last flit (R78, R267). -/
def transfersQuiet (im : Image) (regions : List Region) (p : Program) : Bool :=
  (forwarded im p).all (fun l => (l.filter StreamWord.byLink).all (fun w =>
    let last := (((w.positions regions p).map (fun k => positionStart k + 1)).getLast?).getD w.offset
    p.barriers.all (fun r => !meets w.offset (last + 1) r.offset (r.offset + 32))))

/-- Offsets of the step at which position `k` of the link cycle starts (R262). -/
def occurrences (p : Program) (t : LinkTable) (k : Nat) : List Nat :=
  let cyc := 85 * t.cycle / 46
  ((List.range (p.stepLen / cyc + 1)).map (fun n => cyc * n + positionStart k)).filter (fun o => decide (o < p.stepLen))

/-- No booked position of a port starts in a window, and no booked flit is delivered, or changes a counter, in one; a flit that crosses
the step's end is delivered in the next step (R78, R262, R268; DEDUCED, log 148). -/
def linksQuiet (im : Image) (p next : Program) : Bool :=
  (List.range 16).all (fun q =>
    let t := p.links.getD q ⟨0, []⟩
    (List.range t.cycle).all (fun k =>
      let e := t.entries.getD k 0
      let signal := wf e 21 1 == 1 || rxKind e == 7
      (occurrences p t k).all (fun o =>
        let d := o + 84 + im.allow.allow.getD q 0
        (txKind e == 0 || p.barriers.all (fun r => !meets o (o + 1) r.offset (r.offset + 32)))
        && (rxKind e == 0
            || (if d < p.stepLen then p.barriers.all (fun r => !meets d (d + 1 + bit signal) r.offset (r.offset + 32))
                else next.barriers.all (fun r => !meets (d - p.stepLen) (d - p.stepLen + 1 + bit signal) r.offset (r.offset + 32)))))))

/-- An HBM stream's BARRIER commands stand where the barriers begin, and no other command in a window (R78). -/
def hbmQuiet (p : Program) (ws : List U64) : Bool :=
  let body := walkHbm 0 (ws.take (ws.length - 49))
  (body.filter (fun c => c.cmd == 7)).map (·.fc) == p.barriers.map (fun r => 2 * r.offset)
  && body.all (fun c => c.cmd == 7 || p.barriers.all (fun r => !decide (2 * r.offset ≤ c.fc ∧ c.fc < 2 * r.offset + 64)))

/-- Spacing of the barriers of a program, and its final barrier (R151, R166, R286). -/
def barrierSpacing (lead q : Nat) (p : Program) : Bool :=
  let os := p.barriers.map (·.offset)
  (match p.barriers.getLast? with
   | none => false
   | some r => r.offset + 32 == p.stepLen && (if q = 0 then r.commit else r.turn))
  && (match os.head? with | none => false | some o => decide (lead ≤ o))
  && (os.zip (os.drop 1)).all (fun x => decide (x.1 + lead + 32 ≤ x.2))

/-- Load check 15. -/
def barriersOk (im : Image) (regions : List Region) : Bool :=
  let lead := im.allow.barrierLead
  decide (im.allow.upReach + im.allow.downReach + 8 ≤ lead)
  && (List.range im.programs.length).all (fun q =>
    let p := im.programs.getD q Program.empty
    let ws := walked p
    barrierSpacing lead q p
    && (List.range 8).all (fun c => (List.range 7).all (fun u => streamQuiet p (ws.getD (8 * c + u) [])))
    && (List.range 640).all (fun i => hbmQuiet p (p.hbm.getD i []))
    && transfersQuiet im regions p && linksQuiet im p (im.programs.getD (nextProgram im q) Program.empty))

/-! ### The checks in order (R87) -/

/-- The first of a list of checks that fails: its status, or 0. -/
def firstFailure : List (Bool × Nat) → Nat
  | [] => 0
  | (ok, status) :: t => if ok then firstFailure t else status

/-- Checks 4 to 15 of a well-formed image (R87). -/
def imageChecks (s : State) (b : Bytes) : List (Bool × Nat) :=
  let im := imageOf b
  let rs := imageRegions b
  [(digestsOk b, 0x204), (lcOk im.hdr, 0x205), (placedOk b im.hdr, 0x206), (decide (im.hdr.powerPeak ≤ s.cfg.capW.toNat), 0x207),
   (s.cfg.testsOff || testWindowsOk im, 0x208), (im.programs.all streamsOk, 0x209), (storeOk im, 0x20A),
   (im.programs.all (slotsOk im rs), 0x20B), (hbmOk im, 0x20C), (tileBytesOk (secData (imageSecs b) 0x05 0) && regionTableRulesOk im rs s.staging, 0x20D),
   (counterRulesOk im (imageCounters b), 0x20E), (barriersOk im rs, 0x20F)]

/-- Status of the checks 2 to 15, 0 when all pass. -/
def loadStatus (s : State) (b : Bytes) : Nat :=
  if s.test.suspect then 0x202 else if !formatOk b then 0x203 else firstFailure (imageChecks s b)

/-! ### What an accepted load leaves -/

/-- A byte range that reads as unlisted. -/
def Memory.erase (m : Memory) (a len : Nat) : Memory := m.filter (fun c => decide (c.1 < a ∨ a + len ≤ c.1))

/-- The slices, or HBM, in which a region's bytes lie; the core of the slice goes to the change, 0 for HBM. The extents that are written
lose their transient errors (R232, R237). -/
def writePlace (r : Region) (ext : List (Nat × Nat)) (f : Nat → Memory → Memory) (s : State) : State :=
  if r.inHbm then { s with hbm := { s.hbm with mem := f 0 s.hbm.mem, ecc := eccWritten s.hbm.ecc 32 ext } }
  else allCores.foldl (fun s c =>
    if r.inSlice c then s.modCore c (fun k => { k with mem := f c.val k.mem, ecc := eccWritten k.ecc 8 ext }) else s) s

/-- Extents of a tile's check entry (R240). -/
def entryExtents (c r : Region) (j : Nat) : List (Nat × Nat) := [(c.base + 4 * j, 4), (c.base + 4 * r.tiles + j, 1)]

/-- Check entries of the whole tiles that extents of a region cover, from the memory as it stands (R64, R240, R241). -/
def sealTiles (rs : List Region) (r : Region) (prov : Nat → Byte) (ext : List (Nat × Nat)) (s : State) : State :=
  if !r.check then s else
  let c := rs.getD r.checkRegion unusedRegion
  writePlace r ((coveredTiles r ext).flatMap (entryExtents c r)) (fun n m => (coveredTiles r ext).foldl (fun m j =>
    let crc := (crc32c (tileData r (fun f => m.read (r.base + f)) j)).toNat
    (m.writeBytes (c.base + 4 * j) (le32 crc)).write (c.base + 4 * r.tiles + j) (prov n)) m) s

/-- Provenance of initial data: UNIT 7, CORE the slice's (R241; DEDUCED, log 64). -/
def initialProv (core : Nat) : Byte := provenance core 7 0

/-- Initial data of the image (R64). -/
def writeInit (rs : List Region) (s : State) (d : InitData) : State :=
  let r := rs.getD d.region unusedRegion
  sealTiles rs r initialProv [(d.offset, d.data.length)] (writePlace r [(r.base + d.offset, d.data.length)] (fun _ m => m.writeBytes (r.base + d.offset) d.data) s)

/-- Records of both ledger shelves from the seed; bytes of no record are 0 (R140). -/
def writeShelf (im : Image) (rs : List Region) (s : State) (i : Nat) : State :=
  let r := rs.getD i unusedRegion
  let body := im.seed.entries.flatMap seedRecord
  sealTiles rs r initialProv [(0, r.bytes)] (writePlace r [(r.base, r.bytes)] (fun _ m => (m.erase r.base r.bytes).writeBytes r.base body) s)

def writeLedger (im : Image) (rs : List Region) (s : State) : State :=
  let i := im.seed.ledgerRegion
  [i, (rs.getD i unusedRegion).partner].foldl (writeShelf im rs) s

/-- The rings that the image declares (R321). -/
def ringsOf (im : Image) : List Ring :=
  (((im.programs.flatMap (fun p => p.barriers.flatMap (·.takes))).map (·.ring)).eraseDups).map (fun i => ⟨i, 0, 0, 0⟩)

/-- A core as a load leaves it: slices keep their bytes, every engine is at rest, the tensor ids are the seed's (R135). -/
def CoreState.atLoad (seed : Seed) (k : CoreState) : CoreState :=
  { CoreState.initial with
    tensorIds := seed.entries.foldl (fun t e => tabSet e.anchorId e.tensorId t) []
    mem := k.mem
    ecc := k.ecc
    vecFlags := k.vecFlags
    trace := k.trace
    sha := k.sha
    test := { k.test with loadPasses := 0, windows := 0, busy := false } }

/-- Fields of a job that a load sets afresh; a pending write stays (R85). -/
def JobCtl.atLoad (j : JobCtl) : JobCtl := { JobCtl.initial with st := j.st, lagClipEn := j.lagClipEn, shadows := j.shadows }

/-- Links as a load leaves them: the counts since LOAD_IMAGE start over (R290). -/
def LinkState.atLoad (l : LinkState) : LinkState :=
  { l with soaks := 0, soakCause := 0, soakLocal := false, firstPort := 0x1F, stopAt := none, active := false, sentUp := false,
           goDown := none, releaseAt := none, restartUp := false, restartDown := none, restartAt := none, joined := [] }

def PortState.atLoad (x : PortState) : PortState :=
  { x with naks := [], copies := [], shifted := [], sent := [], booked := [], replies := [], ckptLate := [], arrivals := [], damaged := [],
           checkRuns := [], tileBuf := [], gxBuf := [], childReady := false, childRestart := false, parentGo := none, parentRestart := none }

/-- The image becomes the job: state LOADED (R57 to R64, R73, R82, R140, R362). -/
def installImage (b : Bytes) (s : State) : State :=
  let im := imageOf b
  let rs := imageRegions b
  let cs := (imageCounters b).filter (fun e => e.owner != 0)
  let s := { s with
    cores := s.cores.map (CoreState.atLoad im.seed)
    image := some im
    regions := rs
    fabric := ⟨[], [], []⟩
    inflight := []
    running := []
    past := []
    stopped := []
    ckptMaster := false
    testMaster := false
    counters := ⟨cs.foldl (fun t e => tabSet e.counter (BitVec.ofNat 32 e.initial) t) [],
                 cs.foldl (fun t e => tabSet e.counter e.owner t) [],
                 cs.foldl (fun t e => tabSet e.counter (BitVec.ofNat 32 e.initial) t) []⟩
    job := s.job.atLoad
    links := s.links.atLoad
    ports := s.ports.map PortState.atLoad
    fcp := { s.fcp with rings := ringsOf im, replayRecs := [] }
    cfg := { s.cfg with
      exchU := BitVec.ofNat 5 im.seed.u, workBase := BitVec.ofNat 32 im.seed.workBase, groupBase := BitVec.ofNat 32 im.seed.groupBase,
      commitBase := BitVec.ofNat 32 (im.seed.commitBase / 128) }
    power := { s.power with permitted := BitVec.ofNat 4 im.points, pPeak := 0 }
    ckpt := { s.ckpt with capture := none }
    test := { s.test with windows := 0, untested := s.test.untested || s.cfg.testsOff } }
  let s := im.init.foldl (writeInit rs) s
  (writeLedger im rs s).refreshNeighbours.setJobState .loaded 0

/-- LOAD_IMAGE with OFFSET and LENGTH (R82, R87, R364, R384, R390): status and state. An image that would run past the staging area gets
BAD_PARAMS, for which no rule gives a status (DESIGN CHOICE, log 133). -/
def loadImage (offset len : Nat) (s : State) : Nat × State :=
  if s.job.st != .empty then (0x201, s)
  else if s.boot.stage != 9 || s.sec.fwPending then (0x211, s)
  else if s.staging.2 < offset + len then (2, s)
  else
    let b := s.hbm.mem.readBytes (s.staging.1 + offset) len
    let status := loadStatus s b
    if status = 0 then (0, installImage b s) else (status, s.setJobState .empty status)

end Sys2Proof.Machine
end

