-- ==== Sys2Proof/Machine/Job.lean ====
section
/-! DEFINITION. The job commands: status, load, start, halt, unload, the operating point, and the end of the hold latency (R81, R82,
R85, R87, R140, R155, R249, R252, R284, R312, R319, R325, R328, R340, R349, R364, R394). -/
namespace Sys2Proof.Machine

/-! ### JOB_STATUS and LOAD_IMAGE (R82, R87, R312, R384) -/

def jobStatusSpec : Spec :=
  { cmd := fun p _ => .jobStatus p, opcode := 0x0200, seats := allSeats, len := 0, long := true
    run := fun _ _ s =>
      Reply.ok (be64 s.jobStateReg ++ be64 s.sched.toNat ++ be64 s.wall.toNat ++ be64 s.job.barrierSeq.toNat
        ++ be64 s.job.stepNum.toNat) s }

def execJobStatus (p : Packet) (s : State) : Out := .next (receive jobStatusSpec p s)

def loadSpec : Spec :=
  { cmd := fun p _ => .loadImage p, opcode := 0x0201, seats := [2], len := 16
    run := fun _ p s =>
      let (status, s) := loadImage (beAt p.params 0 8) (beAt p.params 8 8) s
      Reply.refuse status s }

def execLoadImage (p : Packet) (s : State) : Out := .next (receive loadSpec p s)

/-! ### START_AT_BARRIER (R82, R87, R284, R364, R394) -/

/-- The placement's follow parent port of this module, if any (R287). -/
def State.parentPort (s : State) : Option (Fin 16) := allPorts.find? (fun p => (s.placementPort p).isParent)

/-- This module is the placement's origin (R287). -/
def State.placedOrigin (s : State) : Bool := match s.image with
  | some im => im.placement.origin == im.hdr.position
  | none => false

/-- The wiring and the follow registers agree with the placement (R284, R394). The placement names no lane (log 65). -/
def State.wiringOk (s : State) : Bool :=
  allPorts.all (fun p => !(s.placementPort p).used || s.neighbourMatches p)
  && s.links.origin == s.placedOrigin && !s.boot.unfollowed
  && (match s.parentPort with
      | some p => s.placedOrigin || p.val == s.links.followPort.toNat
      | none => true)

/-- Every used port's excess is within its allowance (R34, R284). -/
def State.allowanceOk (s : State) : Bool :=
  allPorts.all (fun p => !(s.placementPort p).used || decide ((s.port p).excess.toNat ≤ s.allow.allow.getD p.val 0))

/-- Status of a start, 0 when it is accepted. -/
def State.startStatus (mode : Nat) (s : State) : Nat :=
  if s.job.st == .empty then 0x210
  else if !(s.job.st == .loaded || s.job.st == .halted) then 0x211
  else if s.test.suspect then 0x202
  else if 1 < mode then 2
  else if !s.wiringOk then 0x212
  else if !s.allowanceOk then 0x213
  else 0

/-- The tables and counts that a fresh job starts with (R39, R80, R140, R155, R325). -/
def State.freshJob (s : State) : State :=
  let anchors : List (Nat × Int) := match s.image with
    | some im => im.seed.entries.foldl (fun t e => tabSet e.anchorId e.seedAnchor t) []
    | none => []
  { s with
    sched := 0
    cores := s.cores.map (fun k : CoreState => { k with anchors := anchors, quanta := [], groups := [] })
    job := { s.job with barrierSeq := 0, inputCount := 0 }
    log := { s.log with input := [], inputNext := 0, inputAcked := 0, inputLow := false } }

/-- The start is taken as a restart barrier (R284). -/
def State.startJob (mode : Nat) (s : State) : State :=
  let s := if s.job.st == .loaded && !s.job.restored then s.freshJob else s
  let s := s.clearTokens.clearRestart
  let s := { s with job := { s.job with starting := true, replay := s.job.replay || mode == 1 } }
  (s.setJobState .running 0).watchRestart

def startSpec : Spec :=
  { cmd := fun p _ => .startAtBarrier p, opcode := 0x0202, seats := [2], len := 1
    run := fun _ p s =>
      let mode := beAt p.params 0 1
      let status := s.startStatus mode
      if status = 0 then Reply.ok [] (s.startJob mode) else Reply.refuse status s }

def execStartAtBarrier (p : Packet) (s : State) : Out := .next (receive startSpec p s)

/-! ### HALT_AT_BARRIER (R80, R81, R252, R335) -/

/-- The halt as the state has it: the barrier number that is replied, and the state (R81). During a hold it takes effect at once at the
held barrier, and during a soak at the restart barrier, whatever barrier it names; a fault that has frozen a master wins (R54). A restart
barrier has no number: 0 is replied where the module halts at one at once (DEDUCED, log 66). -/
def State.haltJob (seq : Nat) (s : State) : Nat × State :=
  let named := if seq = 0 then s.nextSeq else seq
  if s.job.st == .hold && s.job.faultAt.isNone then (s.job.barrierSeq.toNat, s.haltAt .evaluate)
  else
    let s := { s with job := { s.job with halt := some (if s.job.st == JobState.soak then 0 else seq) } }
    let s := s.haltStanding
    (if s.job.st == .halted then 0 else named, s)

def haltSpec : Spec :=
  { cmd := fun p _ => .haltAtBarrier p, opcode := 0x0203, seats := [2], len := 8
    run := fun _ p s =>
      let seq := beAt p.params 0 8
      if !(s.job.st == .running || s.job.st == .hold || s.job.st == .soak) then Reply.refuse 0x211 s
      else if seq ≠ 0 ∧ seq ≤ s.releasedSeq then Reply.refuse 0x214 s
      else
        let (n, s) := s.haltJob seq
        Reply.ok (be64 n) s }

def execHaltAtBarrier (p : Packet) (s : State) : Out := .next (receive haltSpec p s)

/-! ### UNLOAD (R82, R85, R328, R340, R349, R381) -/

/-- The job and its image are gone: state EMPTY. Memories keep their bytes. -/
def State.unloadJob (s : State) : State :=
  let s := s.dropStream
  let s := s.discardPoint
  let s := { s with
    cores := s.cores.map (fun k : CoreState => { CoreState.atLoad ⟨0, 0, 0, 0, 0, []⟩ k with
      vecCount := k.vecCount, test := { k.test with busy := false } })
    image := none
    regions := []
    fabric := ⟨[], [], []⟩
    hbm := { s.hbm with pos := [] }
    inflight := []
    running := []
    past := []
    stopped := []
    ckptMaster := false
    testMaster := false
    counters := ⟨[], [], []⟩
    job := { s.job.atLoad with shadows := [] }
    links := { s.links with
      stopAt := none, active := false, sentUp := false, goDown := none, releaseAt := none, restartUp := false,
      restartDown := none, restartAt := none, joined := [] }
    ports := s.ports.map PortState.atLoad
    fcp := { s.fcp with rings := [], replayRecs := [] }
    log := { s.log with hold := false }
    power := { s.power with permitted := 0xF }
    ckpt := { s.ckpt with
      st := (if s.ckpt.st = 5 then 0 else s.ckpt.st), capture := none, restoreStream := none, restoreBuf := [] } }
  let s := s.refreshNeighbours
  s.setJobState .empty 0

def unloadSpec : Spec :=
  { cmd := fun p _ => .unload p, opcode := 0x0204, seats := [1, 2], len := 0
    run := fun _ _ s =>
      if s.job.st == .loaded || s.job.st == .halted || s.job.st == .faultHeld then Reply.ok [] s.unloadJob
      else Reply.refuse 0x211 s }

def execUnload (p : Packet) (s : State) : Out := .next (receive unloadSpec p s)

/-! ### SET_OP_POINT (R317, R340, R341) -/

/-- Status of a change, 0 when it is accepted (R340). -/
def State.pointStatus (point seq : Nat) (s : State) : Nat :=
  if 3 < point then 2
  else if !bitAt s.power.permitted.toNat point then 0x704
  else if seq ≠ 0 ∧ seq ≤ s.releasedSeq then 0x702
  else if s.job.st == .faultHeld || (s.links.active && s.links.causes.contains (6, 0)) then 0x211
  else 0

/-- A change made in EMPTY: down switches at once and the rails fall; up raises the rails first (R340, R341; DEDUCED, log 67). -/
def State.pointNow (point : Nat) (s : State) : State :=
  let old := s.power.active.toNat
  if old < point then
    let s := s.switchPoint point
    { s with power := { s.power with emptyTarget := some (BitVec.ofNat 2 point), ramping := true } }
  else
    { s with power := { s.power with
      emptyTarget := some (BitVec.ofNat 2 point), ramping := true,
      coreTarget := s.boundMv point (nominalMv point), sramTarget := sramMv point } }

/-- A change becomes pending; an upward one raises the rails from its acceptance (R340, R341). -/
def State.pointLater (point seq : Nat) (s : State) : State :=
  let s := s.discardPoint
  let s := { s with power := { s.power with pending := some (BitVec.ofNat 2 point, seq), vReady := false } }
  if point < s.power.active.toNat then
    { s with power := { s.power with ramping := true, coreTarget := s.boundMv point (nominalMv point), sramTarget := sramMv point } }
  else s

def pointSpec : Spec :=
  { cmd := fun p _ => .setOpPoint p, opcode := 0x0205, seats := [2], len := 16, reserved := [(1, 7)], early := false
    run := fun _ p s =>
      let point := beAt p.params 0 1
      let seq := beAt p.params 8 8
      let status := s.pointStatus point seq
      if status ≠ 0 then Reply.refuse status s
      else if s.job.st == .empty then
        if point = s.power.active.toNat && s.power.emptyTarget.isNone then Reply.ok (be64 0) s
        else { status := 0, params := be64 0, fault := none, state := s.pointNow point, waits := true }
      else Reply.ok (be64 (if seq = 0 then s.nextSeq else seq)) (s.pointLater point seq) }

def execSetOpPoint (p : Packet) (s : State) : Out := .next (receive pointSpec p s)

/-! ### The end of the hold latency (R82, R85, R249, R252, R255, R340, R359) -/

/-- The module is held: FAULT_HELD. -/
def State.holdFault (s : State) : State :=
  let s := s.raiseFaultEvent.discardPoint.clearTokens.clearRestart
  let s := { s with
    inflight := []
    running := []
    past := []
    cores := s.cores.map (fun k : CoreState => { k with test := { k.test with busy := false } })
    job := { s.job with halt := none, faultAt := none, faultDue := false, starting := false, tokenDue := false, shadows := [], suspectStop := false }
    links := { s.links with active := false, stopAt := none, joined := [] }
    log := { s.log with hold := false } }
  s.setJobState .faultHeld 0

/-- HOLD_LATENCY_END: the schedule-cycle counter stops at f + 8, or stands already (R249). -/
def execHoldLatencyEnd (s : State) : Out :=
  match s.job.faultAt with
  | none => .next s
  | some f => if s.scheduleRuns && decide (s.now < f + 8) then .next s else .next s.holdFault

end Sys2Proof.Machine
end

