-- ==== Sys2Proof/Machine/HostMem.lean ====
section
/-! DEFINITION. Host access to memory, regions, counters and input rings (R73, R171, R232, R237 to R242, R246 to R250, R253, R312, R313,
R321 to R323, R328). -/
namespace Sys2Proof.Machine

/-! ### Where a host access lands (R248, R250, R313) -/

/-- The memory, the core of a slice (0 for HBM) and the address of a host access, with its region (none: the staging area). -/
structure HostPlace where
  hbm : Bool
  core : Fin 8
  addr : Nat
  region : Option Nat
deriving DecidableEq, Repr

/-- The core whose slice a host reaches in a scratchpad region: the lowest of CORES (DEDUCED, log 70). -/
def Region.hostCore (r : Region) : Fin 8 := (allCores.find? (fun c : Fin 8 => bitAt r.cores c.val)).getD 0

/-- ADDRESS of a host access (R253). -/
def hostAddress (hbm : Bool) (core : Fin 8) (a : Nat) : Nat := if hbm then a else sliceAddress core a

/-- A session fault record of a memory access (R250, R253). -/
def hostFault (kind region op place address id opcode seq tile detail : Nat) : FaultRec :=
  ⟨kind, 0, masterCode 3 (id - 1), region, op, place, 0, 0, address, 0, 0xFFFFFFFF, opcode, seq, tile, detail⟩

/-- Status and record of a refused access: 0x0401 out of region, 0x0402 permission (R248, R317). -/
def accessStatus (kind : Nat) : Nat := if kind = 1 then 0x401 else 0x402

/-- The staging area (R313). -/
def State.stagePlace (seat view off len : Nat) (s : State) : Except Nat HostPlace :=
  let a := s.staging.1 + off
  if !(seat == 2 || seat == 5) || view ≠ 0 then .error 2
  else if s.staging.2 < off + len ∨ hbmSize < a + len then .error 1
  else .ok ⟨true, 0, a, none⟩

/-- A region with its view: the HOST bits, for the OWNER seat alone when there is one (R248). -/
def State.regionPlace (seat region view right off len : Nat) (s : State) : Except (Nat × Nat) HostPlace :=
  let core := (s.region region).hostCore
  match s.checkRegion 3 core region view right off len with
  | .fail k i => .error (k, i)
  | .pass i =>
    let r := s.region i
    if r.owner ≠ 0 ∧ r.owner ≠ seat then .error (2, i) else .ok ⟨r.inHbm, core, r.base + off, some i⟩

/-- The place of a host access, or the status and record of its refusal. -/
def State.hostPlace (x : Session) (p : Packet) (opcode region view right off len : Nat) (s : State) :
    Except (Nat × FaultRec) HostPlace :=
  if region = 0xFFFF then
    match s.stagePlace x.seat view off len with
    | .ok h => .ok h
    | .error k => .error (accessStatus k,
        hostFault k 0xFFFF right 1 (s.staging.1 + off) x.id opcode p.seq.toNat 0 0)
  else
    match s.regionPlace x.seat region view right off len with
    | .ok h => .ok h
    | .error (k, i) =>
      let r := s.region i
      .error (accessStatus k, hostFault k (if k = 1 then 0xFFFF else i) right (if r.used then r.place else 1)
        (hostAddress (r.inHbm || !r.used) r.hostCore (r.base + off)) x.id opcode p.seq.toNat 0 0)

/-- The memory of a place as an access of this ac finds it. -/
def State.memAt (h : HostPlace) (s : State) : Memory := if h.hbm then s.hbmAsOf s.now else s.sliceNow h.core
/-- Its ECC marks and their granule (R232, R237). -/
def State.marksAt (h : HostPlace) (s : State) : List (Nat × EccMark) × Nat :=
  if h.hbm then (s.hbm.ecc, 32) else ((s.core h.core).ecc, 8)

/-- The origin of a host access: it reaches a slice through the remote-operation port (R230, R255). -/
def hostOrigin (h : HostPlace) : Origin := ⟨ropMaster h.core, 0xFFFFFFFF, 0x400, none, 0, 0⟩

/-- Bytes written by the control processor into a place: of a slice while a schedule runs, in the order of the ac's accesses (R230). -/
def State.writeAt (h : HostPlace) (a : Nat) (data : Bytes) (s : State) : State :=
  if h.hbm then s.apply (.hbm a data)
  else
    let t : Timed := ⟨s.now, true, hostOrigin h, .sp h.core a .plain 9 data⟩
    if s.scheduleRuns then { s with inflight := s.inflight ++ [t] } else s.apply t.eff

/-- The banks that a host read of a slice takes while a schedule runs (R230, R231). -/
def State.readBanks (h : HostPlace) (a len : Nat) (s : State) : State :=
  if h.hbm || !s.scheduleRuns then s
  else { s with inflight := s.inflight ++ [⟨s.now, true, hostOrigin h, .spRead h.core a len 9⟩] }

/-- The reserved slots that a host access takes at its memory's channels: one for each 512 bytes (R21, R60, R233). -/
def hostSlots (h : HostPlace) (len : Nat) : List (Nat × Nat) :=
  if len = 0 then []
  else if h.hbm then
    (List.range (ceilDiv (h.addr % 2048 + len) 2048)).map (fun k =>
      let lo := max h.addr ((h.addr / 2048 + k) * 2048)
      let hi := min (h.addr + len) ((h.addr / 2048 + k + 1) * 2048)
      (0x40 + (h.addr / 2048 + k) % 640 / 32, ceilDiv (hi - lo) 512))
  else [(h.core.val, ceilDiv len 512)]

/-- A write of the control processor, with the check entries of the whole tiles that it covers, provenance UNIT 5; a tile written in part
keeps its entry (R241, R242). -/
def State.hostWrite (h : HostPlace) (off : Nat) (data : Bytes) (s : State) : State :=
  let t := s.writeAt h h.addr data
  match h.region with
  | none => t
  | some i =>
    let r := s.region i
    if !r.check || data.isEmpty then t
    else
      let c := s.region r.checkRegion
      let m := (s.memAt h).writeBytes h.addr data
      (coveredTiles r [(off, data.length)]).foldl (fun (s : State) j =>
        let crc := (crc32c (tileData r (fun f => m.read (r.base + f)) j)).toNat
        (s.writeAt h (c.base + 4 * j) (le32 crc)).writeAt h (c.base + 4 * r.tiles + j) [provenance h.core 5 0]) t

/-! ### MEM_READ and MEM_WRITE (R250, R300, R312, R313) -/

/-- A failure that a host read meets is logged in the session fault ring and freezes nothing (R250; DEDUCED, log 71). -/
def State.logHostFault (r : FaultRec) (s : State) : State :=
  let ring := s.faults.session ++ [s.stampRecord r]
  { s with faults := { s.faults with
    session := ring.drop (ring.length - 64), sessionFaults := s.faults.sessionFaults + 1 } }

/-- The first whole tile of a read whose CRC is not its entry's: its index, address and CRC (R242, R250). -/
def State.badTile (h : HostPlace) (off len : Nat) (s : State) : Option (Nat × Nat × Nat) :=
  match h.region with
  | none => none
  | some i =>
    let r := s.region i
    if !r.check || len = 0 then none
    else
      let c := s.region r.checkRegion
      let m := s.memAt h
      ((coveredTiles r [(off, len)]).map (fun j =>
        (j, r.base + (r.segments j).headD 0, (crc32c (tileData r (fun f => m.read (r.base + f)) j)).toNat))).find?
        (fun x => x.2.2 != m.readLe (c.base + 4 * x.1) 4)

/-- An uncorrectable error that a host read meets: counted, logged, and of HBM its row joins the repair list (R237, R250, R254). -/
def State.hostUncorrected (h : HostPlace) (a : Nat) (x : Session) (p : Packet) (opcode : Nat) (s : State) : State :=
  let region := h.region.getD 0xFFFF
  let place := match h.region with | some i => (s.region i).place | none => 1
  let s := if h.hbm then s.addRepair (rowEntryAt a 1) else s
  (s.countUncorrected h.hbm).logHostFault (hostFault 4 region 0 place (hostAddress h.hbm h.core a) x.id opcode p.seq.toNat 0 0)

/-- Offsets, lengths, REGION and VIEW are of their encoding (R243, R300, R313). -/
def memParamsOk (region view off len : Nat) : Bool :=
  off % 64 == 0 && len % 64 == 0 && decide (len ≤ 8192 ∧ view ≤ 5) && (decide (region < 4096) || region == 0xFFFF)

/-- A host read of a place. -/
def State.hostRead (x : Session) (p : Packet) (h : HostPlace) (off len : Nat) (s : State) : Reply :=
  let (marks, gran) := s.marksAt h
  let region := h.region.getD 0xFFFF
  let place := match h.region with | some i => (s.region i).place | none => 1
  let s := s.readBanks h h.addr len
  match (eccScan marks gran h.addr len).1 with
  | some a => Reply.refuse 0x404 (s.hostUncorrected h a x p 0x400)
  | none =>
    let s := s.correct h.hbm (eccGood marks gran h.addr len)
    match s.badTile h off len with
    | some (j, a, crc) =>
      Reply.refuse 0x403 (s.logHostFault
        (hostFault 3 region 0 place (hostAddress h.hbm h.core a) x.id 0x400 p.seq.toNat j crc))
    | none => Reply.ok ((s.memAt h).readBytes h.addr len) s

/-- The reserved slots of a memory access by region; an access that is refused takes none (R21). -/
def State.accessSlots (x : Session) (p : Packet) (opcode right len : Nat) (s : State) : List (Nat × Nat) :=
  let region := beAt p.params 0 2
  let view := beAt p.params 2 1
  let off := beAt p.params 8 8
  if !memParamsOk region view off len then []
  else match s.hostPlace x p opcode region view right off len with
    | .ok h => hostSlots h len
    | .error _ => []

def memReadSpec : Spec :=
  { cmd := fun p _ => .memRead p, opcode := 0x0400, seats := allSeats, len := 20, reserved := [(3, 5)], early := false, long := true
    slots := fun x p s => s.accessSlots x p 0x400 0 (beAt p.params 16 4)
    run := fun x p s =>
      let region := beAt p.params 0 2
      let view := beAt p.params 2 1
      let off := beAt p.params 8 8
      let len := beAt p.params 16 4
      if !memParamsOk region view off len || decide (s.roomOf p.port < len) then Reply.refuse 2 s
      else match s.hostPlace x p 0x400 region view 0 off len with
        | .error (status, f) => { status := status, params := [], fault := some f, state := s }
        | .ok h => s.hostRead x p h off len }

def execMemRead (p : Packet) (s : State) : Out := .next (receive memReadSpec p s)

def memWriteSpec : Spec :=
  { cmd := fun p _ => .memWrite p, opcode := 0x0401, seats := allSeats, len := 16, unit := 64, most := 8192, reserved := [(3, 5)], early := false
    slots := fun x p s => s.accessSlots x p 0x401 1 (p.params.length - 16)
    run := fun x p s =>
      let region := beAt p.params 0 2
      let view := beAt p.params 2 1
      let off := beAt p.params 8 8
      let data := p.params.drop 16
      if !memParamsOk region view off data.length then Reply.refuse 2 s
      else match s.hostPlace x p 0x401 region view 1 off data.length with
        | .error (status, f) => { status := status, params := [], fault := some f, state := s }
        | .ok h => Reply.ok [] (s.hostWrite h off data) }

def execMemWrite (p : Packet) (s : State) : Out := .next (receive memWriteSpec p s)

/-! ### REGION_READ and COUNTER_READ (R246, R312) -/

/-- A region entry as it is read; a region beyond the table is unused, 32 bytes of 0 (R246). -/
def State.entryOf (s : State) (i : Nat) : Bytes :=
  match s.regions[i]? with
  | some r => r.entryBytes
  | none => List.replicate 32 0

def regionReadSpec : Spec :=
  { cmd := fun p _ => .regionRead p, opcode := 0x0402, seats := [1, 2, 4], len := 4, long := true
    run := fun _ p s =>
      let first := beAt p.params 0 2
      let count := beAt p.params 2 2
      if 256 < count ∨ 4096 < first + count then Reply.refuse 2 s
      else Reply.ok ((List.range count).flatMap (fun k => s.entryOf (first + k))) s }

def execRegionRead (p : Packet) (s : State) : Out := .next (receive regionReadSpec p s)

def counterReadSpec : Spec :=
  { cmd := fun p _ => .counterRead p, opcode := 0x0403, seats := [2, 4], len := 4, long := true
    run := fun _ p s =>
      let first := beAt p.params 0 2
      let count := beAt p.params 2 2
      if 1024 < count ∨ 65536 < first + count then Reply.refuse 2 s
      else Reply.ok ((List.range count).flatMap (fun k => be32 (s.counter (first + k)))) s }

def execCounterRead (p : Packet) (s : State) : Out := .next (receive counterReadSpec p s)

/-! ### Input rings (R321 to R323) -/

/-- The take that declares a ring of the loaded image. -/
def State.ringTake (s : State) (id : Nat) : Option Take :=
  if s.fcp.rings.any (fun r => r.id == id) then s.takeOf id else none

/-- The place of an extent of a ring's region. -/
def State.ringPlace (t : Take) (off : Nat) (s : State) : HostPlace :=
  let r := s.region t.region
  ⟨r.inHbm, r.hostCore, r.base + off, some t.region⟩

/-- Region offset of an entry's slot (R322). -/
def Take.slotOff (t : Take) (e : Nat) : Nat := e % t.slots * t.entryBytes

/-- The reserved slots of an access to a ring's entry (R21). -/
def State.ringSlots (id e off len : Nat) (s : State) : List (Nat × Nat) :=
  match s.ringTake id with
  | none => []
  | some t => hostSlots (s.ringPlace t (t.slotOff e + off)) len

def ringWriteSpec : Spec :=
  { cmd := fun p _ => .ringWrite p, opcode := 0x0300, seats := allSeats, len := 16, unit := 64, most := 8192, reserved := [(1, 3)]
    slots := fun _ p s => s.ringSlots (beAt p.params 0 1) (beAt p.params 8 8) (beAt p.params 4 4) (p.params.length - 16)
    run := fun x p s =>
      let id := beAt p.params 0 1
      let off := beAt p.params 4 4
      let e := beAt p.params 8 8
      let data := p.params.drop 16
      match s.ringTake id with
      | none => Reply.refuse 0x301 s
      | some t =>
        let r := s.region t.region
        let ring := s.ring id
        if r.owner ≠ x.seat then Reply.refuse 3 s
        else if off % 64 ≠ 0 then Reply.refuse 2 s
        else if ring.window + t.slots ≤ e then Reply.refuse 0x302 s
        else if e < ring.published then Reply.refuse 0x305 s
        else if t.entryBytes < off + data.length then
          { status := 0x401, params := [], state := s,
            fault := some (hostFault 1 t.region 1 r.place (hostAddress r.inHbm r.hostCore (r.base + t.slotOff e + off)) x.id 0x300
              p.seq.toNat 0 0) }
        else
          let h := s.ringPlace t (t.slotOff e + off)
          Reply.ok [] (s.hostWrite h (t.slotOff e + off) data) }

def execRingWrite (p : Packet) (s : State) : Out := .next (receive ringWriteSpec p s)

/-- Checks of an entry that is published (R322, R323). -/
def entryOk (t : Take) (e : Nat) (b : Bytes) : Bool :=
  let n := leAt b 0x10 4
  leAt b 8 8 == e && decide (n ≤ t.entryBytes - 64) && zeroAt b 0x18 40 && (crc32c (slice 64 n b)).toNat == leAt b 0x14 4

/-- A replay record of the ring and entry with the entry's index, length and CRC is loaded (R328). -/
def State.replayMatch (id e : Nat) (b : Bytes) (s : State) : Bool :=
  s.fcp.replayRecs.any (fun r => r.ring == id && r.entry == e && r.index == leAt b 0 8 && r.length == leAt b 0x10 4
    && r.crc == leAt b 0x14 4)

/-- PUBLISHED grows and COUNTER is signalled by 1 (R73, R323). -/
def State.publish (t : Take) (id : Nat) (s : State) : State :=
  let r := s.ring id
  let s := s.setRing { r with published := r.published + 1 }
  s.setCounter t.counter (s.counter t.counter + 1)

def ringPublishSpec : Spec :=
  { cmd := fun p _ => .ringPublish p, opcode := 0x0301, seats := allSeats, len := 16, reserved := [(1, 7)]
    slots := fun _ p s => match s.ringTake (beAt p.params 0 1) with
      | some t => s.ringSlots (beAt p.params 0 1) (beAt p.params 8 8) 0 t.entryBytes
      | none => []
    run := fun x p s =>
      let id := beAt p.params 0 1
      let e := beAt p.params 8 8
      match s.ringTake id with
      | none => Reply.refuse 0x301 s
      | some t =>
        let r := s.region t.region
        if r.owner ≠ x.seat then Reply.refuse 3 s
        else if e ≠ (s.ring id).published then Reply.refuse 0x303 s
        else
          let h := s.ringPlace t (t.slotOff e)
          let (marks, gran) := s.marksAt h
          let s := s.readBanks h h.addr t.entryBytes
          match (eccScan marks gran h.addr t.entryBytes).1 with
          | some a => Reply.refuse 0x404 (s.hostUncorrected h a x p 0x301)
          | none =>
            let s := s.correct h.hbm (eccGood marks gran h.addr t.entryBytes)
            let b := (s.memAt h).readBytes h.addr t.entryBytes
            if !entryOk t e b then Reply.refuse 0x304 s
            else if s.job.replay && !s.replayMatch id e b then
              Reply.refuse 0x306 (s.event 21 (u8 id ++ List.replicate 7 0 ++ le64 e) [])
            else
              let s := { s with fcp := { s.fcp with
                replayRecs := s.fcp.replayRecs.filter (fun r => !(s.job.replay && r.ring == id && r.entry == e)) } }
              let s := s.publish t id
              Reply.ok (be64 (s.ring id).published) s }

def execRingPublish (p : Packet) (s : State) : Out := .next (receive ringPublishSpec p s)

def ringStatusSpec : Spec :=
  { cmd := fun p _ => .ringStatus p, opcode := 0x0302, seats := allSeats, len := 1, long := true
    run := fun x p s =>
      let id := beAt p.params 0 1
      match s.ringTake id with
      | none => Reply.refuse 0x301 s
      | some t =>
        let r := s.ring id
        if !([(s.region t.region).owner, 2, 4].contains x.seat) then Reply.refuse 3 s
        else Reply.ok (be16 t.region ++ be16 t.slots ++ be32 t.entryBytes ++ be16 t.counter ++ be64 r.published ++ be64 r.taken
          ++ be64 r.window) s }

def execRingStatus (p : Packet) (s : State) : Out := .next (receive ringStatusSpec p s)

/-! ### REPLAY_LOAD (R312, R328) -/

/-- A type 1 record: every barrier-class field of its register, pending at its barrier (R328). -/
def State.replayShadow (b : Bytes) (s : State) : Option State :=
  let f := leAt b 4 4
  let n := f / 2 ^ 20
  if f % 2 ^ 16 ≠ 0 ∨ classMask n .barrier = 0 ∨ (s.regValue n (f / 2 ^ 16 % 16)).isNone then none
  else some (s.addShadow ⟨f, BitVec.ofNat 64 (leAt b 8 8), BitVec.ofNat 64 (classMask n .barrier), leAt b 0x10 8, false⟩)

/-- Records in order: how many were accepted, whether a record of no known form was met, and the state (R328). -/
def loadReplay : Nat → State → List Bytes → Nat × Bool × State
  | k, s, [] => (k, false, s)
  | k, s, b :: bs =>
    let t := leAt b 0 1
    if t = 0 then
      if !zeroAt b 2 2 || !zeroAt b 0x1C 4 || decide (63 < leAt b 1 1) then (k, true, s)
      else
        let r : ReplayRec := ⟨0, leAt b 1 1, leAt b 4 4, leAt b 8 8, leAt b 0x10 8, leAt b 0x18 4⟩
        let kept := s.fcp.replayRecs.filter (fun x => !(x.ring == r.ring && x.entry == r.entry))
        loadReplay (k + 1) { s with fcp := { s.fcp with replayRecs := kept ++ [r] } } bs
    else if t = 1 then
      if !zeroAt b 1 3 || !zeroAt b 0x18 8 then (k, true, s)
      else match s.replayShadow b with
        | none => (k, false, s)
        | some s => loadReplay (k + 1) s bs
    else (k, true, s)

def replayLoadSpec : Spec :=
  { cmd := fun p _ => .replayLoad p, opcode := 0x0303, seats := [2, 5], len := 0, unit := 32, most := 4096, early := false
    run := fun _ p s =>
      let (k, bad, s) := loadReplay 0 s (chunks 32 p.params)
      if bad then Reply.refuse 2 s else Reply.ok (be16 k) s }

def execReplayLoad (p : Packet) (s : State) : Out := .next (receive replayLoadSpec p s)

end Sys2Proof.Machine
end

