-- ==== Sys2Proof/Machine/Checkpoint.lean ====
section
/-! DEFINITION. Checkpoints and restores by packet: requests, chunks, acknowledgements, and the restore with its checks (R80, R140,
R155, R177, R251, R252, R312, R316, R327, R369 to R376). -/
namespace Sys2Proof.Machine

/-! ### Which barrier a request names (R80, R369) -/

/-- The barriers still to come whose action 2 has not begun, in order: the present one, the rest of the step, then the programs that
follow (R77, R166). -/
def State.upcoming (s : State) : List BarrierRec :=
  match s.image with
  | none => []
  | some im =>
    let here := match s.job.barrier with
      | some r => if s.job.resume == .action4 then [] else [r]
      | none => []
    let inWindow := fun (r : BarrierRec) => r.offset == s.stepOffset && s.job.lastBarrier.toNat == r.id
    let starting := s.job.starting && s.job.resume == .start
    let rest := if starting then s.program!.barriers
      else s.program!.barriers.filter (fun r => decide (s.stepOffset ≤ r.offset) && !inWindow r && !here.any (fun h => h.id == r.id))
    let p1 := nextProgram im s.job.program
    let p2 := nextProgram im p1
    here ++ rest ++ (im.programs.getD p1 Program.empty).barriers ++ (im.programs.getD p2 Program.empty).barriers

/-- The number of the first COMMIT barrier at or after a number, 0 for the next; a number with no barrier in sight is taken as it
stands (R80, R369; DEDUCED, log 73). -/
def State.commitSeq (seq : Nat) (s : State) : Nat :=
  let first := s.nextSeq
  let l := s.upcoming
  match (List.range l.length).find? (fun k =>
    decide (seq ≤ first + k) && (match l[k]? with | some r => r.commit | none => false)) with
  | some k => first + k
  | none => max seq first

/-! ### CKPT_REQUEST, CKPT_ACK, CKPT_STATUS (R312, R316, R369, R374) -/

/-- The image books link positions of TX_KIND 3 (R263, R374). -/
def State.buddyBooked (s : State) : Bool :=
  match s.image with
  | none => false
  | some im => im.programs.any (fun p => p.links.any (fun t => t.entries.any (fun e => txKind e == 3)))

/-- A request names barrier 0 where the job stands: it streams the capture at once (R369). -/
def State.streamsNow (seq : Nat) (s : State) : Bool := seq == 0 && (s.job.st == .halted || s.job.st == .faultHeld)

def requestStatus (seq dest : Nat) (s : State) : Nat :=
  if 1 < dest then 2
  else if s.job.st == .empty || s.job.st == .loaded then 0x502
  else if s.ckpt.st = 1 ∨ s.ckpt.st = 2 then 0x501
  else if seq ≠ 0 ∧ seq ≤ s.releasedSeq then 0x702
  else if dest = 1 && !s.buddyBooked then 2
  else if s.streamsNow seq && s.ckpt.capture.isNone then 0x502
  else 0

def ckptRequestSpec : Spec :=
  { cmd := fun p _ => .ckptRequest p, opcode := 0x0500, seats := [2, 5], len := 9
    run := fun x p s =>
      let seq := beAt p.params 0 8
      let dest := beAt p.params 8 1
      let status := requestStatus seq dest s
      if status ≠ 0 then Reply.refuse status s
      else
        let s := { s with ckpt := { s.ckpt with buddy := dest == 1, session := x.id, st := 1 } }
        if s.streamsNow seq then
          let n := match s.ckpt.capture with | some c => c.barrierSeq | none => 0
          Reply.ok (be64 n) s.startStream
        else
          let n := s.commitSeq seq
          Reply.ok (be64 n) { s with ckpt := { s.ckpt with target := n } } }

def execCkptRequest (p : Packet) (s : State) : Out := .next (receive ckptRequestSpec p s)

/-- Unconfirmed bytes that the module keeps (R316). -/
def ckptWindow : Nat := 64 * 2 ^ 20

/-- A stream is complete: its event (R319). -/
def State.completeStream (s : State) : State :=
  let d := le64 s.ckpt.step ++ le32 s.ckpt.stream ++ u8 0
  ({ s with ckpt := { s.ckpt with st := 3, holding := false } }).event 15 d []

/-- CKPT_ACK: another session draws SEAT; an offset that was never sent draws BAD_PARAMS; an offset confirmed before, or of a stream
that has ended, changes nothing (R316; DEDUCED, log 74). -/
def ckptAckSpec : Spec :=
  { cmd := fun p _ => .ckptAck p, opcode := 0x0501, seats := [2, 5], len := 16, reserved := [(4, 4)]
    run := fun x p s =>
      let stream := beAt p.params 0 4
      let off := beAt p.params 8 8
      if s.ckpt.stream = 0 || s.ckpt.buddy || s.ckpt.session ≠ x.id then Reply.refuse 3 s
      else if s.ckpt.st ≠ 2 || stream ≠ s.ckpt.stream then Reply.ok [] s
      else if s.ckpt.read < off then Reply.refuse 2 s
      else
        let s := { s with ckpt := { s.ckpt with acked := max s.ckpt.acked off, sent := max s.ckpt.sent off } }
        Reply.ok [] (if s.ckpt.data.length ≤ s.ckpt.acked then s.completeStream.releaseCkpt else s) }

def execCkptAck (p : Packet) (s : State) : Out := .next (receive ckptAckSpec p s)

def ckptStatusSpec : Spec :=
  { cmd := fun p _ => .ckptStatus p, opcode := 0x0502, seats := [2, 5, 4], len := 0
    run := fun _ _ s =>
      Reply.ok (u8 s.ckpt.st ++ be32 s.ckpt.stream ++ be64 s.ckpt.step ++ be64 s.ckpt.sent ++ be64 s.ckpt.acked) s }

def execCkptStatus (p : Packet) (s : State) : Out := .next (receive ckptStatusSpec p s)

/-! ### The stream leaves (R316, R370, R373) -/

/-- What a tile that the checkpoint engine finds bad adds to its fault (R237, R363). -/
def State.ckptEvidence (f : FaultRec) (s : State) : State :=
  let r := s.region f.region
  if f.region = 0xFFFF then s
  else if f.kind = 4 ∧ r.inHbm then s.addRepair (rowEntryAt f.address 1)
  else if f.kind = 3 then
    match allCores.find? (fun c : Fin 8 => bitAt r.cores c.val) with
    | none => (crcEvidence s r 0 f.progressB 0).foldl (fun s e => s.apply e) s
    | some c => (crcEvidence s r c f.progressB ((s.core c).mem.read (s.provAt r f.progressB))).foldl (fun s e => s.apply e) s
  else s

/-- The next part of the stream that the engine reads: at most `n` bytes; a read that fails is a fault of the engine and ends the
stream (R251, R253, R370). -/
def State.readPart (n : Nat) (s : State) : Option Bytes × State :=
  let off := s.ckpt.sent
  let part := (s.ckpt.data.drop off).take n
  let upTo := off + part.length
  match s.ckpt.failAt with
  | some (o, f) =>
    if o < upTo then (none, ((s.raiseFault f).ckptEvidence f).endStream)
    else (some part, { s with ckpt := { s.ckpt with sent := upTo, read := max s.ckpt.read upTo, fetched := max s.ckpt.fetched upTo } })
  | none => (some part, { s with ckpt := { s.ckpt with sent := upTo, read := max s.ckpt.read upTo, fetched := max s.ckpt.fetched upTo } })

/-- The engine has the next `n` bytes of the stream: while the schedule runs, reserved fabric slots have brought them (R21). -/
def State.fetchedPart (n : Nat) (s : State) : Bool :=
  !s.scheduleRuns || decide (min s.ckpt.data.length (s.ckpt.sent + n) ≤ s.ckpt.fetched)

/-- Bytes of a chunk for a port: a block of at most 8,192 bytes within the MTU, a multiple of 64 (R300). -/
def State.chunkSize (s : State) (port : Fin 2) : Nat := min 8192 ((s.roomOf port - 16) / 64 * 64)

/-- One CKPT_CHUNK packet, padded with 0 to a multiple of 64 (R298, R300, R312, R316). -/
def chunkPacket (x : Session) (stream off wall : Nat) (part : Bytes) : OutPacket :=
  { port := x.port, dst := x.src, flags := 4, session := x.id, seq := (x.chunks + 1) % 2 ^ 32, opcode := 0x0510, status := 0,
    wall := wall, params := be32 stream ++ be32 0 ++ be64 off ++ padTo (roundUp part.length 64) part, tag := [] }

/-- CKPT_CHUNK: the next part goes to the session that asked (R316). -/
def execCkptChunk (s : State) : Out :=
  match s.session s.ckpt.session with
  | none => .next s
  | some x =>
    let off := s.ckpt.sent
    let n := s.chunkSize x.port
    let more := decide (off < s.ckpt.data.length ∧ off + n ≤ s.ckpt.acked + ckptWindow)
    let room := decide (s.eth[x.port].occupancy + 64 + n ≤ egressSize)
    if !s.firmwareServes || s.ckpt.st ≠ 2 || s.ckpt.buddy || s.ckptMaster || !more || !room || !s.fetchedPart n then .next s
    else
      match s.readPart n with
      | (none, s) => .next s.releaseCkpt
      | (some part, s) =>
        let s := s.send ((chunkPacket x s.ckpt.stream off s.wall.toNat part).sign (some x.key))
        .next (s.modSession x.id (fun y => { y with chunks := y.chunks + 1 })).releaseCkpt

/-- CKPT_RESEND: no acknowledgement advanced for 2 ms, and the stream goes back to the last OFFSET confirmed (R316). -/
def execCkptResend (s : State) : Out :=
  if s.ckpt.st = 2 && !s.ckpt.buddy then .next { s with ckpt := { s.ckpt with sent := s.ckpt.acked } } else .next s

/-! ### RESTORE_BEGIN and RESTORE_DATA (R312, R375) -/

def restoreBeginSpec : Spec :=
  { cmd := fun p _ => .restoreBegin p, opcode := 0x0503, seats := [2], len := 8
    run := fun _ p s =>
      if s.job.st != .loaded then Reply.refuse 0x503 s
      else
        let n := s.ckpt.stream + 1
        Reply.ok (be32 n) { s with ckpt := { s.ckpt with
          st := 5, stream := n, step := 0, restoreLen := beAt p.params 0 8, restoreStream := some n, restoreBuf := [], data := [],
          sent := 0, acked := 0, read := 0 } } }

def execRestoreBegin (p : Packet) (s : State) : Out := .next (receive restoreBeginSpec p s)

/-- The stream of a restore under way (R375). -/
def State.restoring (stream : Nat) (s : State) : Bool := s.job.st == .loaded && s.ckpt.st == 5 && s.ckpt.restoreStream == some stream

def restoreDataSpec : Spec :=
  { cmd := fun p _ => .restoreData p, opcode := 0x0504, seats := [2, 5], len := 16, unit := 64, most := 8192, reserved := [(4, 4)]
    run := fun _ p s =>
      let off := beAt p.params 8 8
      let data := p.params.drop 16
      if s.job.st != .loaded || s.ckpt.st ≠ 5 then Reply.refuse 0x503 s
      else if !s.restoring (beAt p.params 0 4) || off % 64 ≠ 0 || roundUp s.ckpt.restoreLen 64 < off + data.length then
        Reply.refuse 2 s
      else Reply.ok [] { s with ckpt := { s.ckpt with restoreBuf := s.ckpt.restoreBuf.writeBytes off data } } }

def execRestoreData (p : Packet) (s : State) : Out := .next (receive restoreDataSpec p s)

/-! ### RESTORE_END: the stream in parts (R371, R372) -/

/-- A section of a stream: type, tensor id, entries, tile bytes, body. -/
structure StreamSection where
  type : Nat
  tensor : Nat
  entries : Nat
  total : Nat
  tileBytes : Nat
  body : Bytes
deriving DecidableEq, Repr

/-- Sections from an offset; none where a header's CRC fails or a body runs past the end (R371, R375 check 1). -/
def parseSections : Nat → Bytes → Option (List StreamSection)
  | 0, b => if b.isEmpty then some [] else none
  | k + 1, b =>
    let len := leAt b 0x10 8
    let full := 32 + roundUp len 64
    if b.length < full ∨ leAt b 0x1C 4 ≠ (crc32c (slice 0 28 b)).toNat then none
    else match parseSections k (b.drop full) with
      | none => none
      | some l => some (⟨leAt b 0 2, leAt b 4 4, leAt b 8 4, leAt b 0x0C 4, leAt b 0x18 4, slice 32 len b⟩ :: l)

/-- An entry of a type 4 section: tile index, CRC, provenance, data where it carries any (R372). -/
structure StreamTile where
  index : Nat
  crc : Nat
  data : Option Bytes
deriving DecidableEq, Repr

/-- The tiles of a type 4 section (R372). -/
def StreamSection.tiles (x : StreamSection) : List StreamTile :=
  let base := roundUp (9 * x.entries) 64
  ((List.range x.entries).foldl (fun (acc : List StreamTile × Nat) k =>
    let w := leAt x.body (8 * k) 4
    let crc := leAt x.body (8 * k + 4) 4
    if bitAt w 31 then (acc.1 ++ [⟨w - 2 ^ 31, crc, none⟩], acc.2)
    else (acc.1 ++ [⟨w, crc, some (slice acc.2 x.tileBytes x.body)⟩], acc.2 + x.tileBytes)) ([], base)).1

/-- A restore stream. -/
structure RestoreStream where
  head : Bytes
  sections : List StreamSection
deriving DecidableEq, Repr

def RestoreStream.body (r : RestoreStream) (type : Nat) : Bytes :=
  match r.sections.find? (fun x => x.type == type) with
  | some x => x.body
  | none => []

def RestoreStream.tensors (r : RestoreStream) : List StreamSection := r.sections.filter (fun x => x.type == 4)

/-- Check 1 of R375: the stream in parts. -/
def parseStream (b : Bytes) : Option RestoreStream :=
  let head := slice 0 128 b
  if leAt head 0 4 ≠ 0x434B5054 ∨ leAt head 4 2 ≠ 1 ∨ b.length < 128 ∨ leAt head 0x78 8 ≠ b.length then none
  else match parseSections (leAt head 0x0C 4) (b.drop 128) with
    | none => none
    | some l => some ⟨head, l⟩

/-- The stream and the image have one CLUSTER_DIGEST (R375, R376). -/
def sameCluster (im : Image) (r : RestoreStream) : Bool := slice 0x38 32 r.head == padTo 32 im.hdr.clusterDigest

/-- Check 2 of R375. -/
def restoreManifestOk (im : Image) (r : RestoreStream) : Bool :=
  slice 0x18 32 r.head == padTo 32 im.hdr.manifestDigest && (sameCluster im r || (bitAt (leAt r.head 0x0A 2) 0 && im.hdr.levelB))

/-- Check 3 of R375. -/
def restoreTilesOk (r : RestoreStream) : Bool :=
  r.tensors.all (fun x => x.tiles.all (fun t => match t.data with
    | some d => (crc32c d).toNat == t.crc
    | none => true))

/-- The fingerprint tables of section 3: parameters, then ledger (R201, R372). -/
def RestoreStream.tables (r : RestoreStream) : Bytes × Bytes :=
  let b := r.body 3
  let na := leAt b 0 4
  (slice 4 (36 * na) b, slice (8 + 36 * na) (36 * leAt b (4 + 36 * na) 4) b)

/-- The fingerprint of a tensor in a table (R201). -/
def tableEntry (t : Bytes) (id : Nat) : Option Bytes :=
  ((chunks 36 t).find? (fun e => leAt e 0 4 == id)).map (fun e => slice 4 32 e)

/-- The CRCs of a tensor over every section that carries part of it, by tile index; none where one is missing (R51, R375). -/
def fullCrcs (n : Nat) (x : List StreamTile) : Option (List Nat) :=
  (List.range n).foldr (fun k acc => match acc, x.find? (fun t => t.index == k) with
    | some l, some t => some (t.crc :: l)
    | _, _ => none) (some [])

/-- Check 4 of R375: the fingerprint of every tensor of the tables, which must have its section, and the step fingerprint. -/
def restoreFprintOk (r : RestoreStream) : Bool :=
  let (ta, tb) := r.tables
  r.tensors.all (fun x => match fullCrcs x.total x.tiles with
    | some l => tableEntry (ta ++ tb) x.tensor == some (sha256 (l.flatMap le32))
    | none => false)
  && (chunks 36 (ta ++ tb)).all (fun e => r.tensors.any (fun x => x.tensor == leAt e 0 4))
  && sha256 (ta ++ tb) == slice 0x58 32 r.head

/-- Check 5 of R375: every tile that the regions hold came with data. -/
def restoreHeldOk (held : List TensorPlace) (r : RestoreStream) : Bool :=
  held.all (fun p => match r.tensors.find? (fun x => x.tensor == p.id) with
    | none => p.tiles.isEmpty
    | some x => p.tiles.all (fun t => x.tiles.any (fun y => y.index == t.1 && y.data.isSome)))

/-- The regions that a restore writes let the engine write (R248). -/
def State.mayRestore (s : State) : Bool :=
  s.heldTensors.all (fun p => p.tiles.isEmpty || ((s.region (s.memberOf p.region false)).grants 4 1
    && (!(s.region p.region).ledger || (s.region (s.memberOf p.region true)).grants 4 1)))

/-- Status of a restore, 0 when it is accepted, with the stream (R375). A region that does not let the engine write refuses it as check 5
does (R248, R251; DESIGN CHOICE, log 152). -/
def restoreStatus (im : Image) (held : List TensorPlace) (may : Bool) (b : Bytes) : Nat × Option RestoreStream :=
  match parseStream b with
  | none => (0x505, none)
  | some r =>
    if !restoreManifestOk im r then (0x504, some r)
    else if !restoreTilesOk r then (0x505, some r)
    else if !restoreFprintOk r then (0x506, some r)
    else if !restoreHeldOk held r || !may then (0x506, some r)
    else (0, some r)

/-! ### RESTORE_END: what it does (R140, R177, R327, R376) -/

/-- A tile is written into a member of its region with its check entry, provenance UNIT 6 (R376). -/
def State.restoreTile (i j : Nat) (data : Bytes) (s : State) : State :=
  let r := s.region i
  let c := s.region r.checkRegion
  let parts := (r.segments j).mapIdx (fun k o => (r.base + o, slice (k * r.segment) r.segment data))
  writePlace r (parts.map (fun x => (x.1, x.2.length)) ++ (if r.check then entryExtents c r j else [])) (fun core m =>
    let m := parts.foldl (fun m x => m.writeBytes x.1 x.2) m
    if r.check then
      (m.writeBytes (c.base + 4 * j) (le32 (crc32c data).toNat)).write (c.base + 4 * r.tiles + j) (provenance core 6 0)
    else m) s

/-- The data of a stream: parameters into shelf 0, the ledger into both ledger shelves (R177, R376). -/
def State.restoreTensor (x : StreamSection) (s : State) (p : TensorPlace) : State :=
  let ts := x.tiles
  let members := if (s.region p.region).ledger then [s.memberOf p.region false, s.memberOf p.region true]
    else [s.memberOf p.region false]
  p.tiles.foldl (fun s t => match (ts.find? (fun y => y.index == t.1 && y.data.isSome)).bind (·.data) with
    | some d => members.foldl (fun s i => s.restoreTile i t.2 d) s
    | none => s) s

/-- Anchors and quanta of step `t` from the ledger in shelf 0 (R139, R140, R155, R156). -/
def State.restoreTables (im : Image) (t : Nat) (s : State) : State :=
  let r := s.ledgerShelf false
  let rows := im.seed.entries.mapIdx (fun j e =>
    let b := s.hbm.mem.readBytes (r.base + 544 * j) 544
    let a := deriveAnchor b t
    (e.anchorId, a, deriveQuantum b (if e.kind = 1 then e.gxKeep else 0) t a))
  let anchors := rows.foldl (fun l x => tabSet x.1 x.2.1 l) []
  let quanta := rows.foldl (fun l x => tabSet x.1 x.2.2 l) []
  { s with cores := s.cores.map (fun k : CoreState => { k with anchors := anchors, quanta := quanta, groups := [] }) }

/-- The class B values of a stream take effect and are logged as at action 2 (R376). -/
def State.restoreClassB (b : Bytes) (s : State) : State :=
  let seq := leAt b 0 8
  (List.range (leAt b 0x18 4)).foldl (fun s k =>
    let f := leAt b (0x20 + 16 * k) 4
    let n := f / 2 ^ 20
    let inst := f / 2 ^ 16 % 16
    match s.regValue n inst with
    | none => s
    | some old =>
      let s := s.setReg n inst (mergeBits old (leAt b (0x28 + 16 * k) 8) (classMask n .barrier)) 0
      s.event 3 (le32 f ++ le32 0 ++ le64 ((s.regValue n inst).getD 0) ++ le64 seq) []) s

/-- Each ring's counts and counter: the target of its first wait in the restored step less that take's COUNT (R327). -/
def State.restoreRings (im : Image) (s : State) : State :=
  let order := (im.programs.getD s.job.program Program.empty).barriers ++ im.programs.flatMap (·.barriers)
  s.fcp.rings.foldl (fun s r =>
    match order.findSome? (fun b => match b.takes.find? (fun t => t.ring == r.id) with
      | none => none
      | some t => (b.waits.find? (fun w => w.counter == t.counter)).map (fun w => (t, w))) with
    | none => s
    | some (t, w) =>
      let n := (w.base + w.step * s.job.stepNum.toNat + 2 ^ 32 - t.count) % 2 ^ 32
      (s.setRing { r with published := n, taken := n, window := n }).setCounter t.counter n) s

/-- Counters, BARRIER_SEQ and SCHED_CYCLE (R39, R376). -/
def State.restoreCounts (im : Image) (r : RestoreStream) (s : State) : State :=
  let b := r.body 2
  if sameCluster im r then
    let base := roundUp (0x20 + 16 * leAt b 0x18 4) 64
    { s with
      counters := { s.counters with
        values := s.counters.owners.foldl (fun t o => tabSet o.1 (BitVec.ofNat 32 (leAt b (base + 4 * o.1) 4)) t) [] }
      sched := BitVec.ofNat 64 (leAt b 8 8 + 32)
      job := { s.job with barrierSeq := BitVec.ofNat 64 (leAt b 0 8) } }
  else
    { s with counters := { s.counters with values := s.counters.initial }, sched := 0, job := { s.job with barrierSeq := 0 } }

/-- A parameter shelf whose contents are undefined: free values (R177, R375, log 1, log 141). -/
def State.spoilShelf (shelf : Bool) (s : State) : State :=
  let (n, s) := s.drawFree
  s.heldTensors.foldl (fun s p =>
    if (s.region p.region).ledger then s else
    let i := s.memberOf p.region shelf
    let r := s.region i
    p.tiles.foldl (fun s t => writePlace r ((r.segments t.2).map (fun o => (r.base + o, r.segment))) (fun _ m =>
      (r.segments t.2).foldl (fun m o =>
        m.writeBytes (r.base + o) ((List.range r.segment).map (fun k => Config.freeByte n (r.base + o + k)))) m) s) s) s

/-- A commit record slot whose contents are undefined (R177, log 141). -/
def State.spoilSlot (shelf : Bool) (s : State) : State :=
  let (n, s) := s.drawFree
  s.apply (.hbm (s.commitAddr shelf) ((List.range 128).map (Config.freeByte n)))

/-- An accepted restore (R376); shelf 1 and slot 1 are undefined after it (R177), the counts of LEDGER_STATE are those of the step that
the ledger closed (R141); the input log goes on at INPUT_LOG_POS of the record (DEDUCED, log 75). -/
def State.restore (im : Image) (r : RestoreStream) (s : State) : State :=
  let rcd := padTo 128 (r.body 1)
  let step := leAt rcd 8 8
  let pos := leAt rcd 0x28 8
  let s := s.heldTensors.foldl (fun s p => match r.tensors.find? (fun x => x.tensor == p.id) with
    | some x => s.restoreTensor x p
    | none => s) s
  let s := ((s.spoilShelf true).spoilSlot true).apply (.hbm (s.commitAddr false) rcd)
  let s := { s with
    job := { s.job with
      g := false, lg := false, stepNum := BitVec.ofNat 64 (step + 1), paramStep := BitVec.ofNat 64 (leAt rcd 0x10 8),
      inputCount := BitVec.ofNat 64 pos, restored := true, program := leAt (r.body 2) 0x1C 1, resume := .start }
    log := { s.log with input := [], inputNext := pos, inputAcked := pos, inputLow := false } }
  let s := s.restoreTables im (step + 1)
  let s := { s with job := { s.job with
    ovfRecords := BitVec.ofNat 16 (s.ledgerCount false step 1), invRecords := BitVec.ofNat 16 (s.ledgerCount false step 2) } }
  let s := s.restoreClassB (r.body 2)
  let s := (s.restoreCounts im r).restoreRings im
  { s with ckpt := { s.ckpt with st := 3, step := step, restoreStream := none, restoreBuf := [] } }

def restoreEndSpec : Spec :=
  { cmd := fun p _ => .restoreEnd p, opcode := 0x0505, seats := [2], len := 4
    run := fun _ p s =>
      if s.job.st != .loaded || s.ckpt.st ≠ 5 then Reply.refuse 0x503 s
      else if !s.restoring (beAt p.params 0 4) then Reply.refuse 2 s
      else match s.image with
        | none => Reply.refuse 0x503 s
        | some im =>
          match restoreStatus im s.heldTensors s.mayRestore (s.ckpt.restoreBuf.readBytes 0 s.ckpt.restoreLen) with
          | (0, some r) =>
            let s := s.restore im r
            Reply.ok (be64 s.ckpt.step) s
          | (status, _) =>
            let s := { s with
              job := { s.job with restored := false },
              ckpt := { s.ckpt with st := 6, restoreStream := none, restoreBuf := [] } }
            Reply.refuse status (s.spoilShelf false) }

def execRestoreEnd (p : Packet) (s : State) : Out := .next (receive restoreEndSpec p s)

end Sys2Proof.Machine
end

