-- ==== Sys2Proof/Machine/Common.lean ====
section
/-! DEFINITION. The common operations of the timed instruction streams (R67, R74, R75). -/
namespace Sys2Proof.Machine

/-- A common operation issues: it occupies no unit (R69). -/
def issueCommon (i : Issue) (extra : Nat) (f : State → State) (s : State) : State :=
  if s.canIssue i then (f s).advance i extra else s

/-- NOP (R67): no effect but the stream's position. -/
def execNop (i : Issue) (s : State) : Out := worded (nopWord i) (issueCommon i 0 (fun s => s) s)

/-- DELAY (R67): the next head word issues DELTA + COUNT ac after this one. -/
def execDelay (i : Issue) (s : State) : Out := worded (delayWord i) (issueCommon i (wf i.head 0 32) (fun s => s) s)

/-- The secondary of a primary issues the same head word in this ac: it has done so, or its stream stands at the word (R353, R354). -/
def State.mateIssues (i : Issue) (s : State) : Bool :=
  let c := secondary i.core
  let k := s.core c
  let p := k.streams[i.unit]
  k.trace.contains (s.now, i.head)
  || (!p.frozen && p.base + headDelta i.head == s.now && (s.program!.streams.getD (8 * c.val + i.unit.val) [])[p.pos]? == some i.head)

/-- A counter operation of a pair that only the primary issues: a fault of kind CRC at use of the primary's sequencer, and a pair mismatch
(R354, R355, R363). DETAIL is the CRC of the secondary's operation, which is none. -/
def State.counterMismatch (i : Issue) (s : State) : State :=
  (s.raiseFault (faultRec 3 (seqMaster i.core i.unit) 0xFFFF 1 0 0 (s.headIndex i) (issueOpcode i) 0 0 (crc32c []).toNat)).apply
    (.suspect 2 0xFF)

/-- A counter change that happens in ac c + 1 and is seen from ac c + 2 (R74); of a pair the two operations are compared whole, and the
primary's is made (R354, R355). -/
def counterChange (i : Issue) (e : Effect) (s : State) : State :=
  if s.silent i.core then s
  else if s.paired && !s.mateIssues i then s.counterMismatch i
  else { s with inflight := s.inflight ++ [⟨s.now + 1, false, s.origin i, e⟩] }

/-- SIGNAL (R67, R74). -/
def execSignal (i : Issue) (s : State) : Out :=
  worded (counterWord 0x008 i)
    (issueCommon i 0 (counterChange i (.counterAdd (wf i.head 0 16) (BitVec.ofNat 32 (wf i.head 32 32)))) s)

/-- SET (R67, R74). -/
def execSet (i : Issue) (s : State) : Out :=
  worded (counterWord 0x009 i)
    (issueCommon i 0 (counterChange i (.counterSet (wf i.head 0 16) (BitVec.ofNat 32 (wf i.head 32 32)))) s)

/-- The check of EXPECT: a mismatch is a schedule fault of the issuing core's sequencer (R75). -/
def expectCheck (i : Issue) (s : State) : State :=
  let found := s.counter (wf i.head 0 16)
  let want := wf i.head 32 32
  if found = want then s
  else s.raiseFault (faultRec 7 (seqMaster i.core i.unit) 0xFFFF 6 0 0 (s.headIndex i) 0x00A 0 want found)

/-- EXPECT (R67, R75). -/
def execExpect (i : Issue) (s : State) : Out := worded (counterWord 0x00A i) (issueCommon i 0 (expectCheck i) s)

end Sys2Proof.Machine
end

