-- ==== Sys2Proof/Machine/Sessions.lean ====
section
/-! DEFINITION. Sessions, seats and claiming, and the packets that no session takes (R89, R90, R301 to R312, R396). -/
namespace Sys2Proof.Machine

def nopSpec : Spec := { cmd := fun p _ => .fcpNop p, opcode := 0x0100, seats := allSeats, len := 0, run := fun _ _ s => Reply.ok [] s }

/-- FCP NOP (R312). -/
def execFcpNop (p : Packet) (s : State) : Out := .next (receive nopSpec p s)

/-! ### Opening and authentication (R303, R304) -/

/-- The lowest free session id (R302; DESIGN CHOICE which, log 50). -/
def State.freeSession (s : State) : Option Nat :=
  ((List.range 1024).map (· + 1)).find? (fun i => (s.session i).isNone)

/-- The values of R304. -/
def hostProof (key hn dn : Bytes) (seat : Nat) : Bytes := hmac key (ascii "FCP host proof" ++ hn ++ dn ++ u8 seat)
def deviceProof (key hn dn : Bytes) (seat : Nat) : Bytes := hmac key (ascii "FCP device proof" ++ dn ++ hn ++ u8 seat)
def sessionKey (key hn dn : Bytes) (seat id : Nat) : Bytes := hmac key (ascii "FCP session" ++ hn ++ dn ++ u8 seat ++ be16 id)

/-- SESSION_OPEN (R303): the device nonce is a free value (log 1). -/
def openSession (p : Packet) (s : State) : Reply :=
  let seat := beAt p.params 0 1
  if !(allSeats.contains seat) then Reply.refuse 2 s
  else if !s.claimed then Reply.refuse 0x104 s
  else match s.seatKey seat with
    | none => Reply.refuse 0x102 s
    | some key =>
      match s.freeSession with
      | none => Reply.refuse 0x101 s
      | some id =>
        if 64 ≤ (s.fcp.sessions.filter (fun x => x.st == .pending)).length then Reply.refuse 0x101 s
        else
          let (n, s) := s.drawFree
          let hn := slice 8 32 p.params
          let dn := padTo 32 (Config.trngBytes n)
          let x : Session :=
            { id := id, seat := seat, st := .pending, key := sessionKey key hn dn seat id, hostNonce := hn, devNonce := dn,
              high := 0, seen := [], mask := 0x200, port := p.port, src := p.src, notices := 0, chunks := 0, report := none }
          Reply.ok (be16 id ++ List.replicate 6 0 ++ dn)
            { s with fcp := { s.fcp with sessions := insertSession x s.fcp.sessions } }

def openSpec : Spec :=
  { cmd := fun p _ => .sessionOpen p, opcode := 0x0101, seats := [], len := 40, reserved := [(1, 7)], run := fun _ p s => openSession p s }

def execSessionOpen (p : Packet) (s : State) : Out := .next (receiveBoth openSpec (fun s => !s.sec.trngFail) p s)

/-- SESSION_AUTH of a pending session (R304). -/
def authenticate (x : Session) (p : Packet) (s : State) : State :=
  match s.seatKey x.seat with
  | none => s.dropTag p.port
  | some key =>
    let good := (hmac x.key (packetBody p 0x0102)).take 16 == p.tag && !(packetUnauth p)
    if p.params != hostProof key x.hostNonce x.devNonce x.seat then
      (s.closeSession x.id).reply p 0x0102 none 0x103 []
    else if !good then s.dropTag p.port
    else if p.version != 1 then s.reply p 0x0102 (some x.key) 5 []
    else if !(packetHeaderOk p) then s.reply p 0x0102 (some x.key) 2 []
    else
      let proof := deviceProof key x.hostNonce x.devNonce x.seat
      let s := s.modSession x.id (fun y =>
        { y with st := .open_, port := p.port, src := p.src, high := 0, seen := [⟨p.seq.toNat, p.tag.take 4, 0, proof⟩] })
      s.reply p 0x0102 (some x.key) 0 proof

def authSpec : Spec := { cmd := fun p _ => .sessionAuth p, opcode := 0x0102, seats := [], len := 32, run := fun _ _ s => Reply.refuse 3 s }

def execSessionAuth (p : Packet) (s : State) : Out :=
  match s.session p.session.toNat with
  | some x =>
    if x.st == .pending then
      .next (arrive authSpec p (fun s => if p.magic != 0x46454C54 then s.dropTag p.port else authenticate x p s) s)
    else .next (receive authSpec p s)
  | none => .next (receive authSpec p s)

/-! ### Closing, thawing, subscribing, listing (R301, R308, R309) -/

/-- SESSION_CLOSE: a session's own, or any for the Operator (R309, R312). -/
def closeSpec : Spec :=
  { cmd := fun p _ => .sessionClose p, opcode := 0x0103, seats := allSeats, len := 2
    run := fun x p s =>
      let t := beAt p.params 0 2
      let id := if t = 0xFFFF then x.id else t
      if id ≠ x.id ∧ x.seat ≠ 1 then Reply.refuse 3 s
      else if (s.session id).isNone then Reply.refuse 0x107 s
      else Reply.ok [] (s.closeSession id) }

def execSessionClose (p : Packet) (s : State) : Out := .next (receive closeSpec p s)

/-- SESSION_THAW: the session reopens with its window and subscriptions (R308). -/
def thawSpec : Spec :=
  { cmd := fun p _ => .sessionThaw p, opcode := 0x0104, seats := [1], len := 2
    run := fun _ p s =>
      let id := beAt p.params 0 2
      match s.session id with
      | none => Reply.refuse 0x107 s
      | some y => Reply.ok [] (if y.st == .frozen then s.modSession id (fun y => { y with st := .open_ }) else s) }

def execSessionThaw (p : Packet) (s : State) : Out := .next (receive thawSpec p s)

/-- SUBSCRIBE: bit 9 of a mask is always set (R301, R335). -/
def subscribeSpec : Spec :=
  { cmd := fun p _ => .subscribe p, opcode := 0x0105, seats := allSeats, len := 8
    run := fun x p s =>
      let m : U64 := BitVec.ofNat 64 (beAt p.params 0 8) ||| 0x200
      Reply.ok (be64 m.toNat) (s.modSession x.id (fun y => { y with mask := m })) }

def execSubscribe (p : Packet) (s : State) : Out := .next (receive subscribeSpec p s)

def SessionSt.code : SessionSt → Nat
  | .pending => 0 | .open_ => 1 | .frozen => 2

/-- SESSION_LIST: up to 256 entries, as many as the port's MTU allows (R300, R312). -/
def listSpec : Spec :=
  { cmd := fun p _ => .sessionList p, opcode := 0x0106, seats := [1, 4], len := 2, long := true
    run := fun _ p s =>
      let first := beAt p.params 0 2
      let l := (s.fcp.sessions.filter (fun x => decide (first ≤ x.id))).take (min 256 (s.roomOf p.port / 8))
      Reply.ok (l.flatMap (fun x => be16 x.id ++ u8 x.seat ++ u8 x.st.code ++ be32 x.high)) s }

def execSessionList (p : Packet) (s : State) : Out := .next (receive listSpec p s)

/-! ### Keys and claiming (R310, R311) -/

def operatorKeySpec : Spec :=
  { cmd := fun p s => .setOperatorKey p s.pins.claimEn, opcode := 0x0107, seats := [], len := 32
    run := fun _ p s =>
      if s.claimed then Reply.refuse 0x105 s
      else if !s.pins.claimEn then Reply.refuse 0x106 s
      else Reply.ok [] (s.setSeatKey 1 p.params) }

/-- SET_OPERATOR_KEY, with the level of CLAIM_EN as it executes (R310, R412). -/
def execSetOperatorKey (p : Packet) (claimEn : Bool) (s : State) : Out :=
  .next (receiveBoth operatorKeySpec (fun _ => true) p { s with pins := { s.pins with claimEn := claimEn } })

/-- KEY of a WRAPPED field (R311). -/
def unwrapKey (x : Session) (p : Packet) (wrapped : Bytes) : Bytes :=
  List.zipWith (· ^^^ ·) wrapped (hmac x.key (ascii "FCP wrap" ++ be32 p.seq.toNat))

def seatKeySpec : Spec :=
  { cmd := fun p _ => .setSeatKey p, opcode := 0x0108, seats := [1], len := 40, reserved := [(1, 7)]
    run := fun x p s =>
      let seat := beAt p.params 0 1
      if !(allSeats.contains seat) then Reply.refuse 2 s
      else
        let s := s.setSeatKey seat (unwrapKey x p (slice 8 32 p.params))
        Reply.ok [] (s.closeSessions (fun y => y.seat == seat && y.id != x.id)) }

def execSetSeatKey (p : Packet) (s : State) : Out := .next (receive seatKeySpec p s)

/-- UNCLAIM erases every seat key and closes every session, in EMPTY (R309, R310, R330). -/
def unclaimSpec : Spec :=
  { cmd := fun p _ => .unclaim p, opcode := 0x0109, seats := [1], len := 4
    run := fun _ p s =>
      if beAt p.params 0 4 ≠ 0x554E434C then Reply.refuse 2 s
      else if s.job.st != .empty then Reply.refuse 0x211 s
      else Reply.ok [] ((s.writeKeys (fun k : KeyStore => { k with seats := [] })).closeSessions (fun _ => true)) }

def execUnclaim (p : Packet) (s : State) : Out := .next (receive unclaimSpec p s)

/-! ### Events of sessions and of the queues -/

/-- A session without a valid packet for SESSION_IDLE seconds closes; 0 never (R309, R329). -/
def execSessionIdle (session : U16) (s : State) : Out :=
  match s.session session.toNat with
  | some x =>
    if s.firmwareServes && s.cfg.sessionIdle != 0 && x.st != .pending then .next (s.closeSession x.id) else .next s
  | none => .next s

/-- A pending session is freed after 1 s (R303). -/
def execPendingSessionExpiry (session : U16) (s : State) : Out :=
  match s.session session.toNat with
  | some x => if s.firmwareServes && x.st == .pending then .next (s.closeSession x.id) else .next s
  | none => .next s

/-- The first waiting notice enters egress when it finds room (R90). -/
def State.drainNotice (s : State) : State :=
  match s.log.waiting with
  | [] => s
  | r :: t => if s.roomFor r then ({ s with log := { s.log with waiting := t } }).notify r else s

def execNotice (s : State) : Out := .next s.drainNotice

/-- A packet finds the ingress buffer full (R89, R329). -/
def execIngressDrop (port : Fin 2) (s : State) : Out :=
  if s.firmwareServes && s.eth[port].link != 0 then
    .next { s with eth := s.eth.set port { s.eth[port] with ingressDrop := satInc s.eth[port].ingressDrop } }
  else .next s

/-- A packet that fails MACsec, MAGIC, its tag or its session is dropped and counted (R296, R307, R310). -/
def execBadTag (p : Packet) (s : State) : Out :=
  match s.intake p with
  | .ignored => .next s
  | _ => .next (s.dropTag p.port)

/-- The opcodes of R312. -/
def knownOpcodes : List Nat :=
  [0x100, 0x101, 0x102, 0x103, 0x104, 0x105, 0x106, 0x107, 0x108, 0x109, 0x200, 0x201, 0x202, 0x203, 0x204, 0x205,
   0x300, 0x301, 0x302, 0x303, 0x400, 0x401, 0x402, 0x403, 0x500, 0x501, 0x502, 0x503, 0x504, 0x505, 0x600, 0x601,
   0x602, 0x603, 0x604, 0x605, 0x700, 0x701, 0x702, 0x703, 0x704, 0x800, 0x801, 0x900, 0x901, 0x902, 0x903, 0x904,
   0x905, 0xA00]

def badOpcodeSpec (opcode : Nat) : Spec :=
  { cmd := fun p _ => .badOpcode p (BitVec.ofNat 16 opcode), opcode := opcode, seats := allSeats, len := 0, unit := 1, most := 16384
    run := fun _ _ s => Reply.refuse (if opcode = 0x510 then 3 else 1) s }

/-- An unknown opcode freezes its session with BAD_OPCODE (R308, R312); a packet whose opcode has a row of its own is not this
event. -/
def execBadOpcode (p : Packet) (opcode : U16) (s : State) : Out :=
  if knownOpcodes.contains opcode.toNat then .next s else .next (receive (badOpcodeSpec opcode.toNat) p s)

end Sys2Proof.Machine
end

