-- ==== Sys2Proof/Machine/Configure.lean ====
section
/-! DEFINITION. Registers by packet, the saved configuration, time, MACsec keys, telemetry and the logs (R84 to R86, R296, R297,
R311, R314, R315, R317, R320, R326, R328, R337, R343, R351, R352, R363, R384, R429). -/
namespace Sys2Proof.Machine

/-! ### FIELD codes (R314) -/

/-- The register number and instance of a FIELD; none where its low 16 bits are not 0. -/
def fieldOf (f : Nat) : Option (Nat × Nat) := if f % 2 ^ 16 = 0 then some (f / 2 ^ 20, f / 2 ^ 16 % 16) else none

/-! ### CFG_READ (R86, R312) -/

/-- A register as CFG_READ returns it: four items where it has a barrier-class field. -/
def State.readReg (n inst active : Nat) (s : State) : Bytes :=
  if classMask n .barrier = 0 then be64 active
  else match s.firstPending (fieldCode n inst) with
    | none => be64 active ++ be64 active ++ u8 0 ++ List.replicate 7 0 ++ be64 0
    | some (seq, l) => be64 active ++ be64 (mergeShadows active l) ++ u8 1 ++ List.replicate 7 0 ++ be64 seq

def cfgReadSpec : Spec :=
  { cmd := fun p _ => .cfgRead p, opcode := 0x0700, seats := allSeats, len := 4, long := true
    run := fun _ p s =>
      match fieldOf (beAt p.params 0 4) with
      | none => Reply.refuse 2 s
      | some (n, inst) =>
        match s.regValue n inst with
        | none => Reply.refuse 0x703 s
        | some v => Reply.ok (s.readReg n inst v) s }

def execCfgRead (p : Packet) (s : State) : Out := .next (receive cfgReadSpec p s)

/-! ### CFG_WRITE (R84, R85, R314, R315, R337, R384) -/

/-- A CFG_WRITE's operands. -/
structure CfgOp where
  reg : Nat
  inst : Nat
  value : Nat
  mask : Nat
  seq : Nat
deriving DecidableEq, Repr

/-- The mask writes bits of a class. -/
def CfgOp.touches (w : CfgOp) (c : RegClass) : Bool := (w.mask &&& classMask w.reg c) != 0

/-- The seat may not write the register (R315). -/
def CfgOp.barred (w : CfgOp) (seat : Nat) : Bool :=
  seat == 2 && (!decide (0x030 ≤ w.reg ∧ w.reg ≤ 0x0AF) || (w.touches .locked && decide (0x07F < w.reg)))

/-- The register's stored bits: a write-only field reads 0 and keeps what was written (R8, R380). -/
def State.stored (w : CfgOp) (s : State) : Nat :=
  if w.reg = 0x0D2 then 256 * s.cfg.healthCore.toNat else (s.regValue w.reg w.inst).getD 0

/-- The register as a barrier-class write leaves its pending value: over an earlier pending write to the same field (R85, R314). -/
def State.after (w : CfgOp) (s : State) : Nat := mergeBits (s.stored w) w.value (w.mask &&& writableMask w.reg)

/-- ROOT_SRC is among the bits written. -/
def CfgOp.rootSource (w : CfgOp) : Bool := w.reg == 0x0C0 && field w.mask 0 2 != 0

/-- Bits of two classes are written (R314). -/
def CfgOp.mixed (w : CfgOp) : Bool :=
  decide (2 ≤ bit (w.touches .locked) + bit (w.touches .barrier) + bit (w.touches .free))

/-- Status of a write, 0 when it is accepted (R84, R85, R314, R315, R328, R337, R384). -/
def State.writeStatus (seat : Nat) (w : CfgOp) (s : State) : Nat :=
  let loaded := s.job.st != .empty
  if w.rootSource && s.boot.stage != 9 then 0x701
  else if w.barred seat then 3
  else if (s.regValue w.reg w.inst).isNone then 0x703
  else if w.mixed then 2
  else if w.touches .locked && loaded then 0x701
  else if w.touches .barrier && loaded && s.job.replay then 0x706
  else if w.touches .barrier && loaded && w.seq != 0 && decide (w.seq ≤ s.releasedSeq) then 0x702
  else if (w.mask &&& writableMask w.reg) != 0 && !regInRange w.reg (s.after w) then 0x704
  else if w.rootSource && !s.rootSourceReady (field (s.after w) 0 2) then 0x705
  else 0

/-- An accepted write: to the shadow while a job is loaded and the field is of class B, else at once (R84). -/
def State.writeCfg (w : CfgOp) (s : State) : State :=
  let m := w.mask &&& writableMask w.reg
  if m = 0 then s
  else if w.touches .barrier && s.job.st != .empty then
    s.addShadow ⟨fieldCode w.reg w.inst, BitVec.ofNat 64 w.value, BitVec.ofNat 64 m, w.seq, true⟩
  else
    let s := s.setReg w.reg w.inst (s.after w) (w.value &&& m)
    if w.rootSource then s.switchRoot else s

/-- CFG_WRITE as every row of it executes. -/
def cfgWriteSpec : Spec :=
  { cmd := fun p _ => .cfgWrite p, opcode := 0x0701, seats := [1, 2], len := 32, reserved := [(4, 4)]
    run := fun x p s =>
      match fieldOf (beAt p.params 0 4) with
      | none => Reply.refuse 2 s
      | some (n, inst) =>
        let w : CfgOp := ⟨n, inst, beAt p.params 8 8, beAt p.params 16 8, beAt p.params 24 8⟩
        let status := s.writeStatus x.seat w
        if status = 0 then Reply.ok [] (s.writeCfg w) else Reply.refuse status s }

def execCfgWrite (p : Packet) (s : State) : Out := .next (receive cfgWriteSpec p s)

/-- A CFG_WRITE of ROOT_SRC (R337). -/
def execRootSrcWrite (p : Packet) (s : State) : Out := .next (receive cfgWriteSpec p s)

/-- A CFG_WRITE of MEM_FAULT.LOG_CLEAR (R254). -/
def execLogClear (p : Packet) (s : State) : Out := .next (receive cfgWriteSpec p s)

/-- A CFG_WRITE of HEALTH_CTL.DECLARE (R363, R380). -/
def execDeclare (p : Packet) (s : State) : Out := .next (receive cfgWriteSpec p s)

/-- A CFG_WRITE of AVS_STATUS.POLICY_CLIPPED (R343). -/
def execPolicyClippedClear (p : Packet) (s : State) : Out := .next (receive cfgWriteSpec p s)

/-! ### CFG_SAVE, SET_TIME, MACSEC_KEY (R296, R297, R311, R315) -/

def cfgSaveSpec : Spec :=
  { cmd := fun p _ => .cfgSave p, opcode := 0x0702, seats := [1], len := 0, early := false
    run := fun _ _ s =>
      Reply.ok [] { s with flash := { s.flash with
        saved := some ⟨s.cfg.netCfg, s.cfg.ipv6Prefix, BitVec.ofNat 64 s.fcpCfg⟩ } } }

def execCfgSave (p : Packet) (s : State) : Out := .next (receive cfgSaveSpec p s)

/-- SET_TIME sets the mapping of WALL_CYCLE to TAI; a lock of PTP keeps its own (R297; log 69). -/
def setTimeSpec : Spec :=
  { cmd := fun p _ => .setTime p, opcode := 0x0703, seats := [1], len := 12, early := false
    run := fun _ p s =>
      let ns := beAt p.params 8 4
      if 1000000000 ≤ ns then Reply.refuse 2 s
      else if s.timeLocked then Reply.ok [] s
      else Reply.ok [] { s with fcp := { s.fcp with
        time := some ⟨beAt p.params 0 8 * 1000000000 + ns, s.wall.toNat, false⟩ } } }

def execSetTime (p : Packet) (s : State) : Out := .next (receive setTimeSpec p s)

/-- Two keys of one secure channel. -/
def Macsec.sameChannel (a b : Macsec) : Bool := a.port == b.port && a.dir == b.dir && a.sci == b.sci

/-- Receive secure channels of a port (R296). -/
def channelLimit (dir : Nat) : Nat := if dir = 0 then 1 else 16

/-- A key joins the store: it replaces the key of its association number, then the oldest key of its channel beyond two, then the
oldest channel of its port and direction beyond the limit (R296; DEDUCED, log 68). -/
def addMacsec (k : Macsec) (l : List Macsec) : List Macsec :=
  let l := l.filter (fun x => !(x.sameChannel k && x.an == k.an))
  let l := if 2 ≤ (l.filter (·.sameChannel k)).length then
      match l.find? (·.sameChannel k) with
      | some old => l.erase old
      | none => l
    else l
  let others := ((l.filter (fun x => x.port == k.port && x.dir == k.dir && !x.sameChannel k)).map (·.sci)).eraseDups
  let l := if channelLimit k.dir ≤ others.length then
      l.filter (fun x => !(x.port == k.port && x.dir == k.dir && some x.sci == others.head?))
    else l
  l ++ [k]

def macsecSpec : Spec :=
  { cmd := fun p _ => .macsecKey p, opcode := 0x0704, seats := [1], len := 64, reserved := [(3, 1), (28, 4)], early := false
    run := fun x p s =>
      let k : Macsec := ⟨beAt p.params 0 1, beAt p.params 1 1, beAt p.params 2 1, beAt p.params 4 4, beAt p.params 8 8,
        slice 16 12 p.params, unwrapKey x p (slice 32 32 p.params)⟩
      if 1 < k.port ∨ 3 < k.an ∨ 1 < k.dir then Reply.refuse 2 s
      else Reply.ok [] (s.writeKeys (fun st : KeyStore => { st with macsec := addMacsec k st.macsec })) }

def execMacsecKey (p : Packet) (s : State) : Out := .next (receive macsecSpec p s)

/-! ### TELEMETRY_READ and FAULT_LOG_READ (R250, R312, R351) -/

/-- The block of a telemetry group. -/
def State.telemetry (s : State) (group : Nat) : Option Bytes :=
  match group with
  | 0 => some (be64 s.powerStatus ++ be64 s.avsStatus ++ be64 s.opPoint)
  | 1 => some (be64 s.thermStatus ++ be64 s.modStatus ++ (s.therm.die ++ s.therm.stackTemps).flatMap (fun x => be16 x.toNat))
  | 2 => some (be64 s.clkStatus ++ be64 s.clkCfg)
  | _ => none

def telemetrySpec : Spec :=
  { cmd := fun p _ => .telemetryRead p, opcode := 0x0604, seats := allSeats, len := 2, long := true
    run := fun _ p s => match s.telemetry (beAt p.params 0 2) with
      | some b => Reply.ok b s
      | none => Reply.refuse 2 s }

def execTelemetryRead (p : Packet) (s : State) : Out := .next (receive telemetrySpec p s)

/-- FAULT_LOG_READ: the records from FIRST on, as many as the MTU allows (R300, R312; DEDUCED, log 50). -/
def faultLogSpec : Spec :=
  { cmd := fun p _ => .faultLogRead p, opcode := 0x0605, seats := [1, 2, 4], len := 2, long := true
    run := fun _ p s =>
      let log := beAt p.params 0 1
      let l := if log = 0 then s.faults.job else s.faults.session
      if 1 < log then Reply.refuse 2 s
      else Reply.ok (((l.drop (beAt p.params 1 1)).take (s.roomOf p.port / 64)).flatMap FaultRec.bytes) s }

def execFaultLogRead (p : Packet) (s : State) : Out := .next (receive faultLogSpec p s)

/-! ### The event log and the input log (R300, R318, R320, R325, R326, R429) -/

/-- Records of a log from number `first`, of which the last `kept.length` before `next` are there; none outside them. -/
def logFrom {α : Type} (kept : List α) (next first count : Nat) : Option (List α) :=
  let oldest := next - kept.length
  if first < oldest ∨ next ≤ first then none else some ((kept.drop (first - oldest)).take count)

def logReadSpec : Spec :=
  { cmd := fun p _ => .logRead p, opcode := 0x0600, seats := [1, 4, 5], len := 10, long := true
    run := fun _ p s =>
      let count := beAt p.params 8 2
      if 128 < count then Reply.refuse 2 s
      else match logFrom s.log.events s.log.nextSeq (beAt p.params 0 8) count with
        | none => Reply.refuse 0x601 s
        | some l => Reply.ok ((l.take (s.roomOf p.port / 64)).flatMap EventRec.bytes) s }

def execLogRead (p : Packet) (s : State) : Out := .next (receive logReadSpec p s)

def logAckSpec : Spec :=
  { cmd := fun p _ => .logAck p, opcode := 0x0601, seats := [5], len := 8
    run := fun _ p s =>
      let n := beAt p.params 0 8
      if s.log.nextSeq ≤ n then Reply.refuse 0x601 s
      else Reply.ok [] ({ s with log := { s.log with acked := max s.log.acked (n + 1) } }).eventLow }

def execLogAck (p : Packet) (s : State) : Out := .next (receive logAckSpec p s)

def inputReadSpec : Spec :=
  { cmd := fun p _ => .inputLogRead p, opcode := 0x0602, seats := [5, 4], len := 10, long := true
    run := fun _ p s =>
      let count := beAt p.params 8 2
      if 170 < count then Reply.refuse 2 s
      else match logFrom s.log.input s.log.inputNext (beAt p.params 0 8) count with
        | none => Reply.refuse 0x601 s
        | some l => Reply.ok (l.take (s.roomOf p.port / 48)).flatten s }

def execInputLogRead (p : Packet) (s : State) : Out := .next (receive inputReadSpec p s)

def inputAckSpec : Spec :=
  { cmd := fun p _ => .inputLogAck p, opcode := 0x0603, seats := [5], len := 8
    run := fun _ p s =>
      let n := beAt p.params 0 8
      if s.log.inputNext ≤ n then Reply.refuse 0x601 s
      else Reply.ok [] ({ s with log := { s.log with inputAcked := max s.log.inputAcked (n + 1) } }).inputLow }

def execInputLogAck (p : Packet) (s : State) : Out := .next (receive inputAckSpec p s)

end Sys2Proof.Machine
end

