-- ==== Sys2Proof/Machine/Dma.lean ====
section
/-! DEFINITION. MOVE and FILL of the DMA engines: sources, pieces, check entries, the compare stage of a pair (R242 to R245, R354,
R355). -/
namespace Sys2Proof.Machine

/-- A piece of a transfer that is written at once: its parts (offset in the transfer, length), the tile of the source whose
entry it verifies or copies, and the tile of the destination whose entry it writes. -/
structure Piece where
  parts : List (Nat × Nat)
  srcTile : Option Nat
  dstTile : Option Nat
deriving DecidableEq, Repr

/-- Bytes of a piece out of the transfer's bytes. -/
def Piece.data (p : Piece) (bytes : Bytes) : Bytes := p.parts.flatMap (fun x => slice x.1 x.2 bytes)
/-- Offsets of its first and last bytes, and its length. -/
def Piece.first (p : Piece) : Nat := ((p.parts.map (·.1)).min?).getD 0
def Piece.last (p : Piece) : Nat := (p.parts.map (fun x => x.1 + x.2 - 1)).foldl max 0
def Piece.size (p : Piece) : Nat := (p.parts.map (·.2)).foldl (· + ·) 0

/-- Pieces of `n` bytes of an extent. -/
def plainPieces (n len : Nat) : List Piece :=
  (List.range (ceilDiv len n)).map (fun k => ⟨[(n * k, min n (len - n * k))], none, none⟩)

/-- Pieces by the whole tiles of a region that an extent covers. -/
def tilePieces (r : Region) (off len : Nat) (mk : Nat → List (Nat × Nat) → Piece) : List Piece :=
  (coveredTiles r [(off, len)]).map (fun j => mk j ((r.segments j).map (fun o => (o - off, r.segment))))

/-- The 64-byte words of an extent that no covered tile holds, as pieces without an entry (R242). -/
def looseWords (r : Region) (off len : Nat) : List Piece :=
  let tiles := coveredTiles r [(off, len)]
  ((List.range (len / 64)).filter (fun k => !tiles.contains (r.tileAt (off + 64 * k)))).map
    (fun k => ⟨[(64 * k, 64)], none, none⟩)

/-- The tile of a CHECK destination that parts of a transfer cover whole; a tile that they cover in part keeps its entry (R242). -/
def wholeTileOf (dst : Region) (dstOff : Nat) (ps : List (Nat × Nat)) : Option Nat :=
  if !dst.check then none
  else
    let j := dst.tileAt (dstOff + (ps.headD (0, 0)).1)
    if decide (j < dst.tiles) && (dst.segments j).all (fun o =>
        ps.any (fun q => decide (dstOff + q.1 ≤ o ∧ o + dst.segment ≤ dstOff + q.1 + q.2))) then some j else none

/-- How a transfer is cut: by source tiles when it verifies, by destination tiles into a CHECK region, else into pieces of `n` bytes
(R242, R244). -/
def movePieces (verify : Bool) (n : Nat) (src : Option (Region × Nat)) (dst : Region) (dstOff len : Nat) : List Piece :=
  match verify, src with
  | true, some (r, off) => tilePieces r off len (fun j ps => ⟨ps, some j, wholeTileOf dst dstOff ps⟩)
  | _, _ =>
    if dst.check then
      tilePieces dst dstOff len (fun j ps =>
        ⟨ps, match src with
             | some (r, off) => if r.check then some (r.tileAt (off + (ps.headD (0, 0)).1)) else none
             | none => none, some j⟩)
      ++ looseWords dst dstOff len
    else plainPieces n len

/-! ### Sources (R60, R233, R244) -/

/-- An ac that has not come: of bytes that still have to arrive. -/
def never : Nat := 2 ^ 64

/-- The bytes of a transfer's source, and the ac in which the byte at an offset is read or arrives. -/
structure Feed where
  bytes : Bytes
  at_ : Nat → Nat

/-- Unit code of a core's DMA engine in the fabric tables (R60). -/
def engineCode (core engine : Nat) : Nat := 4 * core + engine

/-- The image books slots of an HBM controller's channel for burst data of an engine: those that it receives (direction 0), or those
that it supplies (direction 1) (R20, R60). -/
def State.booksHbm (s : State) (unit : Nat) (write : Bool) : Bool :=
  (List.range 20).any (fun n => (s.program!.fabric.getD (64 + n) []).any (fun w =>
    let x := fabricHalf w write
    (x.kind == 1 || x.kind == 2) && (if write then x.src else x.dst) == unit))

/-- What has arrived at an engine of a granule of 32 bytes of HBM since an ac. -/
def State.arrived (s : State) (unit since a : Nat) : Option (Nat × Bytes) :=
  (s.fabric.inn.find? (fun x => x.unit == unit && decide (since ≤ x.at_ ∧ x.addr ≤ a ∧ a + 32 ≤ x.addr + x.data.length))).map
    (fun x => (x.at_, slice (a - x.addr) 32 x.data))

/-- The bytes of a region extent, read 2,048 per ac from T + 2 (R244). -/
def readSide (s : State) (core : Fin 8) (r : Region) (off len : Nat) : Bytes :=
  (List.range (ceilDiv len 2048)).flatMap (fun k =>
    let t := s.now + 2 + k
    let mem := if r.inHbm then s.hbmAsOf t else s.sliceAsOf core t
    mem.readBytes (r.base + off + 2048 * k) (min 2048 (len - 2048 * k)))

/-- Bytes that are read, or stand ready, 2,048 per ac from T + 2 (R244). -/
def steadyFeed (s : State) (bytes : Bytes) : Feed := ⟨bytes, fun d => s.now + 2 + d / 2048⟩

/-- The source of an engine's transfer: of HBM, the bursts that the fabric slots bring it from T + 2 on; where the image books no slot
for burst data of the engine, 2,048 bytes per ac (DESIGN CHOICE, log 23). -/
def sourceFeed (s : State) (core : Fin 8) (engine : Nat) (r : Region) (off len : Nat) : Feed :=
  if r.inHbm && s.booksHbm (engineCode core.val engine) false then
    let lo := (r.base + off) % 32
    let got := ((List.range (ceilDiv (lo + len) 32)).map (fun k =>
      s.arrived (engineCode core.val engine) (s.now + 2) ((r.base + off) / 32 * 32 + 32 * k))).toArray
    ⟨slice lo len (got.toList.flatMap (fun x => (x.map (·.2)).getD (List.replicate 32 0))),
     fun d => ((got.getD ((lo + d) / 32) none).map (·.1)).getD never⟩
  else steadyFeed s (readSide s core r off len)

/-- The ac in which the last byte of a piece is read or has arrived, and that of its first. -/
def Feed.ready (f : Feed) (p : Piece) : Nat :=
  (p.parts.map (fun q => (((List.range (ceilDiv q.2 32)).map (fun k => f.at_ (q.1 + 32 * k))) ++ [f.at_ (q.1 + q.2 - 1)]).foldl max 0)).foldl max 0
def Feed.begins (f : Feed) (p : Piece) : Nat := f.at_ p.first

/-- A transfer's inputs: the source's feed, its region and offset (none for FILL), the destination; for a transfer of a primary that
leaves its core, the bytes that the secondary sends (R354). -/
structure Transfer where
  feed : Feed
  mate : Option Bytes
  src : Option (Nat × Region × Nat)
  dst : Region
  dstOff : Nat
  verify : Bool

/-- The check entry of a source tile: of a slice as it stands in the ac of the tile's first byte, of HBM in that of its last (R242). -/
def sourceEntry (s : State) (core : Fin 8) (f : Feed) (r : Region) (p : Piece) (j : Nat) : Nat × Byte :=
  entryAt (if r.inHbm then s.hbmAsOf (f.ready p) else s.sliceAsOf core (f.begins p)) (s.region r.checkRegion) r j

/-- Writes of bytes at an address of a place: a slice through the engine's port, in halves of an ac, or HBM. -/
def placeWrite (hbm : Bool) (core : Fin 8) (port t : Nat) (o : Origin) (addr : Nat) (data : Bytes) : List Timed :=
  if hbm then [⟨t, false, o, .hbm addr data⟩]
  else (chunks 1024 data).mapIdx (fun k d => ⟨t, k % 2 == 1, o, .sp core (addr + 1024 * k) .plain port d⟩)

/-- Bank reads of a slice extent, 2,048 bytes per ac from `t` (R230, R244). -/
def sliceReads (core : Fin 8) (port t : Nat) (o : Origin) (addr len : Nat) : List Timed :=
  (List.range (ceilDiv len 1024)).map (fun k =>
    ⟨t + k / 2, k % 2 == 1, o, .spRead core (addr + 1024 * k) (min 1024 (len - 1024 * k)) port⟩)

/-- Bank reads of the check entries of a slice's tiles, each in the fc of the tile's first byte (R242, R255). -/
def entryReads (s : State) (core : Fin 8) (port : Nat) (o : Origin) (f : Feed) (r : Region) (ps : List Piece) : List Timed :=
  if r.inHbm || !r.check then [] else
  ps.flatMap (fun p =>
    match p.srcTile with
    | none => []
    | some j =>
      let c := s.region r.checkRegion
      [(c.base + 4 * j, 4), (c.base + 4 * r.tiles + j, 1)].map (fun x =>
        ⟨f.begins p, p.first / 1024 % 2 == 1, o, .spRead core x.1 x.2 port⟩))

/-- DMA port of a unit in the service order (R230). -/
def dmaPort (i : Issue) : Nat := 5 + (i.unit.val - 3)

/-- A part of a transfer into HBM goes to its engine's fabric slots, cut at the 512 bytes that a slot carries (R20, R60, R244). -/
def slotWrites (i : Issue) (t : Nat) (o : Origin) (x : Transfer) (q : Nat × Nat) : List Timed :=
  (List.range (ceilDiv (q.1 % 512 + q.2) 512)).map (fun k =>
    let lo := if k = 0 then q.1 else (q.1 / 512 + k) * 512
    let hi := min (q.1 + q.2) ((q.1 / 512 + k + 1) * 512)
    ⟨t, false, o, .fabricOut (engineCode i.core.val (i.unit.val - 3)) (lo / 512) (x.dst.base + x.dstOff + lo) (slice lo (hi - lo) x.feed.bytes)⟩)

/-- The write of one piece with its check entry (R242): into HBM through the fabric slots that the image books for the engine, at once
where it books none (log 23). -/
def pieceWrites (s : State) (i : Issue) (t : Nat) (o : Origin) (x : Transfer) (p : Piece) : List Timed :=
  let hbm := x.dst.inHbm
  if hbm && s.silent i.core then [] else
  let body := p.parts.flatMap (fun q =>
    if hbm && s.booksHbm (engineCode i.core.val (i.unit.val - 3)) true then slotWrites i t o x q
    else placeWrite hbm i.core (dmaPort i) t o (x.dst.base + x.dstOff + q.1) (slice q.1 q.2 x.feed.bytes))
  let entry := match p.dstTile with
    | none => []
    | some j =>
      let (crc, prov, far) := match p.srcTile, x.src with
        | some k, some (_, r, _) =>
          let e := sourceEntry s i.core x.feed r p k
          (e.1, e.2, r.inHbm || s.hasCrossed i.core r k)
        | _, _ => ((crc32c (p.data x.feed.bytes)).toNat, provenance i.core 3 (i.unit.val - 3), false)
      entryWrite hbm i.core (dmaPort i) t o (s.region x.dst.checkRegion) x.dst j crc prov
      ++ (if far then crossing s i.core t o x.dst j else [])
  body ++ entry


/-- A piece that verifies at use: none where it passes, else the fault and what it adds (R242, R253, R363). -/
def useCheck (s : State) (i : Issue) (o : Origin) (x : Transfer) (written : Nat) (entry : Piece → Nat → Nat × Byte) (p : Piece) :
    Option (FaultRec × List Effect) :=
  match x.verify, p.srcTile, x.src with
  | true, some j, some (idx, r, _) =>
    let crc := (crc32c (p.data x.feed.bytes)).toNat
    let (want, prov) := entry p j
    if crc = want then none
    else
      let a := r.base + ((r.segments j).headD 0)
      some (faultRec 3 o.master idx 0 r.place (if r.inHbm then a else sliceAddress i.core a) o.instr o.opcode written j crc,
        crcEvidence s r i.core j prov)
  | _, _, _ => none

/-! ### The compare stage of a pair (R354, R355) -/

/-- The secondary of a primary executes the same words in the same ac (R353). -/
def State.mateRuns (s : State) (i : Issue) : Bool :=
  s.running.any (fun r => r.at_ == s.now && r.issue == { i with core := secondary i.core })

/-- What the secondary sends beside its primary, where the transfer leaves the core: nothing where it runs no such transfer (R354). -/
def mateBytes (s : State) (i : Issue) (leaves : Bool) (read : Fin 8 → Bytes) : Option Bytes :=
  if leaves && s.paired && i.core.val % 2 == 0 then some (if s.mateRuns i then read (secondary i.core) else []) else none

/-- The fault of a pair whose transfers differ: MASTER the primary's engine, the tile, the secondary's CRC (R355, R363). -/
def pairFault (o : Origin) (written tile crc : Nat) : FaultRec × List Effect :=
  (faultRec 3 o.master 0xFFFF 1 0 0 o.instr o.opcode written tile crc, [.suspect 2 0xFF])

/-- The compare stage of a pair: the primary's piece and the secondary's differ (R354, R355, R363). -/
def pairCheck (o : Origin) (x : Transfer) (written tile : Nat) (p : Piece) : Option (FaultRec × List Effect) :=
  match x.mate with
  | none => none
  | some m =>
    if !m.isEmpty && crc32c (p.data m) == crc32c (p.data x.feed.bytes) then none
    else some (pairFault o written tile (crc32c (if m.isEmpty then [] else p.data m)).toNat)

/-- An operation without data that leaves a primary: it is compared whole, and a mismatch is a fault in the ac of issue (R354, R355). -/
def pairWhole (s : State) (i : Issue) (o : Origin) : Option (List Timed) :=
  if s.paired && i.core.val % 2 == 0 && !s.mateRuns i then
    let (f, more) := pairFault o 0 0 0
    some (⟨s.now, false, o, .fault f⟩ :: more.map (fun e => ⟨s.now, false, o, e⟩))
  else none

/-! ### Plans -/

/-- The pieces of a transfer in order: each is written 8 ac after its last byte is read or arrives; the first whose CRC is
not its entry's is a fault of kind CRC at use instead, and ends the transfer (R242, R244, R253). -/
def pieceEffects (s : State) (i : Issue) (o : Origin) (x : Transfer) : Nat → List Piece → List Timed
  | _, [] => []
  | written, p :: ps =>
    let t := x.feed.ready p + 8
    let entry := fun (p : Piece) j => match x.src with
      | some (_, r, _) => sourceEntry s i.core x.feed r p j
      | none => (0, 0)
    match (useCheck s i o x written entry p).orElse (fun _ => pairCheck o x written (p.dstTile.getD (written / 2048)) p) with
    | some (f, more) => ⟨t, false, o, .fault f⟩ :: more.map (fun e => ⟨t, false, o, e⟩)
    | none => pieceWrites s i t (o.along written (p.dstTile.getD (written / 2048))) x p ++ pieceEffects s i o x (written + p.size) ps

/-- Where the region check of a transfer side fails, as a fault at issue (R245). -/
def sideFault (s : State) (i : Issue) (o : Origin) (op region kind member off : Nat) : Plan :=
  let r := s.region member
  let a := r.base + off
  .fault (accessFault s o kind (if kind = 1 then 0xFFFF else member) op (if r.inHbm || !(s.region region).used then 1 else 2)
    (if r.inHbm then a else sliceAddress i.core a))

/-- VERIFY's conditions on the source extent (R245). -/
def verifyExtent (r : Region) (off len : Nat) : Bool :=
  let g := if r.thLog2 > 0 then r.tileRow else r.tileBytes
  r.check && off % g == 0 && len % g == 0 && decide (off + len ≤ r.tiles * r.tileBytes)

/-- Marks of a source extent, in rising address: uncorrectable or corrected. The errors of an HBM source are those of the read bursts
that carry it, where the image books slots for them; a slice's corrections are counted by its reads (R232, R237). -/
def sourceMarks (s : State) (i : Issue) (r : Region) (off len : Nat) (bad : Bool) : List Nat :=
  if r.inHbm then
    (if s.booksHbm (engineCode i.core.val (i.unit.val - 3)) false then [] else
      ((s.hbm.ecc.filter (fun m => m.2.uncorrectable == bad && decide (m.1 + 32 > r.base + off ∧ m.1 < r.base + off + len))).map (·.1)))
  else ((s.core i.core).ecc.filter (fun m => m.2.uncorrectable == bad && decide (m.1 + 8 > r.base + off ∧ m.1 < r.base + off + len))).map (·.1)

/-- ECC of a source, each error in the ac of its read: an uncorrectable one is a fault, a corrected one is counted (R232, R237). -/
def sourceEffects (s : State) (i : Issue) (o : Origin) (f : Feed) (idx : Nat) (r : Region) (off len : Nat) : List Timed :=
  let at_ := fun (a : Nat) => f.at_ (a - (r.base + off))
  let bad := sourceMarks s i r off len true
  ((bad.filter (fun a => (bad.find? (fun b => at_ b == at_ a)) == some a)).flatMap (fun a =>
    (⟨at_ a, false, o, .fault (faultRec 4 o.master idx 0 r.place (if r.inHbm then a else sliceAddress i.core a) o.instr o.opcode 0 0 0)⟩ : Timed)
      :: (if r.inHbm then [⟨at_ a, false, o, .repair (rowEntryAt a 1)⟩] else [])))
  ++ (sourceMarks s i r off len false).map (fun a =>
    ⟨at_ a, false, o, if r.inHbm then .rowCorrected a else .corrected false 1⟩)

/-- A read of a transfer's source, or its fault, with the progress in its ac: the bytes written before it and the tile read (R253). -/
def Timed.progress (t : Timed) (f : Feed) (ps : List Piece) : Timed :=
  let pa := ((ps.filter (fun p => decide (f.ready p + 8 < t.at_))).map Piece.size).foldl (· + ·) 0
  let pb := ((ps.find? (fun p => decide (t.at_ ≤ f.ready p))).bind (·.srcTile)).getD 0
  { t with
    org := t.org.along pa pb
    eff := match t.eff with
      | .fault r => .fault { r with progressA := pa, progressB := pb }
      | e => e }

/-- Effects and free ac of a transfer that passed its checks, cut at `n` bytes: the busy span ends with the last write (R244). -/
def transferPlan (s : State) (i : Issue) (o : Origin) (x : Transfer) (n len : Nat) (reads : List Piece → List Timed) : Plan :=
  let ps := movePieces x.verify n (x.src.map (fun (_, r, off) => (r, off))) x.dst x.dstOff len
  let last := x.feed.ready ⟨[(0, len)], none, none⟩ + 8
  .run (last + 1) last ((reads ps).map (fun t => t.progress x.feed ps) ++ pieceEffects s i o x 0 ps)

/-- MOVE (R242 to R245). -/
def movePlan (i : Issue) (s : State) (o : Origin) : Plan :=
  let m := moveOp i
  match s.checkRegion 1 i.core m.src m.srcView 0 m.srcOff m.len, s.checkRegion 1 i.core m.dst m.dstView 1 m.dstOff m.len with
  | .fail k r, _ => sideFault s i o 0 m.src k r m.srcOff
  | _, .fail k r => sideFault s i o 1 m.dst k r m.dstOff
  | .pass si, .pass di =>
    let sr := s.region si
    let dr := s.region di
    if m.verify && !verifyExtent sr m.srcOff m.len then sideFault s i o 5 m.src 7 si m.srcOff
    else
      let f := sourceFeed s i.core (i.unit.val - 3) sr m.srcOff m.len
      let mate := mateBytes s i dr.inHbm (fun c => if sr.inHbm then f.bytes else readSide s c sr m.srcOff m.len)
      transferPlan s i o ⟨f, mate, some (si, sr, m.srcOff), dr, m.dstOff, m.verify⟩ (if sr.inHbm then 512 else 2048) m.len (fun ps =>
        (if sr.inHbm then [] else sliceReads i.core (dmaPort i) (s.now + 2) o (sr.base + m.srcOff) m.len)
        ++ entryReads s i.core (dmaPort i) o f sr ps ++ sourceEffects s i o f si sr m.srcOff m.len)

/-- Byte `k` of a fill: PATTERN laid least significant byte first (R243). -/
def fillBytes (pattern len : Nat) : Bytes := (List.range (len / 8)).flatMap (fun _ => le64 pattern)

/-- FILL (R243, R244). -/
def fillPlan (i : Issue) (s : State) (o : Origin) : Plan :=
  let m := moveOp i
  match s.checkRegion 1 i.core m.dst m.dstView 1 m.dstOff m.len with
  | .fail k r => sideFault s i o 1 m.dst k r m.dstOff
  | .pass di =>
    let d := fillBytes m.srcOff m.len
    transferPlan s i o ⟨steadyFeed s d, mateBytes s i (s.region di).inHbm (fun _ => d), none, s.region di, m.dstOff, false⟩ 2048 m.len (fun _ => [])

def execMove (i : Issue) (s : State) : Out := worded (moveWord i) (s.issueUnit i (movePlan i))
def execFill (i : Issue) (s : State) : Out := worded (fillWord i) (s.issueUnit i (fillPlan i))

end Sys2Proof.Machine
end

