-- ==== Sys2Proof/Machine/Ethernet.lean ====
section
/-! DEFINITION. What an Ethernet port answers or counts beside FCP: addresses, neighbour discovery, ARP, echo, PTP and PAUSE (R293,
R294, R297, R329, R385, R391). -/
namespace Sys2Proof.Machine

/-- A port is up and served: by the firmware, or by the boot ROM on port 0 (R382, R391). -/
def State.portServes (port : Fin 2) (s : State) : Bool :=
  (s.firmwareServes || (s.romServes && port == 0)) && s.eth[port].link != 0

/-- What a port sends beside FCP, protected where MACsec is on (R294, R296, R297). -/
def State.answer (port : Fin 2) (kind target dst : Nat) (data : Bytes) (s : State) : State :=
  { s with eth := s.eth.set port { s.eth[port] with answers := s.eth[port].answers ++ [⟨kind, target, dst, data, s.macsecOn port⟩] } }

/-- A frame that is no FCP packet reaches a port that serves: dropped, dropped and counted, or taken (R294, R296). -/
def State.frameTo (f : Frame) (go : State → State) (s : State) : State :=
  if !s.portServes f.port then s
  else match s.frameIn f with
    | .ignored => s
    | .counted => s.dropTag f.port
    | .packet => go s

/-- PAUSE_FRAME: dropped and counted (R293, R329). -/
def execPauseFrame (port : Fin 2) (s : State) : Out :=
  if s.portServes port then
    .next { s with eth := s.eth.set port { s.eth[port] with pauseRx := satInc s.eth[port].pauseRx } }
  else .next s

/-- NEIGHBOUR_DISCOVERY: the port answers for its own IPv6 addresses (R294). -/
def execNeighbourDiscovery (f : Frame) (target : BitVec 128) (src : Nat) (s : State) : Out :=
  .next (s.frameTo f (fun s => if s.ownsV6 f.port target.toNat then s.answer f.port 0 target.toNat src [] else s))

/-- ARP: the port answers for its IPv4 address (R294). -/
def execArp (f : Frame) (target : U32) (src : Nat) (s : State) : Out :=
  .next (s.frameTo f (fun s => if s.ownsV4 f.port target.toNat then s.answer f.port 1 target.toNat src [] else s))

/-- ECHO: the data come back (R294). -/
def execEcho (f : Frame) (v6 : Bool) (target : BitVec 128) (src : Nat) (data : Bytes) (s : State) : Out :=
  .next (s.frameTo f (fun s =>
    if if v6 then s.ownsV6 f.port target.toNat else s.ownsV4 f.port target.toNat then
      s.answer f.port (if v6 then 2 else 3) target.toNat src data
    else s))

/-- PTP is on for a port (R329). -/
def State.ptpOn (port : Fin 2) (s : State) : Bool := bitAt (s.cfg.netCfg[port]).toNat 24

def State.setPtp (port : Fin 2) (waits locked : Bool) (s : State) : State :=
  { s with eth := s.eth.set port { s.eth[port] with ptpWaits := waits, ptpLocked := locked } }

/-- A message of a port's slave clock: a Sync, with its Follow_Up where it is of two steps, draws a Delay_Req, and the Delay_Resp gives
the time. Whether the clock is then locked, and the time, are the measurement's (R297; DEDUCED, log 69). -/
def State.ptpMessage (port : Fin 2) (kind : PtpKind) (locked : Bool) (taiNs : Nat) (s : State) : State :=
  let e := s.eth[port]
  match kind with
  | .sync => (s.setPtp port false e.ptpLocked).answer port 4 0 0 []
  | .syncTwoStep => s.setPtp port true e.ptpLocked
  | .followUp => if e.ptpWaits then (s.setPtp port false e.ptpLocked).answer port 4 0 0 [] else s
  | .delayResp =>
    let s := s.setPtp port e.ptpWaits locked
    if locked then { s with fcp := { s.fcp with time := some ⟨taiNs, s.wall.toNat, true⟩ } } else s
  | .other => s

/-- PTP_MESSAGE: a message of the domain that a port's slave clock follows (R297). -/
def execPtpMessage (f : Frame) (m : PtpHeader) (locked : Bool) (taiNs : U64) (s : State) : Out :=
  .next (s.frameTo f (fun s =>
    if s.firmwareServes && s.ptpOn f.port && m.domain == s.cfg.ptpDomain then s.ptpMessage f.port m.kind locked taiNs.toNat else s))

end Sys2Proof.Machine
end

