-- ==== Sys2Proof/Machine/Hbm.lean ====
section
/-! DEFINITION. The HBM command streams and the fabric slots (R20, R21, R60, R70 to R72, R233 to R237, R253, R430). -/
namespace Sys2Proof.Machine

/-! ### The stream (R70, R71) -/

/-- Fabric cycle of an issued command (R70). -/
def State.fcOf (h : HbmIssue) (s : State) : Nat := 2 * s.now + bit h.half

/-- Where a pseudo-channel's stream stands; it starts with its step (R71). -/
def State.hbmPos (pc : Nat) (s : State) : StreamPos := tabGet ⟨0, 2 * s.job.stepStart, false⟩ pc s.hbm.pos

/-- The stream moves past a command; a DELAY adds its COUNT (R71). -/
def State.hbmAdvance (h : HbmIssue) (s : State) : State :=
  let p := s.hbmPos h.pc
  let extra := if hbmCmd h.word = 6 then hbmRow h.word else 0
  { s with hbm := { s.hbm with pos := tabSet h.pc.val ⟨p.pos + 1, s.fcOf h + extra, false⟩ s.hbm.pos } }

/-- A command word of a row; the words of another row, or one that load check 12 refuses, are none of its commands. -/
def hbmRowWord (cmd : Nat) (h : HbmIssue) : Bool := hbmCmd h.word == cmd && hbmWordOk h.word

/-- A command that needs no bank issues: no effect but the stream's position. -/
def hbmPlain (cmd : Nat) (h : HbmIssue) (s : State) : Out :=
  worded (hbmRowWord cmd h) (if s.scheduleRuns then s.hbmAdvance h else s)

/-- Fabric cycle of an issued command by the wall count, which goes on where schedule time stands (R39, R236). -/
def State.wallFc (h : HbmIssue) (s : State) : Nat := 2 * s.wall.toNat + bit h.half

def execHbmNop (h : HbmIssue) (s : State) : Out := hbmPlain 0 h s
def execHbmDelay (h : HbmIssue) (s : State) : Out := hbmPlain 6 h s

/-! ### Banks (R233, R430) -/

def Bank.closed : Bank := ⟨none, none, none, none, none, none⟩
def bankKey (h : HbmIssue) : Nat := 48 * h.pc.val + hbmBank h.word
def State.bank (h : HbmIssue) (s : State) : Bank := tabGet Bank.closed (bankKey h) s.hbm.banks
def State.setBank (h : HbmIssue) (b : Bank) (s : State) : State :=
  { s with hbm := { s.hbm with banks := tabSet (bankKey h) b s.hbm.banks } }

/-- Address of a burst: pseudo-channel, bank, row and column (R233). -/
def burstAddress (pc bank row col : Nat) : Nat :=
  let o := row * 49152 + bank * 1024 + col * 32
  (o / 2048 * 640 + pc) * 2048 + o % 2048

/-- A bank command of the stream issues where the schedule runs. -/
def hbmBanked (cmd : Nat) (h : HbmIssue) (f : Bank → State → State) (s : State) : Out :=
  worded (hbmRowWord cmd h) (if s.scheduleRuns then f (s.bank h) (s.hbmAdvance h) else s)

/-- ACT opens a row, of a precharged bank in every loaded stream (R430); a row that stood open gives way (DESIGN CHOICE, log 142). -/
def execAct (h : HbmIssue) (s : State) : Out :=
  hbmBanked 1 h (fun b t => t.setBank h { b with row := some (hbmRow h.word), actAt := some (t.wallFc h) }) s

/-- PRE closes the bank (R430). -/
def execPre (h : HbmIssue) (s : State) : Out :=
  hbmBanked 4 h (fun b t => t.setBank h { b with row := none, preAt := some (t.wallFc h) }) s

/-! ### Refresh and the hold loop (R72, R235, R236) -/

/-- The REFPB of bank `k` in the hold loop (R70, R236). -/
def loopWord (k : Nat) : U64 := BitVec.ofNat 64 (2 * 2 ^ 52 + 5 * 2 ^ 48 + k * 2 ^ 42)

/-- The bank that the hold loop refreshes in this ac, if any: bank k 2k + 2 fc after the stop, and again every 400 fc (R236). -/
def State.loopBank (s : State) : Option Nat :=
  match s.hbm.loopFrom with
  | none => none
  | some w =>
    let k := (s.wall.toNat - w) % 200
    if !s.scheduleRuns && decide (w < s.wall.toNat ∧ 1 ≤ k ∧ k ≤ 48) then some (k - 1) else none

/-- The controllers run: HBM is trained, and the module is alive (R236, R382). -/
def State.hbmTrained (s : State) : Bool := s.alive && decide (5 ≤ s.boot.stage.toNat ∧ s.boot.stage.toNat ≤ 9)

/-- At the end of an ac the controllers are in the hold loop where schedule time stands, and back in their streams where it runs
(R236). -/
def State.trackLoop (s : State) : State :=
  { s with hbm := { s.hbm with
      loopFrom := if s.scheduleRuns || !s.hbmTrained then none else some (s.hbm.loopFrom.getD s.wall.toNat) } }

/-- REFPB refreshes the bank: a command of the stream, or of the hold loop where schedule time stands (R72, R235, R236). -/
def execRefpb (h : HbmIssue) (s : State) : Out :=
  worded (hbmRowWord 5 h)
    (let b := s.bank h
     let done := { b with refAt := some (s.wallFc h) }
     if s.scheduleRuns then (s.hbmAdvance h).setBank h done
     else if s.loopBank = some (hbmBank h.word) && !h.half then s.setBank h done
     else s)

/-! ### Bursts (R60, R71, R237) -/

/-- The channel of a pseudo-channel's controller (R13, R60). -/
def controllerChannel (pc : Nat) : Nat := 64 + pc / 32

/-- Key of a channel's slot. -/
def slotKey (channel j : Nat) : Nat := channel * 8192 + j

/-- An entry of a channel's fabric table; none past its end (R60). -/
def State.fabricEntry (s : State) (channel j : Nat) : Option Word128 := (s.program!.fabric.getD channel [])[j]?

/-- The last own head word before a position of a stream: its index and opcode. -/
def lastOwnHead : Nat → Nat → Nat → List Word128 → Nat × Nat → Nat × Nat
  | 0, _, _, _, best => best
  | _ + 1, _, _, [], best => best
  | fuel + 1, k, pos, w :: ws, best =>
    if pos ≤ k then best
    else lastOwnHead fuel (k + 1 + headCont w) pos (ws.drop (headCont w)) (if headOpcode w < 0x040 then best else (k, headOpcode w))

/-- The master of a burst: the DMA engine or port that its slot serves, with its instruction (R233, R237, R253). -/
def State.burstMaster (channel xfer : Nat) (read : Bool) (s : State) : Option (Nat × Nat × Nat) :=
  match s.fabricEntry channel xfer with
  | none => none
  | some w =>
    let x := fabricHalf w (!read)
    let u := if read then x.dst else x.src
    if u < 0x20 then
      let core := u / 4
      let unit := u % 4 + 3
      let pos := if h : core < 8 then if h' : unit < 7 then ((s.core ⟨core, h⟩).streams[unit]).pos else 0 else 0
      let ws := s.program!.streams.getD (8 * core + unit) []
      let (i, op) := lastOwnHead ws.length 0 pos ws (0xFFFFFFFF, 0)
      some (dmaMaster core (u % 4), i, op)
    else if u < 0x28 then some (ropMaster (u - 0x20), 0xFFFFFFFF, 0)
    else if u = 0x79 then some (ckptMasterCode, 0xFFFFFFFF, 0)
    else none

/-- An uncorrected burst: a fault of its master, and the row joins the repair list (R237). -/
def State.uncorrectedBurst (pc bank row xfer addr : Nat) (s : State) : State :=
  let s := s.addRepair (rowEntry pc bank row 1)
  match s.burstMaster (controllerChannel pc) xfer true with
  | none => s.countUncorrected true
  | some (m, i, op) =>
    let r := (s.hbmRegion addr 32).getD 0xFFFF
    s.raiseFault (faultRec 4 m r 0 (if r < 0xFFFF then (s.region r).place else 1) addr i op 0 0 0)

/-- Bytes that stand in a slot for an address; none where the slot holds none. -/
def slotBytes (a n : Nat) (l : List (Nat × Bytes)) : Option Bytes :=
  (l.find? (fun x => decide (x.1 ≤ a ∧ a + n ≤ x.1 + x.2.length))).map (fun x => slice (a - x.1) n x.2)

/-- Burst data wait in the slot that XFER names (R60, R70). -/
def FabricState.fill (f : FabricState) (channel xfer a : Nat) (data : Bytes) : FabricState :=
  if xfer = 0x1FFF then f
  else { f with slots := tabSet (slotKey channel xfer) (tabGet [] (slotKey channel xfer) f.slots ++ [(a, data)]) f.slots }

/-- Undefined data of a burst (log 1, log 142). -/
def State.freeBurst (s : State) : Bytes × State :=
  let (k, s) := s.drawFree
  ((List.range 32).map (Config.freeByte k), s)

/-- A read burst of the open row, with the severity of its data: uncorrected data never reach their slot (R71, R232, R237). -/
def State.readBurst (h : HbmIssue) (sev : Severity) (row : Nat) (s : State) : State :=
  let pc := h.pc.val
  let a := burstAddress pc (hbmBank h.word) row (hbmCol h.word)
  let filled := { s with fabric := s.fabric.fill (controllerChannel pc) (hbmXfer h.word) a (s.hbm.mem.readBytes a 32) }
  match sev with
  | .clean => filled
  | .corrected => filled.correctedRow (rowEntry pc (hbmBank h.word) row 0)
  | .uncorrected => s.uncorrectedBurst pc (hbmBank h.word) row (hbmXfer h.word) a

/-- RD: 32 bytes of the open row into the slot that XFER names. No loaded stream reads a bank without an open row (R430): what such a
burst returns is undefined (log 142). -/
def execRd (h : HbmIssue) (sev : Severity) (s : State) : Out :=
  hbmBanked 2 h (fun b t =>
    let t := t.setBank h { b with rdAt := some (t.wallFc h) }
    match b.row with
    | some row => t.readBurst h sev row
    | none =>
      let (d, t) := t.freeBurst
      { t with fabric := t.fabric.fill (controllerChannel h.pc.val) (hbmXfer h.word) hbmSize d }) s

/-- WR: 32 bytes of the slot that XFER names into the open row; a write removes a transient error (R71, R237). A burst for which the slot
holds no data writes undefined data, and one to a bank without an open row writes none (log 142). -/
def execWr (h : HbmIssue) (s : State) : Out :=
  hbmBanked 3 h (fun b t =>
    let t := t.setBank h { b with wrAt := some (t.wallFc h) }
    match b.row with
    | none => t
    | some row =>
      let a := burstAddress h.pc.val (hbmBank h.word) row (hbmCol h.word)
      match slotBytes a 32 (tabGet [] (slotKey (controllerChannel h.pc.val) (hbmXfer h.word)) t.fabric.slots) with
      | some d => t.apply (.hbm a d)
      | none => let (d, t) := t.freeBurst; t.apply (.hbm a d)) s

/-! ### Fabric slots (R20, R21, R60) -/

/-- The HBM controller of a channel; none of another attachment (R60). -/
def controllerOf (channel : Nat) : Option Nat := if 64 ≤ channel ∧ channel < 84 then some (channel - 64 + 0x40) else none

/-- The memory that a channel reaches: a core's slice by its number, an HBM controller by its unit code (R19, R60). -/
def attachmentOf (channel : Nat) : Option Nat := if channel < 64 then some (channel / 8) else controllerOf channel

/-- Bytes of HBM arrive at a unit in this ac. -/
def FabricState.give (f : FabricState) (now unit : Nat) (l : List (Nat × Bytes)) : FabricState :=
  { f with inn := f.inn ++ l.map (fun x => ⟨unit, now, x.1, x.2⟩) }

/-- One slot of a controller's channel: burst data leave it for the unit that DST names, in direction 0, or come from the part of the
transfer of the unit that SRC names, in direction 1. The slots of the other channels carry the same data on their way (R20, R60;
DESIGN CHOICE, log 23). -/
def FabricState.slot (f : FabricState) (now channel j : Nat) (dir : Bool) (x : FabricHalf) : FabricState :=
  let key := slotKey channel j
  match controllerOf channel with
  | none => f
  | some u =>
    if !dir && x.src == u then { f with slots := tabDel key f.slots }.give now x.dst (tabGet [] key f.slots)
    else if dir && x.dst == u then
      match f.out.find? (fun p => p.unit == x.src && p.part == x.part && p.addr / 2048 % 640 / 32 + 0x40 == u) with
      | none => f
      | some p => { f with slots := tabSet key [(p.addr, p.data)] f.slots, out := f.out.erase p }
    else f

/-- A reserved slot carries 512 bytes of the first host access that waits for its memory (R21, R60). -/
def serveHeld (attachment : Nat) : List Held → List Held
  | [] => []
  | h :: t =>
    if h.slots.any (fun x => x.1 == attachment) then
      { h with slots := (h.slots.map (fun x => if x.1 == attachment then (x.1, x.2 - 1) else x)).filter (fun x => x.2 != 0) } :: t
    else h :: serveHeld attachment t

/-- A slot of KIND 4 serves the host accesses that wait, one of KIND 5 the checkpoint engine; those of a core's channels wait for the end
of its draw-ring window (R21, R60, R357; DESIGN CHOICE, log 78). -/
def State.reservedSlot (kind : Nat) (channel : Nat) (s : State) : State :=
  if decide (channel < 64) && s.coreInWindow (channel / 8) then s else
  match kind, attachmentOf channel with
  | 4, some a => { s with fcp := { s.fcp with held := serveHeld a s.fcp.held } }
  | 5, some _ => if s.ckpt.st = 2 then { s with ckpt := { s.ckpt with fetched := s.ckpt.fetched + 512 } } else s
  | _, _ => s

/-- The slot of an fc of the step in a channel's table, which is not empty (R60). -/
def slotIndex (s : State) (half : Bool) (length : Nat) : Nat := (2 * s.stepOffset + bit half) % length

/-- FABRIC_SLOT: the slot of the present fc of a channel and direction (R20, R21, R60). A slot of KIND 0 carries nothing; what the
operations that PORT 16 or a link delivers write does not wait for one (R268). -/
def execFabricSlot (channel : Fin 136) (dir : Bool) (half : Bool) (s : State) : Out :=
  let table := s.program!.fabric.getD channel.val []
  if !s.scheduleRuns || table.isEmpty then .next s
  else
    let j := slotIndex s half table.length
    let x := fabricHalf (table.getD j 0) dir
    .next (if x.kind = 1 ∨ x.kind = 2 then { s with fabric := s.fabric.slot s.now channel.val j dir x } else s.reservedSlot x.kind channel.val)

end Sys2Proof.Machine
end

