-- ==== Sys2Proof/Machine/Jtag.lean ====
section
/-! DEFINITION. The test access port and the spy-hole port (R400 to R402, R421). -/
namespace Sys2Proof.Machine

/-- The levels that the boundary register captures of the sideband signals of R412. Their order in the register is the model's own
(log 62). -/
def State.boundary (s : State) : List Bool :=
  [s.pins.pwrEn, s.pins.resetN, s.pins.claimEn, s.pins.debugEn, s.pins.clkOrigin] ++ (List.range 8).map (fun k => bitAt s.pins.slotId.toNat k)
  ++ [s.pins.pwrOk, !s.alert, !s.pins.trip]

/-- The port works from PWR_OK onward (R400). -/
def State.tap (sel : JtagSel) (s : State) : State :=
  if s.pins.pwrOk then { s with jtag := { s.jtag with sel := sel } } else s

/-- EXTEST, CLAMP, HIGHZ and AC_EXTEST take effect in EMPTY only, and else select the bypass register (R400). -/
def State.tapEmpty (sel : JtagSel) (s : State) : State := s.tap (if s.job.st == .empty then sel else .bypass)

def execExtest (s : State) : Out := .next (s.tapEmpty .extest)
def execClamp (s : State) : Out := .next (s.tapEmpty .clamp)
def execHighz (s : State) : Out := .next (s.tapEmpty .highz)
def execAcExtest (s : State) : Out := .next (s.tapEmpty .acExtest)
def execIdcode (s : State) : Out := .next (s.tap .idcode)
def execBypass (s : State) : Out := .next (s.tap .bypass)

/-- SAMPLE/PRELOAD captures the levels (R400). -/
def execSamplePreload (s : State) : Out :=
  if s.pins.pwrOk then .next { s with jtag := { s.jtag with sel := .boundary, sample := s.boundary } } else .next s

/-- TRST_N resets the test access port only (R421); after it the identification register is selected (IEEE 1149.1, R400). -/
def execTrstN (s : State) : Out := .next { s with jtag := ⟨.idcode, [], none, 0⟩ }

/-! ### The spy-hole port (R402) -/

/-- SPY_CTRL with an access; while the port is closed, the bypass register. -/
def State.spyCtrl (op core unit addr : Nat) (allowed : Bool) (s : State) : State :=
  if !s.pins.pwrOk then s
  else if !s.sec.spyholeOpen then s.tap .bypass
  else { s with jtag := { s.jtag with sel := .spyCtrl, spy := some ⟨op, core, unit, addr, allowed⟩ } }

/-- OP 1, in job states other than RUNNING and HOLD. -/
def execSpyScan (core : Byte) (unit : U16) (addr : U32) (s : State) : Out :=
  .next (s.spyCtrl 1 core.toNat unit.toNat addr.toNat (s.job.st != .running && s.job.st != .hold))

/-- OP 2, in FAULT_HELD. -/
def execSpyFrozenState (core : Byte) (unit : U16) (addr : U32) (s : State) : Out :=
  .next (s.spyCtrl 2 core.toNat unit.toNat addr.toNat (s.job.st == .faultHeld))

/-- OP 3, in any state. -/
def execSpyTrace (core : Byte) (unit : U16) (addr : U32) (s : State) : Out :=
  .next (s.spyCtrl 3 core.toNat unit.toNat addr.toNat true)

/-- The words of a trace: for each head word its schedule cycle and its two halves, lower first (the order is the model's own, log
62). -/
def traceWords (t : List (Nat × Word128)) : List U64 :=
  t.flatMap (fun x => [BitVec.ofNat 64 x.1, BitVec.ofNat 64 x.2.toNat, BitVec.ofNat 64 (x.2.toNat / 2 ^ 64)])

/-- The word that an access gives next, and the state after a draw of a free value: what OP 1 and OP 2 show has no stated layout. -/
def State.spyWordOf (s : State) (a : SpyAccess) : U64 × State :=
  if !a.allowed then (BitVec.allOnes 64, s)
  else if a.op = 3 then
    if h : a.core < 8 then ((traceWords (s.core ⟨a.core, h⟩).trace).getD a.addr 0, s) else (BitVec.allOnes 64, s)
  else
    let (n, s) := s.drawFree
    (Config.spyWord n, s)

/-- SPY_DATA reads the next word (R402). -/
def execSpyData (s : State) : Out :=
  if !s.pins.pwrOk then .next s
  else if !s.sec.spyholeOpen then .next (s.tap .bypass)
  else match s.jtag.spy with
    | none => .next (s.tap .spyData)
    | some a =>
      let (w, s) := s.spyWordOf a
      .next { s with jtag := { s.jtag with sel := .spyData, dataOut := w, spy := some { a with addr := a.addr + 1 } } }

end Sys2Proof.Machine
end

