-- ==== Sys2Proof/Machine/Remote.lean ====
section
/-! DEFINITION. Remote operations as a DMA engine issues them: transfers over PORT 16 and the flits of link transfers (R265 to R272,
R354, R355, R431). -/
namespace Sys2Proof.Machine

/-! ### GX wire formats (R271) -/

/-- Bytes of an element at a quantum d. -/
def gxWidth (d : Nat) : Nat := (40 - d) / 8

/-- The fields of a tile of 256 i48 elements, in order. -/
def gxImage (d : Nat) (tile : Bytes) : Bytes := (chunks 8 tile).flatMap (fun e => leBytes (gxWidth d) (field (leNat e) d (40 - d)))

/-- The element that a field carries. -/
def gxElement (d : Nat) (b : Bytes) : Int := toSigned (40 - d) (leNat b) * 2 ^ d

/-- Elements `lo` to `hi − 1` of a tile image, as the bytes of their words (R271, R431). -/
def gxWords (d : Nat) (image : Bytes) (lo hi : Nat) : Bytes :=
  (List.range (hi - lo)).flatMap (fun k => i48Bytes (gxElement d (slice (gxWidth d * (lo + k)) (gxWidth d) image)))

/-- What an arrived GX image does in the slice, once the receiver's table gives its quantum (R135, R155, R271). -/
def Timed.expand (s : State) (t : Timed) : List Timed :=
  match t.eff with
  | .gx c add a id lo hi image =>
    let data := gxWords (s.quantum c id) image lo hi
    if add then (chunks 8 data).mapIdx (fun k d => { t with half := k / 128 % 2 == 1, eff := .i48 c (a + 8 * k) 9 id (i48Of d) })
    else (chunks 1024 data).mapIdx (fun k d => { t with half := k % 2 == 1, eff := .sp c (a + 1024 * k) .plain 9 d })
  | _ => [t]

/-! ### The source of a transfer -/

/-- The region check of the source in ac T, with the conditions of VERIFY (R245, R267, R272). -/
def remoteSource (i : Issue) (s : State) (o : Origin) : Except Plan (Nat × Region) :=
  let m := remoteOp i
  let len := 64 * m.len64
  match s.checkRegion 1 i.core m.src m.srcView 0 m.srcOff len with
  | .fail k r => .error (sideFault s i o 0 m.src k r m.srcOff)
  | .pass si =>
    let r := s.region si
    if m.verify && !verifyExtent r m.srcOff len then .error (sideFault s i o 5 m.src 7 si m.srcOff) else .ok (si, r)

/-- The source of a remote operation (R244, R267). -/
def remoteTransfer (i : Issue) (s : State) (si : Nat) (sr : Region) : Transfer :=
  let m := remoteOp i
  let len := 64 * m.len64
  let f := sourceFeed s i.core (i.unit.val - 3) sr m.srcOff len
  ⟨f, mateBytes s i true (fun c => if sr.inHbm then f.bytes else readSide s c sr m.srcOff len), some (si, sr, m.srcOff), unusedRegion, 0, m.verify⟩

/-- The check entry of a source tile as it stands in ac T + 1 (R272). -/
def remoteEntry (i : Issue) (s : State) (sr : Region) (j : Nat) : Nat × Byte :=
  entryAt (if sr.inHbm then s.hbmAsOf (s.now + 1) else s.sliceAsOf i.core (s.now + 1)) (s.region sr.checkRegion) sr j

/-- How it is cut: by source tiles when it verifies, else 2,048 bytes at a time. -/
def remotePieces (i : Issue) (sr : Region) : List Piece :=
  let m := remoteOp i
  if m.verify then tilePieces sr m.srcOff (64 * m.len64) (fun j ps => ⟨ps, some j, none⟩) else plainPieces 2048 (64 * m.len64)

/-- The pieces that pass, up to the first that fails, with its fault in the ac in which its last byte is read (R272, R355). -/
def passing (s : State) (i : Issue) (o : Origin) (x : Transfer) (sr : Region) : Nat → List Piece → List Piece × List Timed
  | _, [] => ([], [])
  | written, p :: ps =>
    match (useCheck s i o x written (fun _ j => remoteEntry i s sr j) p).orElse
        (fun _ => pairCheck o x written (p.srcTile.getD (written / 2048)) p) with
    | some (f, more) => ([], ⟨x.feed.ready p, false, o, .fault f⟩ :: more.map (fun e => ⟨x.feed.ready p, false, o, e⟩))
    | none =>
      let (good, stop) := passing s i o x sr (written + p.size) ps
      (p :: good, stop)

/-- Bank reads of the source and its check entries, and its ECC (R230, R232, R244, R272). -/
def remoteReads (s : State) (i : Issue) (o : Origin) (f : Feed) (si : Nat) (sr : Region) : List Timed :=
  let m := remoteOp i
  let len := 64 * m.len64
  (if sr.inHbm then [] else
    sliceReads i.core (dmaPort i) (s.now + 2) o (sr.base + m.srcOff) len
    ++ (if m.verify then (entryReads s i.core (dmaPort i) o f sr (remotePieces i sr)).map (fun t => { t with at_ := s.now + 1 }) else []))
  ++ sourceEffects s i o f si sr m.srcOff len

/-! ### The remote-operation port (R229, R230, R253, R268, R270) -/

/-- OP of a fault record for a remote opcode (R253). -/
def remoteFaultOp (op : Nat) : Nat := match op with | 0x082 => 4 | 0x083 => 2 | 0x084 => 3 | _ => 1

/-- The right that a remote operation needs: W, or S (R248). -/
def remoteRight (op : Nat) : Nat := if op = 0x080 then 1 else 2

/-- A fault record of the remote-operation port of a core (R253). -/
def ropFault (core : Fin 8) (kind region op place addr opcode written tile detail : Nat) : FaultRec :=
  faultRec kind (ropMaster core) region op place addr 0xFFFFFFFF opcode written tile detail

/-- Writes of bytes into a slice through the port, 1,024 per fc. -/
def ropWrites (core : Fin 8) (w : WriteOp) (t : Nat) (o : Origin) (addr : Nat) (data : Bytes) : List Timed :=
  (chunks 1024 data).mapIdx (fun k d => ⟨t, k % 2 == 1, o, .sp core (addr + 1024 * k) w 9 d⟩)

/-- An i48 word that cannot be read is a fault of the port; a corrected one counts (R232, R270, R431). -/
def addEcc (s : State) (core : Fin 8) (region t : Nat) (o : Origin) (addr len : Nat) : Option (List Timed) × List Timed :=
  let (bad, n) := eccScan (s.core core).ecc 8 addr len
  (bad.map (fun a => [⟨t, false, o, .fault (ropFault core 4 region 4 2 (sliceAddress core a) o.opcode 0 0 0)⟩]),
   if n = 0 then [] else [⟨t, false, o, .corrected false n⟩])

/-- ADD_I48 of the i48 values of a byte string into a slice (R270, R431). -/
def ropAdds (s : State) (core : Fin 8) (region t : Nat) (o : Origin) (addr anchorId : Nat) (data : Bytes) : List Timed :=
  match addEcc s core region t o addr data.length with
  | (some f, _) => f
  | (none, c) => (chunks 8 data).mapIdx (fun k d => ⟨t, k / 128 % 2 == 1, o, .i48 core (addr + 8 * k) 9 anchorId (i48Of d)⟩) ++ c

/-! ### Transfers over PORT 16 (R266, R268) -/

/-- The destination of a PORT 16 transfer, its view resolved in the ac of issue: the region, or the kind of fault and the region
(R171, R268, R270). -/
def destination (s : State) (op : Nat) (m : RemoteOp) : Except (Nat × Nat) Nat :=
  match s.resolve m.dst m.dstView true with
  | .error k => .error (k, m.dst)
  | .ok j =>
    let r := s.region j
    if !r.inSlice (Fin.ofNat 8 m.dstCore) || decide (r.bytes < m.dstOff + 64 * m.len64) then .error (1, j)
    else if !r.grants 2 (remoteRight op) || (op != 0x080 && r.check) then .error (2, j)
    else .ok j

/-- The ac in which a piece of a PORT 16 transfer is written: its last byte is read in the ac T + 2 + k and readable in T + 18 + k
(R268). -/
def arrivalAc (f : Feed) (p : Piece) : Nat := f.ready p + 15

/-- The check entries that a PUT writes: copied from the source where it verifies, else sealed at the destination (R241, R242, R272).
A tile's entry is written in the ac of its last word. -/
def arrivalEntries (i : Issue) (s : State) (m : RemoteOp) (core : Fin 8) (o : Origin) (sr dr : Region) (x : Transfer)
    (good : List Piece) : List Timed :=
  if !dr.check then []
  else if m.verify then
    good.flatMap (fun p =>
      match p.srcTile, wholeTileOf dr m.dstOff p.parts with
      | some j, some k =>
        let (crc, prov) := remoteEntry i s sr j
        entryWrite false core 9 (arrivalAc x.feed p) o (s.region dr.checkRegion) dr k crc prov
        ++ (if sr.inHbm || s.hasCrossed i.core sr j then crossing s core (arrivalAc x.feed p) o dr k else [])
      | _, _ => [])
  else
    let len := (good.map Piece.size).foldl (· + ·) 0
    (tilePieces dr m.dstOff len (fun j ps => ⟨ps, none, some j⟩)).flatMap (fun p =>
      let mem := fun (q : Nat × Nat) => slice q.1 q.2 x.feed.bytes
      entryWrite false core 9 (arrivalAc x.feed p) o (s.region dr.checkRegion) dr (p.dstTile.getD 0)
        (crc32c (p.parts.flatMap mem)).toNat (provenance core 4 0))

/-- What a PORT 16 transfer does in the slice of one core: word k is readable in ac T + 18 + ⌊k / 32⌋ (R268); a GX tile goes through the
wire format, which the receiver reads by its own table (R271). -/
def arrivals16 (i : Issue) (s : State) (op : Nat) (m : RemoteOp) (o : Origin) (j : Nat) (sr : Region) (x : Transfer) (good : List Piece)
    (core : Fin 8) : List Timed :=
  let dr := s.region j
  let org := fun (p : Piece) => (⟨ropMaster core, 0xFFFFFFFF, op, some (o.master, x.feed.ready p), 0, 0⟩ : Origin)
  let body := good.flatMap (fun p =>
    let t := arrivalAc x.feed p
    p.parts.flatMap (fun q =>
      let a := dr.base + m.dstOff + q.1
      let d := slice q.1 q.2 x.feed.bytes
      if m.gx then
        let e := if op = 0x082 then addEcc s core j t (org p) a q.2 else (none, [])
        e.1.getD ((⟨t, false, org p, .gx core (op == 0x082) a m.anchorId 0 256 (padTo 1280 (gxImage (s.quantum i.core m.anchorId) d))⟩ : Timed) :: e.2)
      else match op with
      | 0x080 => ropWrites core .plain t (org p) a d
      | 0x083 => ropWrites core .set t (org p) a d
      | 0x084 => ropWrites core .clr t (org p) a d
      | _ => ropAdds s core j t (org p) a m.anchorId d))
  body ++ (if op = 0x080 then arrivalEntries i s m core ⟨ropMaster core, 0xFFFFFFFF, op, none, 0, 0⟩ sr dr x good else [])

/-- PUT, ADD_I48, SET_BITS and CLR_BITS over PORT 16 (R266 to R272). -/
def port16Plan (op : Nat) (i : Issue) (s : State) (o : Origin) : Plan :=
  match remoteSource i s o with
  | .error p => p
  | .ok (si, sr) =>
    let m := remoteOp i
    let x := remoteTransfer i s si sr
    let ps := remotePieces i sr
    let (good, stop) := passing s i o x sr 0 ps
    let read := x.feed.ready ⟨[(0, 64 * m.len64)], none, none⟩
    let core : Fin 8 := Fin.ofNat 8 m.dstCore
    let arrive := match destination s op m with
      | .error (k, r) =>
        let g := s.region r
        let a := g.base + m.dstOff
        let t := x.feed.at_ 0
        [⟨t + 16, false, ⟨ropMaster core, 0xFFFFFFFF, op, some (o.master, t), 0, 0⟩,
          .fault (ropFault core k (if k = 1 then 0xFFFF else r) (remoteFaultOp op) (if g.used then g.place else 2)
            (if g.inHbm then a else sliceAddress core a) op 0 0 0)⟩]
      | .ok j =>
        (s.reached core).flatMap (arrivals16 i s op m o j sr x good)
        ++ (if m.sig && good.length == ps.length then
              [⟨read + 17, false, ⟨ropMaster core, 0xFFFFFFFF, op, some (o.master, read), 0, 0⟩, .counterAdd m.counter 1⟩]
            else [])
    .run (read + 17 + (if m.sig then 2 else 0)) (read + 17) (remoteReads s i o x.feed si sr ++ stop ++ (if s.silent i.core then [] else arrive))

/-! ### Link transfers (R258, R262, R263, R267, R272) -/

/-- A port's slot table in the active program. -/
def State.linkTable (s : State) (p : Fin 16) : LinkTable := s.program!.links.getD p.val ⟨0, []⟩

/-- Positions of the step from an offset on. -/
def State.positionsLeft (s : State) (off : Nat) : Nat := positionsIn (s.job.nextStart - s.job.stepStart - off)

/-- The booked positions of a DMA transfer whose first flit leaves at `off` (R267). -/
def State.transferPositions (s : State) (p : Fin 16) (core engine off n : Nat) : List Nat :=
  bookedFrom (s.linkTable p) (fun e => txKind e == 1 && txCore e == core && txEngine e == engine) (s.positionsLeft off)
    (positionFrom off) n

/-- The 256 bytes of a flit that carries a payload: the idle pattern fills the rest (R257, R258, R271). -/
def filled (payload : Bytes) : Bytes :=
  payload.take 256 ++ (List.range (256 - payload.length)).map (fun k => Config.idlePattern (payload.length + k))

/-- A flit as its position books it; the tokens and NAKs of its header are those of its transmission (R258). -/
def makeFlit (kind slot start : Nat) (payload : Bytes) : Flit :=
  ⟨BitVec.ofNat 48 (kind * 2 ^ 46 + slot * 2 ^ 29 + start % 256), filled payload, min 256 payload.length⟩

/-- A data flit whose data the sender could not read: POISON is set, and it carries none of them (R232, R258). -/
def poisonFlit (slot start : Nat) : Flit :=
  { makeFlit 1 slot start [] with hdr := BitVec.ofNat 48 (2 ^ 46 + 2 ^ 45 + slot * 2 ^ 29 + start % 256) }

/-- A flit of a transfer before it is booked: its payload, the extent of the transfer that it carries or waits for, and whether it
is a check flit. -/
structure Part where
  payload : Bytes
  lo : Nat
  hi : Nat
  check : Bool
deriving DecidableEq, Repr

/-- The check flit of a run of up to 51 tiles (R272). -/
def checkFlit (i : Issue) (s : State) (sr : Region) (run : List Piece) : Part :=
  let entries := run.flatMap (fun p =>
    match p.srcTile with
    | some j => let (crc, prov) := remoteEntry i s sr j; le32 crc ++ [prov]
    | none => [])
  ⟨entries ++ List.replicate (255 - entries.length) 0 ++ [0], 0, 0, true⟩

/-- The run of 51 tiles that holds a byte of the transfer. -/
def runOf (ps : List Piece) (at' : Nat) : Nat :=
  ((findIdxFrom (fun p : Piece => p.parts.any (fun q => decide (q.1 ≤ at' ∧ at' < q.1 + q.2))) 0 ps).getD 0) / 51

/-- Data flits with a check flit before each run's first byte (R267, R272). -/
def withChecks (i : Issue) (s : State) (sr : Region) (ps : List Piece) : Nat → List Part → List Part
  | _, [] => []
  | next, f :: fs =>
    let r := runOf ps (f.hi - 1)
    let due := (List.range (r + 1)).filter (fun k => decide (next ≤ k))
    due.map (fun k => checkFlit i s sr ((ps.drop (51 * k)).take 51)) ++ f :: withChecks i s sr ps (max next (r + 1)) fs

/-- The flits of a transfer that reads a source (R267, R271, R272). -/
def dataFlits (s : State) (op : Nat) (i : Issue) (sr : Region) (x : Transfer) (ps : List Piece) : List Part :=
  let m := remoteOp i
  if m.gx then
    ((chunks 2048 x.feed.bytes).mapIdx (fun k t =>
      let img := gxImage (s.quantum i.core m.anchorId) t
      (List.range 5).map (fun p => (⟨(img.drop (256 * p)).take 256, 2048 * k, 2048 * k + 2048, false⟩ : Part)))).flatten
  else
    let fs := (chunks 256 x.feed.bytes).mapIdx (fun k d => (⟨d, 256 * k, 256 * k + d.length, false⟩ : Part))
    if op = 0x080 ∧ m.verify then withChecks i s sr ps 0 fs else fs

/-- The ac in which a flit's bytes are read, and verified where they are tiles; none where one of them did not pass (R244, R272). -/
def partRead (s : State) (f : Feed) (verify : Bool) (good : List Piece) (x : Part) : Option Nat :=
  if x.check then some (s.now + 1)
  else
    let hit := good.filter (fun p => p.parts.any (fun q => decide (q.1 < x.hi ∧ x.lo < q.1 + q.2)))
    let covered := (List.range ((x.hi - x.lo) / 64)).all (fun k =>
      hit.any (fun p => p.parts.any (fun q => decide (q.1 ≤ x.lo + 64 * k ∧ x.lo + 64 * k < q.1 + q.2))))
    if !covered then none
    else some (if verify then (hit.map f.ready).foldl max 0 else f.ready ⟨[(x.lo, x.hi - x.lo)], none, none⟩)

/-- The schedule cycle in which a position of the step starts, and its slot of the link cycle (R262). -/
def State.positionPlace (s : State) (p : Fin 16) (k : Nat) : Nat × Nat :=
  (s.job.stepStart + positionStart k, if (s.linkTable p).cycle = 0 then 0 else k % (s.linkTable p).cycle)

/-- A flit waits for its position from the ac in which its data are read (R267); none of its data, where they could not be read (R258). -/
def bookFlit (s : State) (p : Fin 16) (o : Origin) (t k : Nat) (payload : Option Bytes) : Timed :=
  let (start, slot) := s.positionPlace p k
  ⟨t, false, o, .book p start (match payload with | some d => makeFlit 1 slot start d | none => poisonFlit slot start)⟩

/-- A remote operation over a link: GET and SIGNAL send one flit (R265 to R272). A flit whose data meet an uncorrectable error goes out
poisoned, without them (R232, R258). -/
def linkPlan (op : Nat) (i : Issue) (p : Fin 16) (s : State) (o : Origin) : Plan :=
  let m := remoteOp i
  let place := fun n => s.transferPositions p i.core.val (i.unit.val - 3) (s.stepOffset + 20) n
  if op = 0x081 ∨ op = 0x085 then
    let payload := if op = 0x081 then Config.getRequest i.head (contWord i 0) else []
    .run (s.now + 1) s.now
      ((pairWhole s i o).getD (if s.silent i.core then [] else (place 1).map (fun k => bookFlit s p o s.now k (some payload))))
  else
    match remoteSource i s o with
    | .error f => f
    | .ok (si, sr) =>
      let x := remoteTransfer i s si sr
      let (good, stop) := passing s i o x sr 0 (remotePieces i sr)
      let fs := dataFlits s op i sr x (remotePieces i sr)
      let bad := sourceMarks s i sr m.srcOff (64 * m.len64) true
      let unread := fun (f : Part) => !f.check && bad.any (fun a =>
        decide (a < sr.base + m.srcOff + f.hi ∧ sr.base + m.srcOff + f.lo < a + (if sr.inHbm then 32 else 8)))
      let sends := (fs.zip (place fs.length)).filterMap (fun (f, k) =>
        (partRead s x.feed m.verify good f).map (fun t => bookFlit s p o t k (if unread f then none else some f.payload)))
      let read := x.feed.ready ⟨[(0, 64 * m.len64)], none, none⟩
      .run (read + 1) read (remoteReads s i o x.feed si sr ++ (if s.silent i.core then [] else sends) ++ stop)

/-- A remote operation (R266). -/
def remotePlan (op : Nat) (i : Issue) (s : State) (o : Origin) : Plan :=
  if h : (remoteOp i).port < 16 then linkPlan op i ⟨(remoteOp i).port, h⟩ s o else port16Plan op i s o

def execPut (i : Issue) (s : State) : Out := worded (remoteWord 0x080 i) (s.issueUnit i (remotePlan 0x080 i))
def execGet (i : Issue) (s : State) : Out := worded (remoteWord 0x081 i) (s.issueUnit i (remotePlan 0x081 i))
def execAddI48 (i : Issue) (s : State) : Out := worded (remoteWord 0x082 i) (s.issueUnit i (remotePlan 0x082 i))
def execSetBits (i : Issue) (s : State) : Out := worded (remoteWord 0x083 i) (s.issueUnit i (remotePlan 0x083 i))
def execClrBits (i : Issue) (s : State) : Out := worded (remoteWord 0x084 i) (s.issueUnit i (remotePlan 0x084 i))
def execRemoteSignal (i : Issue) (s : State) : Out := worded (remoteWord 0x085 i) (s.issueUnit i (remotePlan 0x085 i))

end Sys2Proof.Machine
end

