-- ==== Sys2Proof/Machine/Link.lean ====
section
/-! DEFINITION. The ELink ports: what a position sends, what a decoded flit does, deliveries, retries, misses and lanes (R258 to R263,
R268 to R275, R278, R280, R285, R291, R374, R431). -/
namespace Sys2Proof.Machine

/-! ### Ports, positions and headers -/

/-- A port carries flits: up, or up on its spare (R260, R261, R290). -/
def PortState.carries (x : PortState) : Bool := x.st == 2 || x.st == 3

/-- λ of a port, in ac (R260). -/
def PortState.latency (x : PortState) : Nat := 19 + x.excess.toNat

/-- Deadline of a flit whose position starts in ac s: s + 73 + 3e (R273). -/
def PortState.deadline (x : PortState) (start : Nat) : Nat := start + 73 + 3 * x.excess.toNat

/-- Delivery ac of a flit whose position starts in ac s: s + 84 + e (R268). -/
def PortState.delivery (x : PortState) (start : Nat) : Nat := start + 84 + x.excess.toNat

/-- Fields of a flit header (R258). -/
def flitKind (f : Flit) : Nat := field f.hdr.toNat 46 2
def flitPoison (f : Flit) : Bool := bitAt f.hdr.toNat 45
def flitFault (f : Flit) : Bool := bitAt f.hdr.toNat 44
def flitSlot (f : Flit) : Nat := field f.hdr.toNat 29 15
def flitStamp (f : Flit) : Nat := field f.hdr.toNat 0 8

/-- Bits of the tokens and of FAULT in every header of a port (R258, R275, R278, R280, R285): SOAK with its grid index until the stop,
the token of a barrier or of a restart toward the parent and the children. -/
def State.headerTokens (p : Fin 16) (s : State) : Nat :=
  let pp := s.placementPort p
  let soak := s.scheduleRuns && s.links.stopAt.isSome
  let go := if s.standing then s.links.restartDown else s.links.goDown
  let barrier := (pp.isParent && s.links.sentUp) || (pp.isChild && s.links.goDown.isSome)
  let restart := (pp.isParent && s.links.restartUp) || (pp.isChild && s.links.restartDown.isSome)
  let grid := if soak then roundUp (s.links.stopAt.getD 0) s.soakPeriod / s.soakPeriod % 4
    else if pp.isChild then go.getD 0 else 0
  bit (s.job.st == .faultHeld) * 2 ^ 44 + bit soak * 2 ^ 12 + bit (restart && s.standing) * 2 ^ 11
    + bit (barrier && !s.standing) * 2 ^ 10 + grid * 2 ^ 8

/-! ### Transmission (R263, R273, R280, R291) -/

/-- The element of the earliest position of a list. -/
def earliest {α : Type} (start : α → Nat) : List α → Option α
  | [] => none
  | a :: l => match earliest start l with
    | some b => if start b < start a then some b else some a
    | none => some a

/-- The NAK that a header carries: of those whose flit was decoded before this ac, that of the earliest position (R273 steps 1 and 4). -/
def PortState.nextNak (wall : Nat) (x : PortState) : Option Nak := earliest Nak.start (x.naks.filter (fun n => decide (n.wall < wall)))

/-- The copy that a position carries: of those whose NAK was decoded before this ac, that of the earliest position; a flit that has missed
is repeated in free positions only (R273, R274, R291). -/
def PortState.nextCopy (now wall : Nat) (free : Bool) (x : PortState) : Option Outgoing :=
  earliest Outgoing.start (x.copies.filter (fun c => decide (c.wall < wall) && (free || decide (now ≤ x.deadline c.start))))

/-- The ac that pass until a flit that has not come good is asked for again: the retry slack (R273, R274). -/
def PortState.slack (x : PortState) : Nat := 54 + 2 * x.excess.toNat

/-- A checkpoint to the buddy has bytes to send (R373, R374). -/
def State.ckptToSend (s : State) : Bool :=
  s.ckpt.st == 2 && s.ckpt.buddy && !s.ckptMaster && decide (s.ckpt.sent < s.ckpt.data.length) && s.fetchedPart 256

/-- The next checkpoint flit of a position; the stream completes with its last (R370, R374). -/
def State.ckptFlit (slot : Nat) (s : State) : Option Outgoing × State :=
  match s.readPart 256 with
  | (none, t) => (none, t)
  | (some d, t) =>
    let t := if t.ckpt.st = 2 ∧ t.ckpt.data.length ≤ t.ckpt.sent then t.completeStream.releaseCkpt else t
    (some ⟨slot, s.now, 0, 0, makeFlit 1 slot s.now d⟩, t)

/-- The count of rc that a port reports: 8 in an ac of P0, more where an ac is longer (R3, R282; log 145). -/
def State.rcCount (s : State) : Nat := s.wall.toNat * s.divider

/-- The payload of a control flit: a failed lane, the rc count and identity of the port, or LOCKED (R261, R282, R394). -/
def State.controlData (p : Fin 16) (c : Control) (s : State) : Bytes :=
  match c with
  | .laneFailure lane => Config.controlPayload 0 [lane]
  | .locked => Config.controlPayload 1 []
  | .identity => Config.controlPayload 2 [s.rcCount, Config.serial.toNat, s.pins.slotId.toNat, p.val]

/-- A control flit goes out; with a report of a failed lane the switch is set for the first grid point at least 256 ac later, or at
once while schedule time stands still (R261). -/
def State.sendControl (p : Fin 16) (slot : Nat) (c : Control) (s : State) : Outgoing × State :=
  let due := if s.scheduleRuns then roundUp (s.now + 256) s.soakPeriod else s.now
  let t := s.modPort p (fun x => { x with
    control := x.control.drop 1
    remap := match c with | .laneFailure lane => some (lane, due) | _ => x.remap })
  (⟨slot, s.now, 0, 0, makeFlit 3 slot s.now (s.controlData p c)⟩, t)

/-- What a free position carries: a control flit, a displaced checkpoint flit, a checkpoint flit while schedule time stands still, else
an idle flit (R39, R263, R280, R291). -/
def State.freeFlit (p : Fin 16) (slot : Nat) (s : State) : Outgoing × State :=
  let q := s.port p
  match q.control, q.ckptLate with
  | c :: _, _ => s.sendControl p slot c
  | [], f :: t => (f, s.modPort p (fun x => { x with ckptLate := t }))
  | [], [] =>
    let idle : Outgoing := ⟨slot, s.now, 0, 0, makeFlit 0 slot s.now []⟩
    match findIdxFrom (fun e => txKind e == 3) 0 (s.linkTable p).entries with
    | some k =>
      if s.scheduleRuns || !s.ckptToSend then (idle, s)
      else match s.ckptFlit k with
        | (some f, t) => (f, t)
        | (none, t) => (idle, t)
    | none => (idle, s)

/-- The checkpoint flit that a position of TX_KIND 3 would have carried takes the next free position (R291). -/
def State.displaceCkpt (p : Fin 16) (slot : Nat) (s : State) : State :=
  match s.ckptFlit slot with
  | (some f, t) => t.modPort p (fun x => { x with ckptLate := x.ckptLate ++ [f] })
  | (none, t) => t

/-- The origin of the accesses of a core's remote-operation port for a GET reply (R18, R247). -/
def replyOrigin (core : Fin 8) : Origin := ⟨ropMaster core, 0xFFFFFFFF, 0x081, none, 0, 0⟩

/-- The bytes of a GET reply as the port finds them in the ac of the reply's position: of HBM, those that the booked fabric slots have
brought it, where the image books any; none where one has not come (R18, R60, R244, R268). -/
def State.replyBytes (x : ReplyPart) (s : State) : Option Bytes :=
  let unit := 0x20 + x.core.val
  if !(s.region x.region).inHbm then some ((s.sliceNow x.core).readBytes x.addr x.len)
  else if s.booksHbm unit false then
    let lo := x.addr % 32
    let got := (List.range (ceilDiv (lo + x.len) 32)).map (fun k => s.arrived unit x.since (x.addr / 32 * 32 + 32 * k))
    if got.all Option.isSome then some (slice lo x.len (got.flatMap (fun g => (g.map (·.2)).getD []))) else none
  else some ((s.hbmAsOf s.now).readBytes x.addr x.len)

/-- The flit of a GET reply: the remote-operation port reads its bytes in its position; a flit whose bytes it cannot read goes out
poisoned, and an uncorrectable error is its fault (R18, R232, R237, R249, R258). -/
def State.replyFlit (x : ReplyPart) (s : State) : Flit × State :=
  let hbm := (s.region x.region).inHbm
  let marks := if hbm then (if s.booksHbm (0x20 + x.core.val) false then [] else s.hbm.ecc) else (s.core x.core).ecc
  let gran := if hbm then 32 else 8
  if (s.core x.core).ropFrozen then (poisonFlit x.slot x.start, s)
  else
    let s := if hbm then s
      else { s with inflight := s.inflight ++ [⟨s.now, false, replyOrigin x.core, .spRead x.core x.addr x.len 9⟩] }
    let s := s.correct hbm (eccGood marks gran x.addr x.len)
    match (eccScan marks gran x.addr x.len).1, s.replyBytes x with
    | some a, _ =>
      let s := if hbm then s.addRepair (rowEntryAt a 1) else s
      (poisonFlit x.slot x.start, s.raiseFault (ropFault x.core 4 x.region 0 (s.region x.region).place
        (if hbm then a else sliceAddress x.core a) 0x081 0 0 0))
    | none, some d => (makeFlit 1 x.slot x.start d, s)
    | none, none => (poisonFlit x.slot x.start, s)

/-- What is booked for the position that starts in this ac: the flits of transfers, and those of GET replies (R263, R267). -/
def State.bookedFlits (p : Fin 16) (slot : Nat) (s : State) : List Outgoing × State :=
  let q := s.port p
  let t := s.modPort p (fun x => { x with
    booked := x.booked.filter (fun b => b.1 != s.now), replies := x.replies.filter (fun r => r.start != s.now) })
  let sent : List Outgoing := (q.booked.filter (fun b => b.1 == s.now)).map (fun b => ⟨slot, s.now, 0, 0, b.2⟩)
  (q.replies.filter (fun r => r.start == s.now)).foldl (fun (acc : List Outgoing × State) r =>
    let (f, t) := acc.2.replyFlit r
    (acc.1 ++ [⟨slot, s.now, 0, 0, f⟩], t)) (sent, t)

/-- The flit of a position: a retry copy, a shifted flit, the booked flit, a checkpoint flit, or what a free position carries (R263,
R273, R280, R291). -/
def State.positionFlit (p : Fin 16) (slot : Nat) (kind : Nat) (s : State) : Outgoing × State :=
  if s.job.st == .faultHeld then s.freeFlit p slot else
  let q := s.port p
  let (booked, t) := if s.scheduleRuns then s.bookedFlits p slot else ([], s)
  let ckpt := s.scheduleRuns && kind == 3 && s.ckptToSend
  match q.nextCopy s.now s.wall.toNat (booked.isEmpty && !ckpt), (if s.scheduleRuns then q.shifted else []) with
  | some c, _ =>
    let t := t.modPort p (fun x => { x with copies := x.copies.erase c, shifted := x.shifted ++ booked })
    (c, if ckpt then t.displaceCkpt p slot else t)
  | none, f :: fs =>
    let t := t.modPort p (fun x => { x with shifted := fs ++ booked })
    (f, if ckpt then t.displaceCkpt p slot else t)
  | none, [] =>
    match booked with
    | b :: _ => (b, t)
    | [] =>
      if ckpt then
        match t.ckptFlit slot with
        | (some f, t) => (f, t)
        | (none, t) => t.freeFlit p slot
      else t.freeFlit p slot

/-- FLIT_TRANSMIT: the position that starts in this ac, or one while schedule time stands still; the header gets its tokens, FAULT and
the next NAK (R258, R263). -/
def execFlitTransmit (p : Fin 16) (s : State) : Out :=
  let table := s.linkTable p
  let k := positionAt s.stepOffset
  if !s.alive || !(s.port p).carries || (s.scheduleRuns && (k.isNone || decide (s.now < s.job.stepStart))) then .next s
  else
    let slot := if s.scheduleRuns ∧ table.cycle ≠ 0 then k.getD 0 % table.cycle else 0
    let (f, t) := s.positionFlit p slot (if s.scheduleRuns then txKind (table.entry (k.getD 0)) else 0)
    let nak := (t.port p).nextNak t.wall.toNat
    let naks := match nak with | some n => 2 ^ 28 + n.slot * 2 ^ 13 | none => 0
    let wire : Flit := { f.flit with hdr := f.flit.hdr ||| BitVec.ofNat 48 (t.headerTokens p + naks) }
    let kept := decide (flitKind f.flit ≠ 0) || s.scheduleRuns
    .next (t.modPort p (fun x => { x with
      last := some wire,
      naks := (match nak with | some n => x.naks.erase n | none => x.naks),
      sent := (if kept then x.sent.filter (fun o => o.slot != f.slot) ++ [f] else x.sent) }))

/-- A port fails: it never carries a flit again before the next start-up (R261, R274). -/
def State.failPort (p : Fin 16) (s : State) : State :=
  if (s.port p).st == 4 then s
  else (s.modPort p (fun x => { x with st := 4, remap := none })).event 14 (u8 p.val) []

/-- Copies of a flit before its port fails (R274). -/
def copyLimit : Nat := 64

/-- NAK: the sender of the damaged flit queues a retry copy, KIND 2 with the original SLOT and STAMP; after 64 copies the port fails
(R273, R274). -/
def execNak (p : Fin 16) (slot : BitVec 15) (s : State) : Out :=
  match (s.port p).sent.find? (fun o => o.slot == slot.toNat) with
  | none => .next s
  | some o =>
    if !(s.port p).carries then .next s
    else if copyLimit ≤ o.copies then .next (s.failPort p)
    else
      let body := o.flit.hdr.toNat % 2 ^ 46
      let n := { o with copies := o.copies + 1 }
      let c : Outgoing := { n with wall := s.wall.toNat, flit := { o.flit with hdr := BitVec.ofNat 48 (2 * 2 ^ 46 + body) } }
      .next (s.modPort p (fun x => { x with
        sent := x.sent.map (fun y => if y = o then n else y), copies := x.copies ++ [c] }))

/-! ### Reception (R257, R273, R280) -/

/-- A job that a link can stop: it runs, holds or stands in a soak (R251, R280). -/
def State.jobOn (s : State) : Bool := s.job.st == .running || s.job.st == .hold || s.job.st == .soak

/-- A fault of kind link poison, unless the master is frozen (R249, R280). -/
def State.linkPoison (p : Fin 16) (core cause position : Nat) (s : State) : State :=
  let c : Fin 8 := Fin.ofNat 8 core
  if !s.jobOn || (s.core c).ropFrozen then s
  else s.raiseFault (faultRec 5 (ropMaster c) 0xFFFF 0 0 0 0xFFFFFFFF 0 position (s.placementPort p).neighbour (p.val * 256 + cause))

/-- Schedule cycle in which the latest position of a slot that can have been decoded by now started (R260, R262). -/
def State.slotStart (p : Fin 16) (slot : Nat) (s : State) : Nat :=
  let cycle := (s.linkTable p).cycle
  let lag := if s.scheduleRuns then (s.port p).latency else 0
  let top := positionFrom (s.stepOffset - lag + 1) - 1
  let back := if cycle = 0 then 0 else (top % cycle + cycle - slot % cycle) % cycle
  s.job.stepStart + positionStart (top - back)

/-- A flit is asked for once more, with the wall count at which it is asked for again; after 64 copies the port fails (R273, R274). -/
def State.askFor (p : Fin 16) (d : Damaged) (s : State) : State :=
  if copyLimit ≤ d.copies then s.failPort p
  else s.modPort p (fun x => { x with
    naks := x.naks.filter (fun n => n.start != d.start) ++ [⟨d.slot, d.start, s.wall.toNat⟩],
    damaged := x.damaged.map (fun y =>
      if y = d then { y with copies := y.copies + 1, again := s.wall.toNat + x.slack } else y) })

/-- A damaged flit: its position is reported by a NAK; a copy that is damaged too is asked for again (R273, R274). -/
def State.takeDamaged (p : Fin 16) (f : Flit) (s : State) : State :=
  let q := s.port p
  let slot := flitSlot f
  if !s.jobOn || (s.linkTable p).cycle = 0 then s else
  match q.damaged.find? (fun d => d.slot == slot && flitKind f == 2) with
  | some d => s.askFor p d
  | none =>
    let start := s.slotStart p slot
    let d : Damaged := ⟨start, slot, q.deadline start, 0, false, 0⟩
    (s.modPort p (fun x => { x with damaged := x.damaged ++ [d] })).askFor p d

/-- The link layer keeps repeating: a flit whose copy has not come good within the slack is asked for again (R274, R276). -/
def State.askAgain (p : Fin 16) (s : State) : State :=
  ((s.port p).damaged.filter (fun d => decide (d.again ≤ s.wall.toNat))).foldl (fun s d => s.askFor p d) s

/-- Tag of the soak cause of a missed flit (R274). -/
def missTag (p : Fin 16) (slot : Nat) : Nat := p.val * 2 ^ 15 + slot

/-- A good copy resolves its damaged flit; a soak that the miss raised loses its cause (R274, R276). -/
def State.resolveCopy (p : Fin 16) (f : Flit) (s : State) : State :=
  let slot := flitSlot f
  let s := s.modPort p (fun x => { x with
    retries := satInc x.retries, damaged := x.damaged.filter (fun d => d.slot != slot),
    naks := x.naks.filter (fun n => n.slot != slot) })
  s.clearCause 1 (missTag p slot)

/-! ### What an arriving flit does at its destination (R268 to R272, R374, R431) -/

/-- Fields of the receive side of an entry (R263). -/
structure RxEntry where
  kind : Nat
  core : Fin 8
  view : Nat
  region : Nat
  off : Nat
  counter : Nat
  increment : Nat
  sigLast : Bool
  gx : Bool
  part : Nat
  anchorId : Nat
  guard : Bool
deriving DecidableEq, Repr

def rxEntry (e : Word128) : RxEntry :=
  ⟨wf e 92 4, Fin.ofNat 8 (wf e 89 3), wf e 86 3, wf e 74 12, wf e 46 28 * 64, wf e 30 16, wf e 22 8, wf e 21 1 == 1,
   wf e 20 1 == 1, wf e 17 3, wf e 1 16, wf e 0 1 == 1⟩

/-- Opcode of the remote operation whose flit an entry receives (R263, R265). -/
def rxOpcode (kind : Nat) : Nat :=
  match kind with | 1 => 0x080 | 2 => 0x081 | 3 => 0x081 | 4 => 0x082 | 5 => 0x083 | 6 => 0x084 | 7 => 0x085 | _ => 0x080

/-- The origin of an arriving flit's accesses. -/
def rxOrigin (x : RxEntry) (core : Fin 8) : Origin := ⟨ropMaster core, 0xFFFFFFFF, rxOpcode x.kind, none, 0, 0⟩

/-- A fault of the port of an entry's core at an extent of a region, where a job can be stopped (R248, R251, R268). -/
def State.arrivalFault (x : RxEntry) (kind region op off tile detail : Nat) (s : State) : State :=
  if !s.jobOn then s else
  let r := s.region region
  let a := r.base + off
  s.raiseFault (ropFault x.core kind (if kind = 1 then 0xFFFF else region) op (if r.used then r.place else 2)
    (if r.inHbm then a else sliceAddress x.core a) (rxOpcode x.kind) 0 tile detail)

/-- Accesses of this ac take effect with the others of the ac, in the order of their ports; at once while schedule time stands still (R39,
R230, R231, R291). -/
def State.accessNow (effs : List Timed) (s : State) : State :=
  if s.scheduleRuns then { s with inflight := s.inflight ++ effs } else (effs.foldl landOne (s, [])).1

/-- Bytes written into a region's memory in this ac, on every core that the arrival reaches. -/
def State.arriveBytes (x : RxEntry) (r : Region) (w : WriteOp) (off : Nat) (data : Bytes) (s : State) : State :=
  let a := r.base + off
  if r.inHbm then s.apply (.hbm a (((spWrite w s.hbm.mem a data)).readBytes a data.length))
  else s.accessNow ((s.reached x.core).map (fun c => ⟨s.now, false, rxOrigin x c, .sp c a w 9 data⟩))

/-- The i48 reduction engine adds to each 8-byte word (R270, R431); a sum in HBM that saturates marks the slot too. -/
def State.arriveAdds (x : RxEntry) (region : Nat) (off : Nat) (data : Bytes) (s : State) : State :=
  let r := s.region region
  let a := r.base + off
  if r.inHbm then
    ((chunks 8 data).zip (List.range data.length)).foldl (fun s (d, k) =>
      let y := i48Add (i48Of (s.hbm.mem.readBytes (a + 8 * k) 8)) (i48Of d)
      let s := s.apply (.hbm (a + 8 * k) (i48Bytes y.1))
      if y.2 then s.apply (.slotOr x.core x.anchorId ⟨0, true, false, false⟩) else s) s
  else s.accessNow ((s.reached x.core).flatMap (fun c => ropAdds s c region s.now (rxOrigin x c) a x.anchorId data))

/-- The check entry of a tile that arrived (R241, R272). -/
def State.arriveEntry (x : RxEntry) (r : Region) (tile crc : Nat) (prov : Byte) (s : State) : State :=
  if !r.check then s
  else
    let writes := fun (c : Fin 8) => entryWrite r.inHbm c 9 s.now (rxOrigin x c) (s.region r.checkRegion) r tile crc prov
      ++ crossing s c s.now (rxOrigin x c) r tile
    if r.inHbm then (writes x.core).foldl (fun s t => s.apply t.eff) s else s.accessNow ((s.reached x.core).flatMap writes)

/-! #### Tiles (R272) -/

/-- Key of a byte of a region in a port's buffers. -/
def bufKey (region off : Nat) : Nat := region * 2 ^ 34 + off

/-- The buffered extents with one more piece: an overlapping extent is of an earlier transfer; an adjacent one grows. -/
def bufAdd (a : Nat) (d : Bytes) (buf : List (Nat × Bytes)) : List (Nat × Bytes) :=
  let apart := buf.filter (fun e => decide (e.1 + e.2.length ≤ a ∨ a + d.length ≤ e.1))
  match apart.find? (fun e => e.1 + e.2.length == a) with
  | some e => apart.filter (fun y => y != e) ++ [(e.1, e.2 ++ d)]
  | none => apart ++ [(a, d)]

/-- The extents of a region, as offset and length. -/
def bufExtents (region : Nat) (buf : List (Nat × Bytes)) : List (Nat × Nat) :=
  (buf.filter (fun e => e.1 / 2 ^ 34 == region)).map (fun e => (e.1 % 2 ^ 34, e.2.length))

/-- A buffered byte. -/
def bufByte (buf : List (Nat × Bytes)) (a : Nat) : Byte :=
  match buf.find? (fun e => decide (e.1 ≤ a ∧ a < e.1 + e.2.length)) with
  | some e => e.2.getD (a - e.1) 0
  | none => 0

/-- Whole tile rows that are complete need no buffer any more. -/
def bufTrim (region cut : Nat) (buf : List (Nat × Bytes)) : List (Nat × Bytes) :=
  let c := bufKey region cut
  buf.filterMap (fun e =>
    if e.1 / 2 ^ 34 ≠ region ∨ c ≤ e.1 then some e
    else if e.1 + e.2.length ≤ c then none else some (c, e.2.drop (c - e.1)))

/-- The tile layout by which a region's arriving tiles are told apart: its own, or 2,048 bytes each. -/
def Region.arrivalLayout (r : Region) : Region := if r.check then r else { r with rowBytes := 2048, thLog2 := 0, small := false }

/-- The run of copied check entries that applies to a region (R272). -/
def PortState.runFor (core : Fin 8) (region : Nat) (q : PortState) : Option CheckRun :=
  q.checkRuns.find? (fun c => c.core == core.val && c.region == region)

/-- A run with its first entry used. -/
def PortState.useEntry (core : Fin 8) (region : Nat) (q : PortState) : PortState :=
  { q with checkRuns := (q.checkRuns.map (fun c =>
      if c.core == core.val && c.region == region then { c with entries := c.entries.drop 1 } else c)).filter (fun c => !c.entries.isEmpty) }

/-- A tile has arrived whole: a verified one is compared with its copied CRC and written with its entry; any other is sealed (R272). -/
def State.wholeTile (p : Fin 16) (x : RxEntry) (region tile : Nat) (s : State) : State :=
  if (s.core x.core).ropFrozen then s else
  let r := s.region region
  let lay := r.arrivalLayout
  let q := s.port p
  let data := tileData lay (fun o => bufByte q.tileBuf (bufKey region o)) tile
  let crc := (crc32c data).toNat
  match q.runFor x.core region with
  | some run =>
    let (want, prov) := run.entries.headD (0, 0)
    let s := s.modPort p (PortState.useEntry x.core region)
    if crc ≠ want then s.arrivalFault x 3 region 1 ((lay.segments tile).headD 0) tile crc
    else
      let parts := (lay.segments tile).zip (chunks lay.segment data)
      (parts.foldl (fun s (o, d) => s.arriveBytes x r .plain o d) s).arriveEntry x r tile want prov
  | none => s.arriveEntry x r tile crc (provenance x.core 4 0)

/-- PUT or GET reply data arrives at a region (R268, R272). -/
def State.arrivePut (p : Fin 16) (x : RxEntry) (region off : Nat) (data : Bytes) (s : State) : State :=
  let r := s.region region
  let lay := r.arrivalLayout
  let verified := ((s.port p).runFor x.core region).isSome
  let s := if verified then s else s.arriveBytes x r .plain off data
  if !verified && !r.check then s
  else
    let before := (s.port p).tileBuf
    let buf := bufAdd (bufKey region off) data before
    let old := coveredTiles lay (bufExtents region (before.filter (fun e => buf.contains e || decide (e.1 + e.2.length = bufKey region off))))
    let new := (coveredTiles lay (bufExtents region buf)).filter (fun j => !old.contains j)
    let s := s.modPort p (fun q => { q with tileBuf := buf })
    let s := new.foldl (fun s j => s.wholeTile p x region j) s
    let cut := new.foldl (fun c j =>
      if lay.thLog2 = 0 then max c ((lay.segments j).headD 0 + lay.segment)
      else if j % lay.rowt + 1 = lay.rowt then max c ((j / lay.rowt + 1) * lay.tileRow) else c) 0
    s.modPort p (fun q => { q with tileBuf := bufTrim region cut q.tileBuf })

/-- The data that a flit brings, and where: its payload, or the elements of a GX tile that its part completes (R271). -/
def State.arrivalData (p : Fin 16) (x : RxEntry) (region : Nat) (payload : Bytes) (s : State) : Nat × Bytes × State :=
  if !x.gx then (x.off, payload, s)
  else
    let key := bufKey region x.off
    let had := if x.part = 0 then [] else tabGet [] key (s.port p).gxBuf
    let img := padTo (256 * x.part) had ++ padTo 256 payload
    let w := gxWidth (s.quantum x.core x.anchorId)
    let lo := min 256 (256 * x.part / w)
    let hi := min 256 (img.length / w)
    let s := s.modPort p (fun q => { q with gxBuf := if x.part = 4 then tabDel key q.gxBuf else tabSet key img q.gxBuf })
    (x.off + 8 * lo, gxWords (s.quantum x.core x.anchorId) img lo hi, s)

/-- PUT, GET reply, ADD_I48, SET_BITS and CLR_BITS flits after the region check of the delivery ac (R248, R268, R270). -/
def State.deliverData (p : Fin 16) (x : RxEntry) (payload : Bytes) (s : State) : State :=
  let op := rxOpcode x.kind
  let put := x.kind == 1 || x.kind == 3
  let fop := if put then 1 else remoteFaultOp op
  let len := if x.gx then 2048 else payload.length
  match s.checkRegion 2 x.core x.region x.view (if put then 1 else 2) x.off len with
  | .fail k r => s.arrivalFault x k r fop x.off 0 0
  | .pass j =>
    if !put && (s.region j).check then s.arrivalFault x 2 j fop x.off 0 0
    else
      let (off, data, s) := s.arrivalData p x j payload
      if data.isEmpty then s
      else match x.kind with
        | 4 => s.arriveAdds x j off data
        | 5 => s.arriveBytes x (s.region j) .set off data
        | 6 => s.arriveBytes x (s.region j) .clr off data
        | _ => s.arrivePut p x j off data

/-- A GET request is acted on: its region check, and the flits of its reply for the port's positions of TX_KIND 2 from 20 ac on (R18,
R266 to R268; log 86). -/
def State.serveGet (p : Fin 16) (x : RxEntry) (payload : Bytes) (s : State) : State :=
  let (region, view, off, n) := Config.getFields payload
  match s.checkRegion 2 x.core region view 0 off (64 * n) with
  | .fail k r => s.arrivalFault x k r 0 off 0 0
  | .pass j =>
    let table := s.linkTable p
    let from' := s.stepOffset + 20
    let mine := fun e => txKind e == 2 && txCore e == x.core.val
    let first := (bookedFrom table (fun e => mine e && txFlit e == 0) (s.positionsLeft from') (positionFrom from') 1).headD 0
    let places := bookedFrom table mine (s.positionsLeft from') first (ceilDiv n 4)
    let parts := places.mapIdx (fun i k =>
      let (start, slot) := s.positionPlace p k
      (⟨start, slot, s.now, x.core, j, (s.region j).base + off + 256 * i, min 256 (64 * n - 256 * i)⟩ : ReplyPart))
    s.modPort p (fun q => { q with replies := q.replies ++ parts })

/-- A check flit: the copied entries of the up to 51 tiles that follow into the region of its entry (R272). -/
def State.takeCheckFlit (p : Fin 16) (x : RxEntry) (payload : Bytes) (s : State) : State :=
  match s.resolve x.region x.view true with
  | .error k => s.arrivalFault x k x.region 1 x.off 0 0
  | .ok j =>
    let n := min 51 ((payload.length - 1) / 5)
    let run : CheckRun := ⟨x.core.val, j, (List.range n).map (fun k => (leAt payload (5 * k) 4, payload.getD (5 * k + 4) 0))⟩
    s.modPort p (fun q => { q with
      checkRuns := q.checkRuns.filter (fun c => !(c.core == x.core.val && c.region == j)) ++ [run] })

/-- A checkpoint flit of the buddy: the stream is written from offset 0 of the region, and a new stream overwrites it (R374). -/
def State.takeCheckpoint (x : RxEntry) (payload : Bytes) (s : State) : State :=
  match s.resolve x.region x.view true with
  | .error k => s.arrivalFault x k x.region 1 0 0 0
  | .ok j =>
    let (at', total) := tabGet (0, 0) j s.ckpt.inbox
    match s.checkRegion 2 x.core x.region x.view 1 at' payload.length with
    | .fail k r => s.arrivalFault x k r 1 at' 0 0
    | .pass _ =>
      let total := if at' = 0 then leAt payload 120 8 else total
      let s := s.arriveBytes x (s.region j) .plain at' payload
      let at' := at' + payload.length
      { s with ckpt := { s.ckpt with inbox := tabSet j (if total ≤ at' then (0, 0) else (at', total)) s.ckpt.inbox } }

/-- The last flit of a transfer ends the run of copied entries of its region (R269, R272). -/
def State.endRun (p : Fin 16) (x : RxEntry) (s : State) : State :=
  match x.kind == 1 && x.sigLast, s.resolve x.region x.view true with
  | true, .ok j => s.modPort p (fun q => { q with checkRuns := q.checkRuns.filter (fun c => !(c.core == x.core.val && c.region == j)) })
  | _, _ => s

/-- The effect of a flit in its delivery ac; a SIGNAL, or SIG_LAST on a flit that took effect, changes its counter, which is seen two ac
later (R74, R268, R269). -/
def State.deliver (p : Fin 16) (a : Arrival) (s : State) : State :=
  let x := rxEntry a.entry
  if (s.core x.core).ropFrozen then s
  else if a.poison then s.linkPoison p x.core.val 2 a.slot
  else
    let s := match x.kind with
      | 0 => s
      | 2 => s.serveGet p x a.payload
      | 7 => s
      | 8 => s.takeCheckFlit p x a.payload
      | 9 => s.takeCheckpoint x a.payload
      | _ => (s.deliverData p x a.payload).endRun p x
    if (s.core x.core).ropFrozen || !(x.kind == 7 || (x.kind != 0 && x.sigLast)) then s
    else { s with inflight := s.inflight ++
      [⟨s.now + 1, false, rxOrigin x x.core, .counterAdd x.counter (BitVec.ofNat 32 x.increment)⟩] }

/-- A flit of a guarded transfer has missed at an earlier position of the port: later flits wait for it, so that they take effect in the
order of their positions (R269, R276, R277). -/
def State.waitsFor (p : Fin 16) (start : Nat) (s : State) : Bool :=
  (s.port p).damaged.any (fun d => d.missed && decide (d.start < start) && (rxEntry ((s.linkTable p).entry d.slot)).guard)

/-- The port's flits whose delivery ac has come and that wait for none (R268, R269). -/
def State.deliverable (p : Fin 16) (s : State) : List Arrival :=
  (s.port p).arrivals.filter (fun a => decide (a.deliver ≤ s.now) && !s.waitsFor p a.start)

/-- FLIT_DELIVERY: of the port's flits whose delivery ac has come, that of the earliest position takes effect (R268, R269, R276). -/
def execFlitDelivery (p : Fin 16) (s : State) : Out :=
  if !s.scheduleRuns then .next s else
  match earliest Arrival.start (s.deliverable p) with
  | none => .next s
  | some a => .next ((s.modPort p (fun x => { x with arrivals := x.arrivals.erase a })).deliver p a)

/-- A good flit with data waits for its delivery ac; a copy that is good only after that ac is delivered at once, and a checkpoint flit
while schedule time stands still is written at once (R39, R268, R274, R276). Every data flit that a job's position brings has the STAMP of
the position's start (R280). -/
def State.takeData (p : Fin 16) (f : Flit) (start : Nat) (s : State) : State :=
  let table := s.linkTable p
  let e := table.entry (flitSlot f)
  let x := rxEntry e
  let a : Arrival := ⟨max ((s.port p).delivery start) s.now, start, flitSlot f, e, flitPoison f, f.payload.take f.used⟩
  if x.kind = 9 ∧ flitSlot f < table.cycle ∧ !s.scheduleRuns then s.deliver p a
  else if !s.jobOn then s
  else if flitStamp f ≠ start % 256 then s.linkPoison p x.core.val 4 a.slot
  else if x.kind = 0 ∨ table.cycle ≤ flitSlot f then s
  else s.modPort p (fun y => { y with arrivals := y.arrivals ++ [a] })

/-- FLIT_RECEIVE: the far end's flit is decoded (R257, R273, R280). -/
def execFlitReceive (p : Fin 16) (f : Flit) (damaged : Bool) (s : State) : Out :=
  if !s.alive || !(s.port p).carries then .next s
  else if damaged then .next (s.takeDamaged p f)
  else
    let s := if flitFault f then s.linkPoison p 0 1 (flitSlot f) else s
    match flitKind f with
    | 1 => .next (s.takeData p f (s.slotStart p (flitSlot f)))
    | 2 =>
      let start := match (s.port p).damaged.find? (fun d => d.slot == flitSlot f) with
        | some d => d.start
        | none => s.slotStart p (flitSlot f)
      .next ((s.resolveCopy p f).takeData p f start)
    | _ => .next s

/-! ### Misses (R274) -/

/-- DEADLINE_MISS: the first damaged flit of a port whose deadline has passed. A guarded transfer raises a soak, an unguarded one is
link poison; a flit of no transfer is only counted (R274, R280). -/
def execDeadlineMiss (p : Fin 16) (s : State) : Out :=
  if !s.scheduleRuns then .next s else
  match (s.port p).damaged.find? (fun d => !d.missed && decide (d.deadline ≤ s.now)) with
  | none => .next s
  | some d =>
    let s := s.modPort p (fun x => { x with
      misses := satInc x.misses, damaged := x.damaged.map (fun y => if y = d then { y with missed := true } else y) })
    let x := rxEntry ((s.linkTable p).entry d.slot)
    if x.kind = 0 then .next s
    else if x.guard then .next (s.raiseSoak 1 (missTag p d.slot) true)
    else .next (s.linkPoison p x.core.val 3 d.slot)

/-! ### Lanes (R261) -/

/-- A failed lane joins the health record's list (R366). -/
def State.recordLane (p : Fin 16) (lane : Nat) (s : State) : State :=
  let e := p.val + 16 * lane
  if s.healthNow.lanes.contains e || decide (32 ≤ s.healthNow.lanes.length) then s
  else s.changeHealth (fun h => { h with lanes := h.lanes ++ [e] })

/-- LINK is not ready while the receiver of its lane is unlocked (R333). -/
def State.checkLinkClock (s : State) : State :=
  if s.linkLocked then s
  else { s with clock := { s.clock with linkMon := { s.clock.linkMon with ready := false, good := 0 } } }

/-- A lane of a port has failed, of those that it receives on (`rx`) or sends on; a second one fails the port (R256, R261). -/
def State.loseLane (p : Fin 16) (rx : Bool) (lane : Nat) (s : State) : State :=
  let s := ((s.modPort p (fun x => { x with failed := x.failed ++ [(rx, lane)] })).checkLinkClock).recordLane p lane
  if 2 ≤ (s.port p).failed.length then s.failPort p else s

/-- The port takes a failure of this lane: it carries flits, and the lane has not failed before in this direction. -/
def State.lanesChange (p : Fin 16) (rx : Bool) (lane : Nat) (s : State) : Bool :=
  s.alive && (s.port p).carries && !(s.port p).failed.contains (rx, lane)

/-- LANE_FAILURE: the receiving end reports the lane in a control flit (R261). The spare replaces no lane when it fails itself. -/
def execLaneFailure (p : Fin 16) (lane : Fin 9) (s : State) : Out :=
  if !s.lanesChange p true lane.val then .next s else
  let s := s.loseLane p true lane.val
  if (s.port p).st == 4 || lane.val == spareLane then .next s
  else .next (s.modPort p (fun x => { x with control := x.control ++ [.laneFailure lane.val] }))

/-- LANE_FAILURE_REPORT: the sending end sets the same switch, which counts from the ac in which the report was sent (R260, R261). -/
def execLaneFailureReport (p : Fin 16) (lane : Fin 9) (s : State) : Out :=
  if !s.lanesChange p false lane.val then .next s else
  let s := s.loseLane p false lane.val
  if (s.port p).st == 4 || lane.val == spareLane then .next s
  else
    let due := if s.scheduleRuns then roundUp (s.now - (s.port p).latency + 256) s.soakPeriod else s.now
    .next (s.modPort p (fun x => { x with remap := some (lane.val, due) }))

/-- LANE_REMAP: the port switches to the spare at its grid point, or at once while schedule time stands still (R261, R291). -/
def execLaneRemap (p : Fin 16) (s : State) : Out :=
  match (s.port p).remap with
  | none => .next s
  | some (lane, due) =>
    if s.scheduleRuns ∧ s.now < due then .next s
    else
      let s := s.modPort p (fun x => { x with st := 3, spareFor := BitVec.ofNat 4 lane, remap := none })
      .next (s.event 13 (u8 p.val ++ u8 lane) [])

end Sys2Proof.Machine
end

