-- ==== Sys2Proof/Machine/Service.lean ====
section
/-! DEFINITION. Health, tests on request, attestation, firmware update, recovery and the spy-hole by packet (R309, R310, R360, R362,
R366, R388 to R392, R396 to R401). -/
namespace Sys2Proof.Machine

/-! ### Parts of a record (R366, R398, R399) -/

/-- A part of a block: TOTAL and up to 8,192 bytes from PART × 8,192; none past its end. -/
def partOf (b : Bytes) (part : Nat) : Option Bytes :=
  if b.length ≤ part * 8192 then none else some (be32 b.length ++ (b.drop (part * 8192)).take 8192)

/-- The reply with a part of a block. -/
def replyPart (b : Bytes) (part : Nat) (s : State) : Reply :=
  match partOf b part with
  | some x => Reply.ok x s
  | none => Reply.refuse 2 s

/-! ### HEALTH_READ and TEST_RUN (R360, R362, R366, R384) -/

def healthReadSpec : Spec :=
  { cmd := fun p _ => .healthRead p, opcode := 0x0800, seats := allSeats, len := 2, long := true
    run := fun _ p s => replyPart s.healthBytes (beAt p.params 0 2) s }

def execHealthRead (p : Packet) (s : State) : Out := .next (receive healthReadSpec p s)

/-- TEST_RUN: the extended form on all cores; the slices that fail are the operand (R362). -/
def testRunSpec (failed : List (Fin 8 × Fin 40)) : Spec :=
  { cmd := fun p _ => .testRun p failed, opcode := 0x0801, seats := [1], len := 0, early := false, soon := 0x801
    run := fun _ _ s => if s.job.st != .empty then Reply.refuse 0x801 s else Reply.ok [] (s.extendedPass 2 failed) }

def execTestRun (p : Packet) (failed : List (Fin 8 × Fin 40)) (s : State) : Out := .next (receive (testRunSpec failed) p s)

/-! ### ATTEST and IDENTITY_READ (R310, R398, R399) -/

/-- STEP of the record in slot G; all ones where no final barrier has written one (R177, R399). -/
def State.commitStep (s : State) : Nat :=
  if s.job.stepNum = 0 then 2 ^ 64 - 1 else leAt (s.hbm.mem.readBytes (s.commitAddr s.job.g) 128) 8 8

/-- A digest of the loaded image's header; 0 in EMPTY (R399). -/
def State.imageDigest (f : ImageHeader → Bytes) (s : State) : Bytes :=
  match s.image with
  | some im => padTo 32 (f im.hdr)
  | none => List.replicate 32 0

def State.reportFlags (s : State) : Nat :=
  let ptp := match s.fcp.time with | some t => t.ptp | none => false
  bit s.fuses.identityKill + 2 * bit s.test.untested + 4 * bit s.test.suspect + 8 * bit (!s.claimed) + 16 * bit s.boot.recovered
    + 32 * bit s.cfg.testsOff + 64 * bit ptp

/-- The report over a nonce, signed (R399). -/
def State.buildReport (nonce : Bytes) (s : State) : Bytes :=
  let g := match s.healthInUse with | some h => h.generation | none => 0
  let body := le32 0x41545354 ++ le16 1 ++ le16 s.reportFlags ++ le64 State.orgId ++ padTo 32 nonce ++ padTo 32 Config.deviceId
    ++ padTo 32 s.boot.fwDigest ++ le64 s.boot.fwVersion ++ u8 s.boot.fwSvn ++ u8 s.fuses.svn ++ u8 s.job.st.code
    ++ List.replicate 5 0 ++ s.imageDigest (·.imageDigest) ++ s.imageDigest (·.clusterDigest) ++ s.imageDigest (·.manifestDigest)
    ++ sha256 s.healthBytes ++ le64 g ++ le64 s.commitStep ++ le64 s.wall.toNat ++ le64 (s.timeNs s.wall.toNat) ++ s.publicKey
    ++ List.replicate 64 0 ++ State.certificate
  body ++ s.sign body

/-- The report that a session, or session 0, holds. -/
def State.heldReport (x : Session) (s : State) : Option Bytes := if x.id = 0 then s.fcp.report0 else x.report

def State.holdReport (x : Session) (r : Bytes) (s : State) : State :=
  if x.id = 0 then { s with fcp := { s.fcp with report0 := some r } }
  else s.modSession x.id (fun y => { y with report := some r })

/-- The held report where its nonce is the request's, else a new one (R399). -/
def State.reportFor (x : Session) (nonce : Bytes) (s : State) : Bytes × State :=
  match s.heldReport x with
  | some r => if slice 0x10 32 r = nonce then (r, s) else
      let r := s.buildReport nonce
      (r, s.holdReport x r)
  | none =>
    let r := s.buildReport nonce
    (r, s.holdReport x r)

def attestSpec : Spec :=
  { cmd := fun p s => .attest p s.pins.claimEn, opcode := 0x0900, seats := allSeats, len := 34, long := true
    run := fun x p s =>
      let (r, s) := s.reportFor x (slice 0 32 p.params)
      replyPart r (beAt p.params 32 2) s }

/-- Session 0 is served on a claimed module, and on an unclaimed one while CLAIM_EN is asserted (R310, R312; log 50). -/
def State.servesZero (s : State) : Bool := s.claimed || s.pins.claimEn

def execAttest (p : Packet) (claimEn : Bool) (s : State) : Out :=
  .next (receiveBoth attestSpec State.servesZero p { s with pins := { s.pins with claimEn := claimEn } })

def identitySpec : Spec :=
  { cmd := fun p s => .identityRead p s.pins.claimEn, opcode := 0x0901, seats := allSeats, len := 2, long := true
    run := fun _ p s => replyPart State.certificate (beAt p.params 0 2) s }

def execIdentityRead (p : Packet) (claimEn : Bool) (s : State) : Out :=
  .next (receiveBoth identitySpec State.servesZero p { s with pins := { s.pins with claimEn := claimEn } })

/-! ### Firmware update (R313, R388, R390) -/

def fwBeginSpec : Spec :=
  { cmd := fun p _ => .fwBegin p, opcode := 0x0902, seats := [1], len := 8
    run := fun _ p s =>
      let n := beAt p.params 0 8
      if s.job.st != .empty || s.boot.rewriting then Reply.refuse 0x211 s
      else if n % 64 ≠ 0 ∨ fwMaxLength < n then Reply.refuse 2 s
      else Reply.ok [] { s with sec := { s.sec with fwPending := true, fwLength := n } } }

def execFwBegin (p : Packet) (s : State) : Out := .next (receive fwBeginSpec p s)

/-- FW_DATA; without an update under way it draws JOB_STATE (DEDUCED, log 76). -/
def fwDataSpec : Spec :=
  { cmd := fun p _ => .fwData p, opcode := 0x0903, seats := [1], len := 8, unit := 64, most := 8192
    run := fun _ p s =>
      let off := beAt p.params 0 8
      let data := p.params.drop 8
      if !s.sec.fwPending then Reply.refuse 0x211 s
      else if off % 64 ≠ 0 ∨ s.sec.fwLength < off + data.length then Reply.refuse 2 s
      else Reply.ok [] (s.apply (.hbm (s.staging.1 + off) data)) }

def execFwData (p : Packet) (s : State) : Out := .next (receive fwDataSpec p s)

/-- The status that a failed check of R388 draws (R390). -/
def fwStatus (check : Nat) : Nat :=
  match check with
  | 0 => 0
  | 1 => 2
  | 4 => 0x902
  | _ => 0x901

/-- FW_COMMIT: the checks, then the flash; `readBackOk` tells whether the read-back agrees. What a failed programming leaves in flash
is free (R390, log 1). -/
def fwCommitSpec (readBackOk : Bool) : Spec :=
  { cmd := fun p _ => .fwCommit p readBackOk, opcode := 0x0904, seats := [1], len := 0
    run := fun _ _ s =>
      if !s.sec.fwPending then Reply.refuse 0x211 s
      else
        let image := s.hbm.mem.readBytes s.staging.1 s.sec.fwLength
        let status := fwStatus (fwCheck s.fuses.svn image)
        let s := { s with sec := { s.sec with fwPending := false } }
        if status ≠ 0 then Reply.refuse status s
        else if readBackOk then Reply.ok [] { s with flash := { s.flash with firmware := image } }
        else
          let (n, s) := s.drawFree
          Reply.refuse 0x903 { s with flash := { s.flash with
            firmware := (List.range image.length).map (Config.freeByte n) } } }

def execFwCommit (p : Packet) (readBackOk : Bool) (s : State) : Out := .next (receive (fwCommitSpec readBackOk) p s)

/-! ### Recovery (R391, R392) -/

/-- The first byte from 0 that no extent covers. -/
def coveredTo : Nat → List (Nat × Nat) → Nat → Nat
  | 0, _, top => top
  | k + 1, got, top =>
    match got.find? (fun e => decide (e.1 ≤ top ∧ top < e.1 + e.2)) with
    | none => top
    | some e => coveredTo k got (e.1 + e.2)

/-- The image in SRAM, once the bytes from 0 to LENGTH − 1 of its header have all arrived. -/
def BootState.arrived (b : BootState) : Option Bytes :=
  let top := coveredTo b.sramGot.length b.sramGot 0
  let n := b.sram.readLe 0x0C 4
  if 64 ≤ top ∧ n ≤ top then some (b.sram.readBytes 0 n) else none

/-- The reply of the packet that completed the image (R391): SIGNATURE for the checks 1 to 3, ROLLBACK for check 4 (DEDUCED of check
1, log 76). -/
def recoveryStatus (check : Nat) : Nat := if check = 0 then 0 else if check = 4 then 0x902 else 0x901

/-- The boot ROM takes a block of the image (R391). -/
def State.recoveryBlock (p : Packet) (s : State) : State :=
  let off := beAt p.params 0 8
  let data := p.params.drop 8
  if !packetHeaderOk p || decide (p.params.length < 8) || off % 64 ≠ 0 || data.length % 64 ≠ 0
      || decide (8192 < data.length ∨ fwMaxLength < off + data.length) then s.reply p 0x0905 none 2 []
  else
    let b := { s.boot with sram := s.boot.sram.writeBytes off data, sramGot := s.boot.sramGot ++ [(off, data.length)] }
    let s := { s with boot := b }
    match b.arrived with
    | none => s.reply p 0x0905 none 0 []
    | some image =>
      let status := recoveryStatus (fwCheck s.fuses.svn image)
      let s := s.reply p 0x0905 none status []
      if status ≠ 0 then { s with boot := { s.boot with sram := [], sramGot := [] } }
      else ({ s with boot := { s.boot with recovered := true, rewriting := true } }).firmwareEntry image

/-- What the boot ROM's port takes: port 0, its link-local address, no MACsec, no VLAN, UDP port 47312 (R294, R391). -/
def romIntake (p : Packet) (s : State) : Bool :=
  s.romServes && p.port == 0 && s.eth[(0 : Fin 2)].link != 0 && p.prot == .bare && p.vlan == 0 && !p.fragmented
  && p.v6 && p.target.toNat == linkLocal 0 && p.udpPort == 47312

/-- RECOVERY_LOAD: the boot ROM takes it in recovery; the firmware drops it and counts it (R391). -/
def execRecoveryLoad (p : Packet) (s : State) : Out :=
  if romIntake p s then
    if p.magic != 0x46454C54 || p.session != 0 || !packetUnauth p || p.version != 1 || p.tag != List.replicate 16 0 then .next s
    else .next (s.recoveryBlock p)
  else match s.intake p with
    | .ignored => .next s
    | _ => .next (s.dropTag p.port)

/-- RECOVERY_REWRITE_DONE: the flash holds the recovered image (R391). -/
def execRecoveryRewriteDone (s : State) : Out :=
  if !s.alive || !s.boot.rewriting then .next s
  else match s.boot.arrived with
    | none => .next { s with boot := { s.boot with rewriting := false } }
    | some image => .next { s with
        flash := { s.flash with firmware := image }, boot := { s.boot with rewriting := false, sram := [], sramGot := [] } }

/-! ### The spy-hole port (R401) -/

/-- The steps of R401 after the reply; a firmware update under way is abandoned (R406). -/
def State.openPort (s : State) : State :=
  let s := { s with flash := { s.flash with keysA := none, keysB := none }, sec := { s.sec with fwPending := false } }
  let s := s.closeSessions (fun _ => true)
  let s := s.changeHealth (fun h => { h with opened := true })
  let s := ({ s with fuses := { s.fuses with identityKill := true } }).writeHealth
  { s with sec := { s.sec with spyholeOpen := true } }

def spyholeSpec : Spec :=
  { cmd := fun p s => .openSpyhole p s.pins.debugEn, opcode := 0x0A00, seats := [1], len := 4, early := false
    run := fun _ p s =>
      if beAt p.params 0 4 ≠ 0x4F50454E then Reply.refuse 2 s
      else if !s.pins.debugEn then Reply.refuse 0x904 s
      else if s.sec.spyholeOpen then Reply.refuse 0xA01 s
      else Reply.ok [] s.openPort }

/-- OPEN_SPYHOLE, with the level of DEBUG_EN as it executes (R401, R412). -/
def execOpenSpyhole (p : Packet) (debugEn : Bool) (s : State) : Out :=
  .next (receive spyholeSpec p { s with pins := { s.pins with debugEn := debugEn } })

end Sys2Proof.Machine
end

