-- ==== Sys2Proof/Machine/Update.lean ====
section
/-! DEFINITION. The update engine: norms and clipping, the learning rate, the optimiser, the working copy and its drift check,
the ledger close, the tables and the fingerprints (chapter 7). -/
namespace Sys2Proof.Machine

/-! ### Group records (R180) -/

structure GroupRec where
  opt : Nat
  mode : Nat
  wc : Nat
  leadId : Nat
  dwId : Nat
  wId : Nat
  clipCeil : Nat
  absurd : Nat
  lrMult : Nat
  wd : Nat
  b1 : Nat
  omb1 : Nat
  b2 : Nat
  omb2 : Nat
  eps : Nat
  gradScale : Nat
  ratioLo : Nat
  ratioHi : Nat
deriving DecidableEq, Repr

def groupRec (b : Bytes) : GroupRec :=
  let u := fun off => leAt b off 4
  ⟨leAt b 0 1, leAt b 1 1, leAt b 2 1, leAt b 4 2, leAt b 6 2, leAt b 8 2, u 0x0C, u 0x10, u 0x14, u 0x18, u 0x1C, u 0x20,
   u 0x24, u 0x28, u 0x2C, u 0x30, u 0x34, u 0x38⟩

def State.groupAddr (s : State) (g : Nat) : Nat := s.cfg.groupBase.toNat + 64 * g
def State.group (s : State) (c : Fin 8) (g : Nat) : GroupRec := groupRec ((s.sliceNow c).readBytes (s.groupAddr g) 64)
def State.entry (s : State) (c : Fin 8) (g : Nat) : GroupEntry := tabGet GroupEntry.initial g (s.core c).groups

/-! ### Norms (R182 to R184) -/

/-- What one element adds to NG, none where it is dropped (R182). -/
def normTerm (q dl : Int) : Option Nat :=
  if dl > 24 then none
  else
    let x := q.natAbs * q.natAbs
    let sh := 2 * dl + 64
    some (if sh ≥ 0 then x * 2 ^ sh.toNat else x / 2 ^ (-sh).toNat)

/-- The norm record that GSTORE writes (R182). -/
def normRecord (e : GroupEntry) : Bytes := leBytes 32 e.ng ++ le32 (bit e.nsat) ++ List.replicate 28 0

/-- The f32 nearest to n × 2^e, the largest f32 beyond its range, and whether it was beyond (R183, R184). -/
def f32Capped (n : Nat) (e : Int) : Nat × Bool :=
  let x := f32Round false (dyNum n e) (dyDen e)
  if x = 0x7F800000 then (f32MaxFinite, true) else (x, false)

/-- The decision of UCLIP (R183). -/
def clipDecision (g : GroupRec) (sc : StepCalc) (lead : Int) (recs : List (Nat × Bool)) (st : Nat) (old : GroupEntry) :
    GroupEntry :=
  let total := (recs.map (·.1)).foldl (· + ·) 0
  let nsat := recs.any (·.2) || decide (2 ^ 256 ≤ total)
  let (gn2, capped) := f32Capped total (2 * (lead - 32) - 64)
  let nsat := nsat || capped
  let gn := f32Sqrt gn2
  let clipped := f32Gt gn g.clipCeil
  let clip := if clipped then f32Div g.clipCeil gn else f32One
  let lagged := sc.lagOn && f32Gt sc.lag sc.globCeil
  let clip := if lagged then f32Mul clip (f32Div sc.globCeil sc.lag) else clip
  let abandon := bitAt st 1 || bitAt st 2 || nsat || f32Gt gn g.absurd
  { old with combined := total, lead := lead, st := if abandon then .abandon else .update, clip := clip, gn := gn,
             clipped := clipped, lagClipped := lagged, overNsat := nsat }

/-- The exact global norm over the groups that are decided (R184). -/
def globalNorm (es : List GroupEntry) : Nat :=
  match es with
  | [] => 0
  | e :: rest =>
    let lmax := rest.foldl (fun m x => max m x.lead) e.lead
    let s := (es.map (fun x => x.combined / 2 ^ (2 * (lmax - x.lead)).toNat)).foldl (· + ·) 0
    f32Sqrt (f32Capped s (2 * (lmax - 32) - 64)).1

/-! ### f32 results that saturate (R191) -/

/-- An f32 result that would be infinite is the largest finite value, and is noted (R191). -/
def capInf (x : Nat) : Nat × Bool :=
  if x = 0x7F800000 then (f32MaxFinite, true) else if x = 0xFF800000 then (0xFF7FFFFF, true) else (x, false)

/-- A running flag of saturation beside an f32. -/
structure Sf where
  v : Nat
  sat : Bool
deriving DecidableEq, Repr

def Sf.of (x : Nat) : Sf := ⟨x, false⟩
/-- A result of one rounding. -/
def Sf.cap (x : Nat) : Sf := ⟨(capInf x).1, (capInf x).2⟩
def Sf.lift (f : Nat → Nat → Nat) (a b : Sf) : Sf := let (x, k) := capInf (f a.v b.v); ⟨x, a.sat || b.sat || k⟩
def Sf.add := Sf.lift f32Add
def Sf.sub := Sf.lift f32Sub
def Sf.mul := Sf.lift f32Mul
def Sf.div := Sf.lift f32Div
def Sf.sqrt (a : Sf) : Sf := ⟨f32Sqrt a.v, a.sat⟩

/-! ### Learning rate (R185 to R188) -/

def powfFuel : Nat → Nat → Sf → Sf → Sf
  | 0, _, _, r => r
  | fuel + 1, n, b, r =>
    if n = 0 then r else powfFuel fuel (n / 2) (b.mul b) (if n % 2 = 1 then r.mul b else r)

/-- x to the power n in f32 (R186). -/
def powf (x n : Nat) : Sf := powfFuel 64 n (.of x) (.of f32One)

structure Segment where
  kind : Nat
  len : Nat
  lr0 : Nat
  lr1 : Nat
  every : Nat
  factor : Nat
deriving DecidableEq, Repr

def segment (b : Bytes) (k : Nat) : Segment :=
  let o := 0x010 + 24 * k
  ⟨leAt b o 1, leAt b (o + 4) 4, leAt b (o + 8) 4, leAt b (o + 0xC) 4, leAt b (o + 0x10) 4, leAt b (o + 0x14) 4⟩

/-- value(s, i) of R186. -/
def segValue (s : Segment) (i : Nat) : Sf :=
  let lr0 := Sf.of s.lr0
  let lr1 := Sf.of s.lr1
  match s.kind with
  | 1 => lr0.add ((lr1.sub lr0).mul (.of (f32Div (f32OfInt i) (f32OfInt s.len))))
  | 3 => lr0.mul (powf s.factor (i / s.every))
  | 4 =>
    let j := i * 256 / s.len
    let c := if j ≥ 256 then cosTable.getD 256 0
      else
        let fr := f32Div (f32OfInt (i * 256 % s.len)) (f32OfInt s.len)
        f32Add (cosTable.getD j 0) (f32Mul (f32Sub (cosTable.getD (j + 1) 0) (cosTable.getD j 0)) fr)
    lr1.add ((lr0.sub lr1).mul (.of c))
  | _ => lr0

def segFind : List Segment → Nat → Sf
  | [], _ => .of 0
  | [s], i => segValue s (min i s.len)
  | s :: rest, i => if i < s.len then segValue s i else segFind rest (i - s.len)

/-- lr_at(t) over a step record (R185, R186). -/
def lrAt (b : Bytes) (t : Nat) : Sf :=
  let segs := (List.range (leAt b 0x0C 1)).map (segment b)
  let first := leAt b 0 8
  if t < first then .of (segment b 0).lr0 else segFind segs (t - first)

/-- β1 and β2 of the lowest AdamW group (R188). -/
def State.betas (s : State) (c : Fin 8) : Nat × Nat :=
  let m := s.sliceNow c
  match (List.range 4096).find? (fun g => m.read (s.groupAddr g) == 0) with
  | some g => let r := s.group c g; (r.b1, r.b2)
  | none => (0, 0)

/-- What STEPCALC computes, and whether a result of it was infinite (R188, R191); a commit record exists after step 0 of a fresh job
(R184). -/
def stepCalcOf (s : State) (c : Fin 8) (rec commit : Bytes) : StepCalc × Bool :=
  let t := s.job.stepNum.toNat
  let (b1, b2) := s.betas c
  let bc := fun b => (Sf.of f32One).div ((Sf.of f32One).sub (powf b (t + 1)))
  let lr := lrAt rec t
  (⟨lr.v, (bc b1).v, (bc b2).v, s.job.lagClipEn && decide (0 < t), leAt commit 0x74 4, leAt rec 8 4⟩, lr.sat || (bc b1).sat || (bc b2).sat)

/-! ### The optimiser (R190 to R195) -/

/-- log2 ulp of a BF16 body: max(e, 1) − 134 (R192). -/
def bodyUlp (b : Nat) : Int := (max (field b 7 8) 1 : Nat) - 134

/-- body_value of a parameter; `k` is 8, 16 or, in stochastic mode, 0 (R192, R193). -/
def bodyValue (k b rem : Nat) : Nat :=
  let v := elemVal 7 b
  if k = 0 then f32Of v
  else f32Of (vAdd v (Val.ofInt (toSigned k rem) (bodyUlp b - k)))

/-- Split of the new weight into body and remainder, and FMT_SAT (R192). -/
def splitBody (k w2 : Nat) : Nat × Nat × Bool :=
  let c := outConv 7 .nearest w2
  match vAdd (f32Val w2) (vNeg (elemVal 7 c.bits)) with
  | .fin n m e =>
    let q := rneOf (scaledDiv m 1 (e - (bodyUlp c.bits - k)))
    let x : Int := if n then -(q : Int) else q
    let x := min (max x (-(2 ^ (k - 1)))) (2 ^ (k - 1) - 1)
    (c.bits, ofSigned k x, c.sat)
  | _ => (c.bits, 0, c.sat)

/-- Once-per-instruction values of UPDATE (R190). -/
structure UpdEnv where
  g : GroupRec
  lrg : Nat
  decay : Nat
  gs : Nat
  bc1 : Nat
  bc2 : Nat
  anchor : Int
  k : Nat
  sat0 : Bool

/-- One parameter's inputs: q, body, rem, m with its scale, sqv with its scale. -/
structure Param where
  q : Int
  body : Nat
  rem : Nat
  m : Nat
  ms : Nat
  sqv : Nat
  sqvs : Nat
deriving DecidableEq, Repr

/-- One parameter's results before storing: w, the new weight, m and sqrt(v), and the saturation flag (R190). -/
structure Stepped where
  w : Nat
  w2 : Nat
  m : Nat
  root : Nat
  dw : Nat
  sat : Bool
deriving DecidableEq, Repr

def stepParam (e : UpdEnv) (p : Param) : Stepped :=
  let g := e.g
  let f := Sf.of
  let gr := (Sf.cap (f32Of (Val.ofInt p.q (e.anchor - 32)))).mul (f e.gs)
  let w := bodyValue e.k p.body p.rem
  let m0 := Sf.cap (f32Of (scaledVal (elemVal 0 p.m) p.ms))
  let upd : Sf × Sf × Nat :=
    if g.opt = 0 then
      let v0 := Sf.cap (f32Of (scaledVal (elemVal 11 p.sqv) p.sqvs))
      let v0 := v0.mul v0
      let m := ((f g.b1).mul m0).add ((f g.omb1).mul gr)
      let v := ((f g.b2).mul v0).add ((f g.omb2).mul (gr.mul gr))
      let d := (m.mul (f e.bc1)).div (((v.mul (f e.bc2)).sqrt).add (f g.eps))
      (m, { d with sat := d.sat || v.sat || m.sat }, f32Sqrt v.v)
    else
      let m := ((f g.b1).mul m0).add gr
      let d := if g.opt = 2 then gr.add ((f g.b1).mul m) else m
      (m, d, 0)
  let (m, d, root) := upd
  let w2 := ((f w).mul (f e.decay)).sub ((f e.lrg).mul d)
  let dw := w2.sub (f w)
  ⟨w, w2.v, m.v, root, dw.v, w2.sat || dw.sat || m.sat || e.sat0⟩

/-- Bytes of a slice at an address, as a read of an ac sees them. -/
def State.spRead (s : State) (c : Fin 8) (t a n : Nat) : Bytes := (s.sliceAsOf c t).viaBytes a n

/-- Inputs of parameter `i` (R179, R189, R190). -/
def readParam (s : State) (c : Fin 8) (d : UpdDesc) (k i : Nat) : Param :=
  let t := s.now + 1 + i / 256
  let a := fun j => d.ins.getD j 0
  let sc := i / d.rowLen * ceilDiv d.rowLen 32 + i % d.rowLen / 32
  let rd := fun addr n => leNat (s.spRead c t addr n)
  ⟨i48Of (s.spRead c t (d.q + 8 * i) 8), rd (a 0 + 2 * i) 2, if k = 0 then 0 else rd (a 1 + k / 8 * i) (k / 8), rd (a 2 + i) 1,
   rd (a 3 + sc) 1, rd (a 4 + i) 1, rd (a 5 + sc) 1⟩

/-- Number of the bit of the bitmap that masks parameter `i`: its row, or its 64 × 64 block of the slice (log 37). -/
def updMaskBit (d : UpdDesc) (i : Nat) : Nat :=
  let r := i / d.rowLen
  if d.maskKind = 1 then r else ((d.rowBase + r) / 64 - d.rowBase / 64) * ceilDiv d.rowLen 64 + i % d.rowLen / 64

/-- A masked parameter (R160, R189, R195): a 0 bit of the bitmap, by row or by block (log 37), read in the ac of the item. -/
def updMasked (s : State) (c : Fin 8) (d : UpdDesc) (i : Nat) : Bool :=
  let idx := updMaskBit d i
  d.maskKind != 0 && !bitAt ((s.sliceAsOf c (s.now + 1 + i / 256)).via (d.maskA + idx / 8)).toNat (idx % 8)

/-- Per-item outputs as writes of 256 items per ac (R179). -/
def itemWrites (c : Fin 8) (o : Origin) (t0 base size : Nat) (vals : List Nat) : List Timed :=
  (chunks 256 vals).mapIdx (fun j ch => ⟨t0 + j, false, o.along (256 * j) 0, .sp c (base + 256 * size * j) .plain 4 (ch.flatMap (leBytes size))⟩)

/-- A requantised moment block: its scale and its elements (R194). -/
def momentBlock (s : State) (code tid : Nat) (d : UpdDesc) (emax : Int) (xs : List (Nat × Nat)) : Nat × List (Nat × Nat) :=
  match blockExponent emax (xs.map (fun x => Exact.ofF32 x.2)) with
  | none => (0, xs.map (fun x => (x.1, 0)))
  | some sc =>
    ((sc + 127).toNat, xs.map (fun x =>
      let u := s.draw tid (d.rowBase + x.1 / d.rowLen) (d.colBase + x.1 % d.rowLen) 0
      (x.1, blockElem code (.draw u) sc (.ofF32 x.2))))

/-- Indexes of the moment blocks of a slice, each as the list of its parameters (R173). -/
def momentBlocks (count rowLen : Nat) : List (List Nat) :=
  (List.range (count / rowLen)).flatMap (fun r =>
    (chunks 32 (List.range rowLen)).map (fun b => b.map (fun c => r * rowLen + c)))

/-- Everything that UPDATE writes (R190 to R196). -/
def updateEffects (s : State) (c : Fin 8) (o : Origin) (grp n : Nat) (d : UpdDesc) (e : UpdEnv) (abandon : Bool) :
    List Timed :=
  let idx := List.range n
  let ps := idx.map (readParam s c d e.k)
  let keep := idx.map (fun i => abandon || updMasked s c d i)
  let rs := ps.map (stepParam e)
  let body := (idx.zip (ps.zip (keep.zip rs))).map (fun (i, p, kp, r) =>
    if kp then (p.body, p.rem, false)
    else if e.k = 0 then
      let u := s.draw d.tid (d.rowBase + i / d.rowLen) (d.colBase + i % d.rowLen) 0
      let b := outConv 7 (.draw u) r.w2
      (b.bits, 0, b.sat || r.sat)
    else
      let (b, rem, sat) := splitBody e.k r.w2
      (b, rem, sat || r.sat))
  let blocks := momentBlocks n d.rowLen
  let moment := fun (code tid : Nat) (emax : Int) (val : Stepped → Nat) (oldE oldS : Param → Nat) =>
    blocks.map (fun b =>
      let i0 := b.headD 0
      if keep.getD i0 true then ((ps[i0]?.map oldS).getD 0, b.map (fun i => (i, (ps[i]?.map oldE).getD 0)))
      else momentBlock s code tid d emax (b.map (fun i => (i, (rs[i]?.map val).getD 0))))
  let ms := moment 0 (d.tid + 2) 8 (·.m) (·.m) (·.ms)
  let vs := moment 11 (d.tid + 4) 16 (·.root) (·.sqv) (·.sqvs)
  let t0 := s.now + 49
  let out := fun j => d.outs.getD j 0
  let scaleEffs := fun (base : Nat) (bl : List (Nat × List (Nat × Nat))) =>
    bl.mapIdx (fun j b => (⟨t0 + (((b.2.getLast?).map (·.1)).getD 0) / 256, false, o.along (b.2.headD (0, 0)).1 0, .sp c (base + j) .plain 4 (u8 b.1)⟩ : Timed))
  let lanes := (idx.zip (keep.zip rs)).foldl (fun (l : Lane × Lane) (x : Nat × Bool × Stepped) =>
    let sq := fun v => let y := f32Val v; vMul y y
    let masked := updMasked s c d x.1
    let w := if abandon && !masked then l.2 else l.2.addVal (s.anchor c e.g.wId) (sq x.2.2.w)
    let dw := if x.2.1 then l.1 else l.1.addVal (s.anchor c e.g.dwId) (sq x.2.2.dw)
    (dw, w)) (Lane.zero, Lane.zero)
  let fin := s.now + ceilDiv n 256 + 48
  itemWrites c o t0 (out 0) 2 (body.map (·.1))
  ++ (if e.k = 0 then [] else itemWrites c o t0 (out 1) (e.k / 8) (body.map (·.2.1)))
  ++ itemWrites c o t0 (out 2) 1 (ms.flatMap (fun b => b.2.map (·.2))) ++ scaleEffs (out 3) ms
  ++ (if e.g.opt = 0 then itemWrites c o t0 (out 4) 1 (vs.flatMap (fun b => b.2.map (·.2))) ++ scaleEffs (out 5) vs else [])
  ++ [⟨fin, false, o, .lanesAdd c grp lanes.1 lanes.2⟩]
  ++ (if body.any (·.2.2) then [⟨fin, false, o, .fmtSat⟩] else [])

/-- Slice extents that UPDATE reads or writes (R189). -/
def updExtents (d : UpdDesc) (k opt n : Nat) (addrs : List Nat) : List (Nat × Nat) :=
  let a := fun j => addrs.getD j 0
  let scales := n / d.rowLen * ceilDiv d.rowLen 32
  [(a 0, 2 * n), (a 1, k / 8 * n), (a 2, n), (a 3, scales)] ++ (if opt = 0 then [(a 4, n), (a 5, scales)] else [])

/-- Reads of UPDATE: the inputs of parameter i, its mask bit among them, in the ac of item i (R179, R189). -/
def updReads (s : State) (d : UpdDesc) (k opt n : Nat) : List SliceRead :=
  let a := fun j => d.ins.getD j 0
  (List.range n).flatMap (fun i =>
    let t := s.now + 1 + i / 256
    let sc := i / d.rowLen * ceilDiv d.rowLen 32 + i % d.rowLen / 32
    let rd := fun addr len => (⟨1, t, i, 0, addr, len⟩ : SliceRead)
    [rd (d.q + 8 * i) 8, rd (a 0 + 2 * i) 2, rd (a 1 + k / 8 * i) (k / 8), rd (a 2 + i) 1, rd (a 3 + sc) 1]
    ++ (if opt = 0 then [rd (a 4 + i) 1, rd (a 5 + sc) 1] else [])
    ++ (if d.maskKind = 0 then [] else [rd (d.maskA + updMaskBit d i / 8) 1]))

def updMaskExtent (d : UpdDesc) (n : Nat) : List (Nat × Nat) :=
  match d.maskKind with
  | 0 => []
  | 1 => [(d.maskA, ceilDiv (n / d.rowLen) 8)]
  | _ => [(d.maskA, ceilDiv (ceilDiv (n / d.rowLen + d.rowBase % 64) 64 * ceilDiv d.rowLen 64) 8)]

/-! ### Plans -/

/-- A schedule fault of kind expect mismatch at issue. -/
def updMismatch (o : Origin) : Plan := .fault (faultRec 7 o.master 0xFFFF 5 0 0 o.instr o.opcode 0 0 0)

/-- Reads of `n` items of a size, 256 in each ac from `t0` (R179). -/
def itemReads (t0 base size n : Nat) : List SliceRead := (List.range n).map (fun i => ⟨1, t0 + i / 256, i, 0, base + size * i, size⟩)

/-- A read of an extent in one ac. -/
def readIn (t : Nat) (e : Nat × Nat) : SliceRead := ⟨1, t, 0, 0, e.1, e.2⟩

/-- Check the accesses of an instruction, then run it until `last` (R248); its reads meet the errors of their code words (R232). -/
def updRun (s : State) (c : Fin 8) (o : Origin) (reads writes : List (Nat × Nat)) (extra : List Access) (last : Nat)
    (timed : Unit → List SliceRead) (effs : List Timed) : Plan :=
  match s.checkAll 0 c (reads.map (fun e => ⟨0, [e]⟩) ++ writes.map (fun e => ⟨1, [e]⟩) ++ extra) with
  | some (k, r, op, a) => sliceFault s o c k r op a
  | none => .run (last + 1) last (operandReads s c o (timed ()) ++ effs)

/-- Read the descriptor of an instruction: its region check, its reserved fields, the errors of its code words (R178, R232, log 34). -/
def withDesc (s : State) (c : Fin 8) (o : Origin) (u : UHead) (len : Nat) (reserved : Bytes → Bool) (f : Bytes → Plan) : Plan :=
  match s.checkSlice 0 c 0 u.desc len with
  | .fail k r => sliceFault s o c k r 0 u.desc
  | .pass _ =>
    let b := (s.sliceNow c).viaBytes u.desc len
    if !reserved b then updMismatch o
    else match f b with
      | .run free endAc effs => .run free endAc (operandReads s c o [readIn s.now (u.desc, len)] ++ effs)
      | p => p

def groupExt (s : State) (g : Nat) : Nat × Nat := (s.groupAddr g, 64)

/-- UNORM (R182). -/
def unormPlan (i : Issue) (s : State) (o : Origin) : Plan :=
  let c := i.core
  let u := uHead i.head
  withDesc s c o u 64 (fun b => zeroAt b 6 58) (fun b =>
    let dl := s.anchor c (leAt b 4 2) - s.anchor c (s.group c u.group).leadId
    let ts := (List.range u.count).map (fun j => normTerm (i48Of (s.spRead c (s.now + 1 + j / 256) (leAt b 0 4 + 8 * j) 8)) dl)
    let total := ts.foldl (fun a t => a + t.getD 0) 0
    let last := s.now + ceilDiv u.count 256 + 12
    updRun s c o [(leAt b 0 4, 8 * u.count), groupExt s u.group] [] [] last
      (fun _ => readIn s.now (groupExt s u.group) :: itemReads (s.now + 1) (leAt b 0 4) 8 u.count)
      [⟨last, false, o, .normAdd c u.group total (ts.any (fun t => t.isNone))⟩])

/-- GSTORE (R182, R196). -/
def gstorePlan (i : Issue) (s : State) (o : Origin) : Plan :=
  let u := uHead i.head
  let e := s.entry i.core u.group
  let d := if u.flags % 2 = 0 then normRecord e else e.dw2.record ++ e.w2.record
  updRun s i.core o [] [(u.desc, d.length)] [] (s.now + 4) (fun _ => []) [⟨s.now + 4, false, o, .sp i.core u.desc .plain 4 d⟩]

/-- UCLIP (R183). The STATUS words are those of STATUS_COUNT consecutive working slots (log 35). -/
def uclipPlan (i : Issue) (s : State) (o : Origin) : Plan :=
  let c := i.core
  let u := uHead i.head
  withDesc s c o u 64 (fun b => zeroAt b 38 26) (fun b =>
    let na := (List.range 8).map (fun k => leAt b (4 * k) 4)
    let sa := leAt b 32 4
    let sn := leAt b 36 2
    let m := s.sliceAsOf c s.now
    let recs := na.map (fun a => (leNat (m.viaBytes a 32), bitAt (m.viaLe (a + 32) 4) 0))
    let st := (List.range sn).foldl (fun x k => x ||| m.viaLe (sa + 16 * k + 12) 2) 0
    let g := s.group c u.group
    let e := clipDecision g (s.core c).stepCalc (s.anchor c g.leadId) recs st (s.entry c u.group)
    let reads := na.map (fun a => (a, 64)) ++ [(sa, 16 * sn), groupExt s u.group]
    updRun s c o reads [] [] (s.now + 40) (fun _ => reads.map (readIn s.now))
      [⟨s.now + 40, false, o, .groupSet c u.group e⟩])

/-- UPDATE (R181, R189 to R196). -/
def updatePlan (i : Issue) (s : State) (o : Origin) : Plan :=
  let c := i.core
  let u := uHead i.head
  withDesc s c o u 128 (fun b => zeroAt b 0x3B 1 && zeroAt b 0x4C 52) (fun b =>
    let d := updDesc b
    let g := s.group c u.group
    let e := s.entry c u.group
    let sc := (s.core c).stepCalc
    let k := if g.mode = 0 then 8 else if g.mode = 1 then 16 else 0
    let lrg := (Sf.of sc.lr).mul (Sf.of g.lrMult)
    let decay := (Sf.of f32One).sub (lrg.mul (Sf.of g.wd))
    let gs := (Sf.of g.gradScale).mul (Sf.of e.clip)
    let env : UpdEnv := ⟨g, lrg.v, decay.v, gs.v, sc.bc1, sc.bc2, s.anchor c d.gAnchor, k, decay.sat || gs.sat⟩
    if e.st == .undecided then updMismatch o
    else if d.rowLen = 0 ∨ u.count % d.rowLen ≠ 0 ∨ d.colBase % 32 ≠ 0 ∨ d.maskKind > 2
        ∨ (d.maskKind = 2 ∧ d.colBase % 64 ≠ 0) then updMismatch o
    else
      updRun s c o ((d.q, 8 * u.count) :: groupExt s u.group :: updExtents d k g.opt u.count d.ins ++ updMaskExtent d u.count)
        (updExtents d k g.opt u.count d.outs) [] (s.now + ceilDiv u.count 256 + 48)
        (fun _ => readIn s.now (groupExt s u.group) :: updReads s d k g.opt u.count)
        (updateEffects s c o u.group u.count d env (e.st == .abandon)))

/-- RATIO of the ratio entry (R191, R196). -/
def ratioOf (dw w : Nat) : Sf :=
  if w = 0 then .of (if dw = 0 then 0 else f32MaxFinite) else (Sf.of dw).div (.of w)

/-- UCLOSE (R196, R197). -/
def uclosePlan (i : Issue) (s : State) (o : Origin) : Plan :=
  let c := i.core
  let u := uHead i.head
  withDesc s c o u 64 (fun b => zeroAt b 36 28) (fun b =>
    let sa := (List.range 8).map (fun k => leAt b (4 * k) 4)
    let out := leAt b 32 4
    let m := s.sliceAsOf c s.now
    let g := s.group c u.group
    let e := s.entry c u.group
    let sum := fun off => sa.foldl (fun l a => l.addLane (Lane.ofRecord (m.viaBytes (a + off) 16))) Lane.zero
    let xd := (sum 0).exitFloat (s.anchor c g.dwId) 10 .nearest
    let xw := (sum 16).exitFloat (s.anchor c g.wId) 10 .nearest
    let dw := f32Sqrt xd.bits
    let w := f32Sqrt xw.bits
    let ratio := ratioOf dw w
    let oob := g.ratioHi != 0 && (f32Lt ratio.v g.ratioLo || f32Gt ratio.v g.ratioHi)
    let flags := bit oob + 2 * bit e.clipped + 4 * bit (e.st == .abandon) + 8 * bit e.overNsat + 16 * bit e.lagClipped
      + 32 * bit (s.job.fmtSat || ratio.sat)
    let entry := le64 s.job.stepNum.toNat ++ le16 u.group ++ le16 flags ++ le32 ratio.v ++ le32 dw ++ le32 w ++ le32 e.gn
      ++ le32 e.clip
    let t := s.now + 40
    if e.st == .undecided then updMismatch o
    else
      let reads := groupExt s u.group :: sa.map (fun a => (a, 32))
      updRun s c o reads [(out, 32)] [slotAccess s g.dwId, slotAccess s g.wId] t (fun _ => reads.map (readIn s.now))
      ([⟨t, false, o, .sp c out .plain 4 entry⟩, slotWrite s c t o 4 g.dwId xd.gather,
        { slotWrite s c t o 4 g.wId xw.gather with half := true }]
        ++ (if ratio.sat then [⟨t, false, o, .fmtSat⟩] else [])
        ++ (if oob && u.flags % 2 == 1 then [⟨t, false, o, .ratioBand entry u.group⟩] else [])))

/-- STEPCALC (R188). -/
def stepcalcPlan (i : Issue) (s : State) (o : Origin) : Plan :=
  let c := i.core
  let u := uHead i.head
  withDesc s c o u 64 (fun b => zeroAt b 8 56) (fun b =>
    let m := s.sliceAsOf c s.now
    let ra := leAt b 0 4
    let ca := leAt b 4 4
    updRun s c o [(ra, 400), (ca, 128)] [] [] (s.now + 160) (fun _ => [readIn s.now (ra, 400), readIn s.now (ca, 128)])
      (let x := stepCalcOf s c (m.viaBytes ra 400) (m.viaBytes ca 128)
       ⟨s.now + 160, false, o, .stepCalc c x.1⟩ :: (if x.2 then [⟨s.now + 160, false, o, .fmtSat⟩] else [])))

/-- GNORM (R184): the norm goes to DESC_ADDR and is latched for the commit record. -/
def gnormPlan (i : Issue) (s : State) (o : Origin) : Plan :=
  let u := uHead i.head
  let es := ((s.core i.core).groups.map (·.2)).filter (fun e => e.st != .undecided)
  let x := globalNorm es
  let t := s.now + 8200
  updRun s i.core o [] [(u.desc, 4)] [] t (fun _ => []) [⟨t, false, o, .sp i.core u.desc .plain 4 (le32 x)⟩, ⟨t, false, o, .gnorm x⟩]

/-- The working-copy code of a BF16 body element: nearest even, saturating, +0 for either zero (R123, R198). -/
def recastElem (wc b : Nat) : Nat :=
  match elemVal 7 b with
  | .fin n m e =>
    match fmtOf wc with
    | some f => (roundValue f .nearest n (dyNum m e) (dyDen e)).1
    | none => 0
  | .inf n => (match fmtOf wc with | some f => f.withSign n f.maxCode | none => 0)
  | .nan _ => canonicalNan wc nanOperand

/-- RECAST (R198). -/
def recastPlan (i : Issue) (s : State) (o : Origin) : Plan :=
  let c := i.core
  let u := uHead i.head
  withDesc s c o u 64 (fun b => zeroAt b 8 56) (fun b =>
    let ba := leAt b 0 4
    let wa := leAt b 4 4
    let wc := (s.group c u.group).wc
    let vals := (List.range u.count).map (fun j => recastElem wc (leNat (s.spRead c (s.now + 1 + j / 256) (ba + 2 * j) 2)))
    updRun s c o [(ba, 2 * u.count), groupExt s u.group] [(wa, u.count)] [] (s.now + ceilDiv u.count 256 + 16)
      (fun _ => readIn s.now (groupExt s u.group) :: itemReads (s.now + 1) ba 2 u.count)
      (itemWrites c o (s.now + 17) wa 1 vals))

/-- The drift check (R199): the first differing element is a fault of kind CRC at use, which counts as a CRC failure attributed
to compute (R363). -/
def driftPlan (i : Issue) (s : State) (o : Origin) : Plan :=
  let c := i.core
  let u := uHead i.head
  withDesc s c o u 64 (fun b => zeroAt b 8 56) (fun b =>
    let ba := leAt b 0 4
    let wa := leAt b 4 4
    let wc := (s.group c u.group).wc
    let differs := fun j =>
      let t := s.now + 1 + j / 256
      recastElem wc (leNat (s.spRead c t (ba + 2 * j) 2)) != leNat (s.spRead c t (wa + j) 1)
    let effs : List Timed := match (List.range u.count).find? differs with
      | none => []
      | some j =>
        let r := faultRec 3 o.master ((s.sliceRegion c (wa + j) 1).getD 0xFFFF) 0 2 (sliceAddress c (wa + j)) o.instr o.opcode j 0 0
        let t := s.now + 17 + j / 256
        [⟨t, false, o, .fault r⟩, ⟨t, false, o, .suspect 4 c.val⟩]
    updRun s c o [(ba, 2 * u.count), (wa, u.count), groupExt s u.group] [] [] (s.now + ceilDiv u.count 256 + 16)
      (fun _ => readIn s.now (groupExt s u.group) :: itemReads (s.now + 1) ba 2 u.count ++ itemReads (s.now + 1) wa 1 u.count) effs)

/-- LEDGER (R138, R200). -/
def ledgerPlan (i : Issue) (s : State) (o : Origin) : Plan :=
  let c := i.core
  let u := uHead i.head
  withDesc s c o u 64 (fun b => zeroAt b 14 50) (fun b =>
    let ri := leAt b 0 4
    let si := leAt b 4 4
    let ro := leAt b 8 4
    let effs := (List.range u.count).map (fun j =>
      let t := s.now + 1 + 34 * j
      let r := closeRecord (s.spRead c t (ri + 544 * j) 544) (s.spRead c t (si + 16 * j) 16) s.job.stepNum.toNat s.job.abandoned
      (⟨s.now + 42 + 34 * j, false, o.along j 0, .sp c (ro + 544 * j) .plain 4 r⟩ : Timed))
    updRun s c o [(ri, 544 * u.count), (si, 16 * u.count)] [(ro, 544 * u.count)] [] (s.now + 34 * u.count + 8)
      (fun _ => (List.range u.count).flatMap (fun j =>
        [⟨1, s.now + 1 + 34 * j, j, 0, ri + 544 * j, 544⟩, ⟨1, s.now + 1 + 34 * j, j, 0, si + 16 * j, 16⟩])) effs)

/-- TABLES (R155, R156, R200): anchor and quantum of id FIRST_ID + j in the same ac. -/
def tablesPlan (i : Issue) (s : State) (o : Origin) : Plan :=
  let c := i.core
  let u := uHead i.head
  withDesc s c o u 64 (fun b => zeroAt b 6 58) (fun b =>
    let ra := leAt b 0 4
    let first := leAt b 4 2
    let effs := (List.range u.count).map (fun j =>
      let t := s.now + 1 + j
      let r := s.spRead c t (ra + 544 * j) 544
      let id := (first + j) % 65536
      let next := s.job.stepNum.toNat + 1
      let a := toSigned 16 (leAt r 0x00A 2)
      let q := if leAt r 6 1 = 1 then deriveQuantum r (s.gxKeep id) next a else 0
      (⟨t, false, o.along j 0, .tables c id a q⟩ : Timed))
    updRun s c o [(ra, 544 * u.count)] [] [] (s.now + u.count + 1)
      (fun _ => (List.range u.count).map (fun j => ⟨1, s.now + 1 + j, j, 0, ra + 544 * j, 544⟩)) effs)

/-- Absorb bytes into a SHA-256 slot (R201). -/
def shaAbsorb (x : ShaSlot) (d : Bytes) : ShaSlot :=
  let all := x.buf ++ d
  let whole := all.length / 64
  { hv := (chunks 64 (all.take (64 * whole))).foldl shaBlock x.hv, buf := all.drop (64 * whole), len := x.len + d.length }

def shaFresh : ShaSlot := ⟨shaInit, [], 0⟩

/-- The digest of a slot. -/
def shaFinal (x : ShaSlot) : Bytes := shaDigest ((chunks 64 (x.buf ++ shaPad x.len)).foldl shaBlock x.hv)

/-- HASH (R201). -/
def hashPlan (i : Issue) (s : State) (o : Origin) : Plan :=
  let c := i.core
  let u := uHead i.head
  withDesc s c o u 64 (fun b => zeroAt b 8 56) (fun b =>
    let src := leAt b 0 4
    let dst := leAt b 4 4
    let n := u.flags % 4
    let d := (List.range (ceilDiv u.count 32)).flatMap (fun j =>
      s.spRead c (s.now + 1 + j) (src + 32 * j) (min 32 (u.count - 32 * j)))
    let start := if bitAt u.flags 2 then shaFresh else tabGet shaFresh n (s.core c).sha
    let x := shaAbsorb start d
    let t := s.now + ceilDiv u.count 32 + 70
    let fin := bitAt u.flags 3
    updRun s c o [(src, u.count)] (if fin then [(dst, 32)] else []) [] t
      (fun _ => (List.range (ceilDiv u.count 32)).map (fun j =>
        ⟨1, s.now + 1 + j, 32 * j, 0, src + 32 * j, min 32 (u.count - 32 * j)⟩))
      ([⟨t, false, o, .shaSlot c n x⟩]
        ++ (if fin then [⟨t, false, o, .sp c dst .plain 4 (shaFinal x)⟩] else [])
        ++ (if fin && bitAt u.flags 4 then [⟨t, false, o, .fprint (shaFinal x)⟩] else [])))

def execUnorm (i : Issue) (s : State) : Out := worded (updWord 0x040 i) (s.issueUnit i (unormPlan i))
def execGstore (i : Issue) (s : State) : Out := worded (updWord 0x041 i) (s.issueUnit i (gstorePlan i))
def execUclip (i : Issue) (s : State) : Out := worded (updWord 0x042 i) (s.issueUnit i (uclipPlan i))
def execUpdate (i : Issue) (s : State) : Out := worded (updWord 0x043 i) (s.issueUnit i (updatePlan i))
def execUclose (i : Issue) (s : State) : Out := worded (updWord 0x044 i) (s.issueUnit i (uclosePlan i))
def execStepcalc (i : Issue) (s : State) : Out := worded (updWord 0x045 i) (s.issueUnit i (stepcalcPlan i))
def execGnorm (i : Issue) (s : State) : Out := worded (updWord 0x046 i) (s.issueUnit i (gnormPlan i))
/-- RECAST: CHECK clear (R178). -/
def execRecast (i : Issue) (s : State) : Out :=
  worded (updWord 0x047 i && (uHead i.head).flags == 0) (s.issueUnit i (recastPlan i))
/-- The drift check: CHECK set (R178, R199). -/
def execDriftCheck (i : Issue) (s : State) : Out :=
  worded (updWord 0x047 i && (uHead i.head).flags == 1) (s.issueUnit i (driftPlan i))
def execLedger (i : Issue) (s : State) : Out := worded (updWord 0x048 i) (s.issueUnit i (ledgerPlan i))
def execTables (i : Issue) (s : State) : Out := worded (updWord 0x049 i) (s.issueUnit i (tablesPlan i))
def execHash (i : Issue) (s : State) : Out := worded (updWord 0x04A i) (s.issueUnit i (hashPlan i))

end Sys2Proof.Machine
end

