-- ==== Sys2Proof/Machine/Dispatch.lean ====
section
/-! DEFINITION. The dispatch of commands: one arm for each constructor of `Instr`. -/
namespace Sys2Proof.Machine

def exec (i : Instr) (s : State) : Host.Outcome State Fault Refusal :=
  match i with
  | .nop w => Sys2Proof.Machine.execNop w s
  | .delay w => Sys2Proof.Machine.execDelay w s
  | .signal w => Sys2Proof.Machine.execSignal w s
  | .set w => Sys2Proof.Machine.execSet w s
  | .expect w => Sys2Proof.Machine.execExpect w s
  | .barrierDue => Sys2Proof.Machine.execBarrierDue s
  | .barrierToken port grid => Sys2Proof.Machine.execBarrierToken port grid s
  | .barrierRelease => Sys2Proof.Machine.execBarrierRelease s
  | .holdNotice => Sys2Proof.Machine.execHoldNotice s
  | .mmul w => Sys2Proof.Machine.execMmul w s
  | .mmulPack w => Sys2Proof.Machine.execMmulPack w s
  | .vchain w => Sys2Proof.Machine.execVchain w s
  | .softmax w => Sys2Proof.Machine.execSoftmax w s
  | .norm w => Sys2Proof.Machine.execNorm w s
  | .accsum w => Sys2Proof.Machine.execAccsum w s
  | .rsum w => Sys2Proof.Machine.execRsum w s
  | .rmean w => Sys2Proof.Machine.execRmean w s
  | .rmax w => Sys2Proof.Machine.execRmax w s
  | .rmin w => Sys2Proof.Machine.execRmin w s
  | .rargmax w => Sys2Proof.Machine.execRargmax w s
  | .rargmin w => Sys2Proof.Machine.execRargmin w s
  | .rcount w => Sys2Proof.Machine.execRcount w s
  | .rsumf w => Sys2Proof.Machine.execRsumf w s
  | .rprod w => Sys2Proof.Machine.execRprod w s
  | .rlse w => Sys2Proof.Machine.execRlse w s
  | .scan w => Sys2Proof.Machine.execScan w s
  | .dscan w => Sys2Proof.Machine.execDscan w s
  | .gather w => Sys2Proof.Machine.execGather w s
  | .scatter w => Sys2Proof.Machine.execScatter w s
  | .compact w => Sys2Proof.Machine.execCompact w s
  | .unorm w => Sys2Proof.Machine.execUnorm w s
  | .gstore w => Sys2Proof.Machine.execGstore w s
  | .uclip w => Sys2Proof.Machine.execUclip w s
  | .update w => Sys2Proof.Machine.execUpdate w s
  | .uclose w => Sys2Proof.Machine.execUclose w s
  | .stepcalc w => Sys2Proof.Machine.execStepcalc w s
  | .gnorm w => Sys2Proof.Machine.execGnorm w s
  | .recast w => Sys2Proof.Machine.execRecast w s
  | .driftCheck w => Sys2Proof.Machine.execDriftCheck w s
  | .ledger w => Sys2Proof.Machine.execLedger w s
  | .tables w => Sys2Proof.Machine.execTables w s
  | .hash w => Sys2Proof.Machine.execHash w s
  | .move w => Sys2Proof.Machine.execMove w s
  | .fill w => Sys2Proof.Machine.execFill w s
  | .holdLatencyEnd => Sys2Proof.Machine.execHoldLatencyEnd s
  | .put w => Sys2Proof.Machine.execPut w s
  | .get w => Sys2Proof.Machine.execGet w s
  | .addI48 w => Sys2Proof.Machine.execAddI48 w s
  | .setBits w => Sys2Proof.Machine.execSetBits w s
  | .clrBits w => Sys2Proof.Machine.execClrBits w s
  | .remoteSignal w => Sys2Proof.Machine.execRemoteSignal w s
  | .hbmNop h => Sys2Proof.Machine.execHbmNop h s
  | .act h => Sys2Proof.Machine.execAct h s
  | .rd h sev => Sys2Proof.Machine.execRd h sev s
  | .wr h => Sys2Proof.Machine.execWr h s
  | .pre h => Sys2Proof.Machine.execPre h s
  | .refpb h => Sys2Proof.Machine.execRefpb h s
  | .hbmDelay h => Sys2Proof.Machine.execHbmDelay h s
  | .fabricSlot channel dir half => Sys2Proof.Machine.execFabricSlot channel dir half s
  | .flitTransmit port => Sys2Proof.Machine.execFlitTransmit port s
  | .flitReceive port flit damaged => Sys2Proof.Machine.execFlitReceive port flit damaged s
  | .nak port slot => Sys2Proof.Machine.execNak port slot s
  | .flitDelivery port => Sys2Proof.Machine.execFlitDelivery port s
  | .deadlineMiss port => Sys2Proof.Machine.execDeadlineMiss port s
  | .soakToken port grid => Sys2Proof.Machine.execSoakToken port grid s
  | .soakStop => Sys2Proof.Machine.execSoakStop s
  | .restartToken port grid => Sys2Proof.Machine.execRestartToken port grid s
  | .soakRelease => Sys2Proof.Machine.execSoakRelease s
  | .laneFailure port lane => Sys2Proof.Machine.execLaneFailure port lane s
  | .laneFailureReport port lane => Sys2Proof.Machine.execLaneFailureReport port lane s
  | .laneRemap port => Sys2Proof.Machine.execLaneRemap port s
  | .portUp port m => Sys2Proof.Machine.execPortUp port m s
  | .lockedReport r => Sys2Proof.Machine.execLockedReport r s
  | .fcpNop p => Sys2Proof.Machine.execFcpNop p s
  | .sessionOpen p => Sys2Proof.Machine.execSessionOpen p s
  | .sessionAuth p => Sys2Proof.Machine.execSessionAuth p s
  | .sessionClose p => Sys2Proof.Machine.execSessionClose p s
  | .sessionThaw p => Sys2Proof.Machine.execSessionThaw p s
  | .subscribe p => Sys2Proof.Machine.execSubscribe p s
  | .sessionList p => Sys2Proof.Machine.execSessionList p s
  | .setOperatorKey p claimEn => Sys2Proof.Machine.execSetOperatorKey p claimEn s
  | .setSeatKey p => Sys2Proof.Machine.execSetSeatKey p s
  | .unclaim p => Sys2Proof.Machine.execUnclaim p s
  | .jobStatus p => Sys2Proof.Machine.execJobStatus p s
  | .loadImage p => Sys2Proof.Machine.execLoadImage p s
  | .startAtBarrier p => Sys2Proof.Machine.execStartAtBarrier p s
  | .haltAtBarrier p => Sys2Proof.Machine.execHaltAtBarrier p s
  | .unload p => Sys2Proof.Machine.execUnload p s
  | .setOpPoint p => Sys2Proof.Machine.execSetOpPoint p s
  | .ringWrite p => Sys2Proof.Machine.execRingWrite p s
  | .ringPublish p => Sys2Proof.Machine.execRingPublish p s
  | .ringStatus p => Sys2Proof.Machine.execRingStatus p s
  | .replayLoad p => Sys2Proof.Machine.execReplayLoad p s
  | .memRead p => Sys2Proof.Machine.execMemRead p s
  | .memWrite p => Sys2Proof.Machine.execMemWrite p s
  | .regionRead p => Sys2Proof.Machine.execRegionRead p s
  | .counterRead p => Sys2Proof.Machine.execCounterRead p s
  | .ckptRequest p => Sys2Proof.Machine.execCkptRequest p s
  | .ckptAck p => Sys2Proof.Machine.execCkptAck p s
  | .ckptStatus p => Sys2Proof.Machine.execCkptStatus p s
  | .ckptChunk => Sys2Proof.Machine.execCkptChunk s
  | .ckptResend => Sys2Proof.Machine.execCkptResend s
  | .restoreBegin p => Sys2Proof.Machine.execRestoreBegin p s
  | .restoreData p => Sys2Proof.Machine.execRestoreData p s
  | .restoreEnd p => Sys2Proof.Machine.execRestoreEnd p s
  | .logRead p => Sys2Proof.Machine.execLogRead p s
  | .logAck p => Sys2Proof.Machine.execLogAck p s
  | .inputLogRead p => Sys2Proof.Machine.execInputLogRead p s
  | .inputLogAck p => Sys2Proof.Machine.execInputLogAck p s
  | .telemetryRead p => Sys2Proof.Machine.execTelemetryRead p s
  | .faultLogRead p => Sys2Proof.Machine.execFaultLogRead p s
  | .cfgRead p => Sys2Proof.Machine.execCfgRead p s
  | .cfgWrite p => Sys2Proof.Machine.execCfgWrite p s
  | .rootSrcWrite p => Sys2Proof.Machine.execRootSrcWrite p s
  | .rootRelock => Sys2Proof.Machine.execRootRelock s
  | .logClear p => Sys2Proof.Machine.execLogClear p s
  | .declare p => Sys2Proof.Machine.execDeclare p s
  | .policyClippedClear p => Sys2Proof.Machine.execPolicyClippedClear p s
  | .cfgSave p => Sys2Proof.Machine.execCfgSave p s
  | .setTime p => Sys2Proof.Machine.execSetTime p s
  | .macsecKey p => Sys2Proof.Machine.execMacsecKey p s
  | .healthRead p => Sys2Proof.Machine.execHealthRead p s
  | .testRun p failed => Sys2Proof.Machine.execTestRun p failed s
  | .attest p claimEn => Sys2Proof.Machine.execAttest p claimEn s
  | .identityRead p claimEn => Sys2Proof.Machine.execIdentityRead p claimEn s
  | .fwBegin p => Sys2Proof.Machine.execFwBegin p s
  | .fwData p => Sys2Proof.Machine.execFwData p s
  | .fwCommit p readBackOk => Sys2Proof.Machine.execFwCommit p readBackOk s
  | .recoveryLoad p => Sys2Proof.Machine.execRecoveryLoad p s
  | .recoveryRewriteDone => Sys2Proof.Machine.execRecoveryRewriteDone s
  | .openSpyhole p debugEn => Sys2Proof.Machine.execOpenSpyhole p debugEn s
  | .notice => Sys2Proof.Machine.execNotice s
  | .sessionIdle session => Sys2Proof.Machine.execSessionIdle session s
  | .pendingSessionExpiry session => Sys2Proof.Machine.execPendingSessionExpiry session s
  | .pauseFrame port => Sys2Proof.Machine.execPauseFrame port s
  | .neighbourDiscovery f target src => Sys2Proof.Machine.execNeighbourDiscovery f target src s
  | .arp f target src => Sys2Proof.Machine.execArp f target src s
  | .echo f v6 target src data => Sys2Proof.Machine.execEcho f v6 target src data s
  | .ptpMessage f m locked taiNs => Sys2Proof.Machine.execPtpMessage f m locked taiNs s
  | .fineMonitorGate src gate => Sys2Proof.Machine.execFineMonitorGate src gate s
  | .grossMonitorGate src deviation => Sys2Proof.Machine.execGrossMonitorGate src deviation s
  | .sourceReadyCount src => Sys2Proof.Machine.execSourceReadyCount src s
  | .railSettled => Sys2Proof.Machine.execRailSettled s
  | .avsStep vReqMv => Sys2Proof.Machine.execAvsStep vReqMv s
  | .droop => Sys2Proof.Machine.execDroop s
  | .powerSample m => Sys2Proof.Machine.execPowerSample m s
  | .dieSensorSample readings => Sys2Proof.Machine.execDieSensorSample readings s
  | .stackSensorSample stack reading => Sys2Proof.Machine.execStackSensorSample stack reading s
  | .coolantSample inlet outlet flow => Sys2Proof.Machine.execCoolantSample inlet outlet flow s
  | .drawRingWindow core => Sys2Proof.Machine.execDrawRingWindow core s
  | .testSliceDone core pass detail ecc => Sys2Proof.Machine.execTestSliceDone core pass detail ecc s
  | .healthRecordWrite => Sys2Proof.Machine.execHealthRecordWrite s
  | .trngFail => Sys2Proof.Machine.execTrngFail s
  | .inputPowerOn => Sys2Proof.Machine.execInputPowerOn s
  | .inrushEnd => Sys2Proof.Machine.execInrushEnd s
  | .inputUnderVoltage => Sys2Proof.Machine.execInputUnderVoltage s
  | .pwrEnRise => Sys2Proof.Machine.execPwrEnRise s
  | .pwrOk => Sys2Proof.Machine.execPwrOk s
  | .pwrEnFall => Sys2Proof.Machine.execPwrEnFall s
  | .railFault rail => Sys2Proof.Machine.execRailFault rail s
  | .sb3v3Loss => Sys2Proof.Machine.execSb3v3Loss s
  | .resetNLow => Sys2Proof.Machine.execResetNLow s
  | .resetNRise straps => Sys2Proof.Machine.execResetNRise straps s
  | .bootRom => Sys2Proof.Machine.execBootRom s
  | .firmwareLoad => Sys2Proof.Machine.execFirmwareLoad s
  | .recovery => Sys2Proof.Machine.execRecovery s
  | .rootLock => Sys2Proof.Machine.execRootLock s
  | .hbmTraining => Sys2Proof.Machine.execHbmTraining s
  | .powerOnPass failed => Sys2Proof.Machine.execPowerOnPass failed s
  | .linkTraining ports => Sys2Proof.Machine.execLinkTraining ports s
  | .clockFollow depth => Sys2Proof.Machine.execClockFollow depth s
  | .unfollowed => Sys2Proof.Machine.execUnfollowed s
  | .channelMeasurement ports parentWall => Sys2Proof.Machine.execChannelMeasurement ports parentWall s
  | .ready ms => Sys2Proof.Machine.execReady ms s
  | .stageOverrun => Sys2Proof.Machine.execStageOverrun s
  | .extest => Sys2Proof.Machine.execExtest s
  | .idcode => Sys2Proof.Machine.execIdcode s
  | .samplePreload => Sys2Proof.Machine.execSamplePreload s
  | .clamp => Sys2Proof.Machine.execClamp s
  | .highz => Sys2Proof.Machine.execHighz s
  | .bypass => Sys2Proof.Machine.execBypass s
  | .acExtest => Sys2Proof.Machine.execAcExtest s
  | .trstN => Sys2Proof.Machine.execTrstN s
  | .spyScan core unit addr => Sys2Proof.Machine.execSpyScan core unit addr s
  | .spyFrozenState core unit addr => Sys2Proof.Machine.execSpyFrozenState core unit addr s
  | .spyTrace core unit addr => Sys2Proof.Machine.execSpyTrace core unit addr s
  | .spyData => Sys2Proof.Machine.execSpyData s
  | .ingressDrop port => Sys2Proof.Machine.execIngressDrop port s
  | .badTag p => Sys2Proof.Machine.execBadTag p s
  | .badOpcode p opcode => Sys2Proof.Machine.execBadOpcode p opcode s
  | .ethLinkUp port => Sys2Proof.Machine.execEthLinkUp port s
  | .ethLinkDown port => Sys2Proof.Machine.execEthLinkDown port s
  | .s1Break => Sys2Proof.Machine.execS1Break s
  | .sb3v3Return => Sys2Proof.Machine.execSb3v3Return s

end Sys2Proof.Machine
end

