-- ==== Sys2Proof/Machine/Replay.lean ====
section
/-! DEFINITION. How instructions in progress take effect: what an instruction does in an ac follows from its issue and from memory as each
of its reads finds it in the ac of the read (R25, R26, R43, R99, R120, R179, R207, R227, R231, R244, R249). -/
namespace Sys2Proof.Machine

/-- The plan of an update-engine instruction (R178). -/
def updPlan (i : Issue) : State → Origin → Plan :=
  match issueOpcode i with
  | 0x040 => unormPlan i | 0x041 => gstorePlan i | 0x042 => uclipPlan i | 0x043 => updatePlan i | 0x044 => uclosePlan i
  | 0x045 => stepcalcPlan i | 0x046 => gnormPlan i
  | 0x047 => if (uHead i.head).flags = 0 then recastPlan i else driftPlan i
  | 0x048 => ledgerPlan i | 0x049 => tablesPlan i | _ => hashPlan i

/-- The plan of an issued word, by its unit and opcode (R65, R112, R178, R208, R243, R265). -/
def planOf (i : Issue) (s : State) (o : Origin) : Plan :=
  match i.unit.val with
  | 0 => (if issueOpcode i = 0x040 then mmulPlan i s o else packPlan i s o).toPlan
  | 1 => vecPlan (issueOpcode i) i s o
  | 2 => updPlan i s o
  | _ => match issueOpcode i with
    | 0x040 => movePlan i s o
    | 0x041 => fillPlan i s o
    | op => remotePlan op i s o

/-- What memory held, with the undefined data that a spoiled read got in its ac (R231). -/
def Spoil.among (x : Spoil) (past : List Former) : List Former :=
  past.takeWhile (fun f => decide (x.at_ ≤ f.at_)) ++ [⟨x.at_, some x.core, x.addr, x.got⟩, ⟨x.at_ - 1, some x.core, x.addr, x.held⟩]
    ++ past.dropWhile (fun f => decide (x.at_ ≤ f.at_))

/-- The state as an instruction in progress takes it: its ac of issue, the job's fields and its core's tables of that ac (R119, R135,
R171), and memory, which its reads take back to their own acs. -/
def State.view (s : State) (r : Running) : State :=
  let k := s.core r.issue.core
  { s.setCore r.issue.core { r.core with mem := k.mem, ecc := k.ecc, crossed := k.crossed } with
    sched := BitVec.ofNat _ r.at_, job := r.job, past := r.spoils.foldl (fun l x => x.among l) s.past }

/-- The plan of an instruction in progress as memory now stands. -/
def State.planNow (s : State) (r : Running) : Plan := planOf r.issue (s.view r) r.org

/-- The effects of this ac: those under way, and those of the instructions in progress, less what a stop has cut off (R249). -/
def State.effectsNow (s : State) : List Timed :=
  ((s.inflight.filter (fun t => decide (t.at_ ≤ s.now))
    ++ (if s.scheduleRuns then s.running.flatMap (fun r => (s.planNow r).effects.filter (fun t => t.at_ == s.now)) else [])).filter
      (Timed.goesOn s.stopped)).flatMap (Timed.expand s)

/-- A SET of a counter or an access to a bank, which come first in an ac (R74, R230). -/
def Timed.early (t : Timed) : Bool := t.eff.isSet || t.eff.port != 16

def Effect.isFault : Effect → Bool
  | .fault _ => true
  | _ => false

/-- An effect that is no access takes place; an instruction that faults in its last ac is not completed (R226, R249). -/
def State.settle (s : State) (t : Timed) : State :=
  match t.eff with
  | .vecDone _ _ => if s.stopped.any (fun x => x.master == t.org.master && x.at_ == t.at_) then s else s.apply t.eff
  | _ => s.apply t.eff

/-- Instructions that have had their last effect are no longer in progress; those of a pair end together (R353). -/
def State.retire (s : State) : State :=
  let endAc := fun (r : Running) => decide ((s.planNow r).endAc ≤ s.now)
  { s with running := s.running.filter (fun r =>
      !(endAc r && s.running.all (fun q => !(q.at_ == r.at_ && q.issue == { r.issue with core := q.issue.core }
        && q.issue.core.val / 2 == r.issue.core.val / 2) || endAc q))) }

/-- A DMA engine whose bytes come through the fabric is busy until its last write (R69, R244). -/
def State.refreshBusy (s : State) : State :=
  s.running.foldl (fun t r =>
    if r.issue.unit.val < 3 then t
    else match s.planNow r with
      | .run free _ _ => t.modCore r.issue.core (fun k => { k with busy := k.busy.set r.issue.unit free })
      | .fault _ => t) s

/-- What memory held, and what the fabric brought, is kept as long as an instruction in progress, or a GET reply, may read it. -/
def State.prune (s : State) : State :=
  let from' := fun (l : List Nat) (t : Nat) => match l.min? with | some n => decide (n ≤ t) | none => false
  let issued := s.running.map (·.at_)
  let served := s.ports.toList.flatMap (fun q => q.replies.map (·.since))
  { s with past := s.past.filter (fun f => from' issued f.at_),
           fabric := { s.fabric with inn := s.fabric.inn.filter (fun x => from' (issued ++ served) x.at_) } }

/-- The SETs of counters and the accesses to banks of this ac take place, in their order (R74, R230, R231). -/
def State.landEarly (s : State) : State := ((dueOrder (s.effectsNow.filter Timed.early)).foldl landOne (s, [])).1

/-- The effects of this ac take place: the early ones in their order, then the faults, then the rest, as the reads of the ac left them
(R26, R43, R74, R230, R231). -/
def State.land (s : State) : State :=
  let s1 := s.landEarly
  let rest := s1.effectsNow.filter (fun t => !t.early)
  let s2 := (rest.filter (fun t => t.eff.isFault) ++ rest.filter (fun t => !t.eff.isFault)).foldl State.settle s1
  let s3 := { s2 with inflight := s2.inflight.filter (fun t => decide (s2.now < t.at_)) }
  if s3.scheduleRuns then s3.refreshBusy.retire else s3

end Sys2Proof.Machine
end

