-- ==== Sys2Proof/Machine/Tick.lean ====
section
/-! DEFINITION. What one ac brings by itself: the commands that fall due in it, and its end (R21, R26, R39, R66, R70, R89, R90, R249,
R262, R268, R273, R276, R278). A step on an empty queue takes the first of the two, then the second (DESIGN CHOICE, log 11). -/
namespace Sys2Proof.Machine

/-! ### The commands that fall due -/

/-- The command that a head word stands for; BARRIER words and reserved opcodes are none (R65, R67, R112, R178, R208, R243, R265). -/
def commandOf (i : Issue) : Option Instr :=
  let op := headOpcode i.head
  match op with
  | 0x000 => some (.nop i) | 0x001 => some (.delay i) | 0x008 => some (.signal i) | 0x009 => some (.set i) | 0x00A => some (.expect i)
  | _ =>
    match i.unit.val with
    | 0 => match op with | 0x040 => some (.mmul i) | 0x041 => some (.mmulPack i) | _ => none
    | 1 =>
      match op with
      | 0x040 => some (.vchain i) | 0x041 => some (.softmax i) | 0x042 => some (.norm i) | 0x044 => some (.accsum i)
      | 0x048 => some (.rsum i) | 0x049 => some (.rmean i) | 0x04A => some (.rmax i) | 0x04B => some (.rmin i)
      | 0x04C => some (.rargmax i) | 0x04D => some (.rargmin i) | 0x04E => some (.rcount i) | 0x04F => some (.rsumf i)
      | 0x050 => some (.rprod i) | 0x051 => some (.rlse i) | 0x058 => some (.scan i) | 0x059 => some (.dscan i)
      | 0x060 => some (.gather i) | 0x061 => some (.scatter i) | 0x062 => some (.compact i) | _ => none
    | 2 =>
      match op with
      | 0x040 => some (.unorm i) | 0x041 => some (.gstore i) | 0x042 => some (.uclip i) | 0x043 => some (.update i)
      | 0x044 => some (.uclose i) | 0x045 => some (.stepcalc i) | 0x046 => some (.gnorm i)
      | 0x047 => some (if (uHead i.head).flags = 0 then .recast i else .driftCheck i)
      | 0x048 => some (.ledger i) | 0x049 => some (.tables i) | 0x04A => some (.hash i) | _ => none
    | _ =>
      match op with
      | 0x040 => some (.move i) | 0x041 => some (.fill i) | 0x080 => some (.put i) | 0x081 => some (.get i)
      | 0x082 => some (.addI48 i) | 0x083 => some (.setBits i) | 0x084 => some (.clrBits i) | 0x085 => some (.remoteSignal i)
      | _ => none

/-- The head word of a stream that issues in this ac (R66). -/
def State.headDue (s : State) (c : Fin 8) (u : Fin 7) : List Instr :=
  let p := (s.core c).streams[u]
  let ws := (s.program!.streams.getD (8 * c.val + u.val) []).drop p.pos
  match ws with
  | [] => []
  | w :: rest =>
    if p.frozen || p.base + headDelta w != s.now then []
    else ((commandOf ⟨c, u, w, rest.take (headCont w)⟩).map (fun i => [i])).getD []

/-- What the read burst of a command finds (R237). -/
def State.burstSeverity (s : State) (h : HbmIssue) : Severity :=
  let a := burstAddress h.pc.val (hbmBank h.word) ((s.bank h).row.getD 0) (hbmCol h.word)
  let (bad, n) := eccScan s.hbm.ecc 32 a 32
  if bad.isSome then .uncorrected else if n = 0 then .clean else .corrected

/-- The command of an HBM command word; BARRIER is none (R71). -/
def State.hbmCommandOf (s : State) (h : HbmIssue) : Option Instr :=
  match hbmCmd h.word with
  | 0 => some (.hbmNop h) | 1 => some (.act h) | 2 => some (.rd h (s.burstSeverity h)) | 3 => some (.wr h) | 4 => some (.pre h)
  | 5 => some (.refpb h) | 6 => some (.hbmDelay h) | _ => none

/-- The words of a stream that issue in an ac, each with its fc, from the fc that the first one's DELTA counts from; a BARRIER word ends
them (R70, R71). -/
def hbmWords (now : Nat) : Nat → List U64 → List (Bool × U64)
  | _, [] => []
  | base, w :: ws =>
    let fc := base + hbmDelta w
    if fc / 2 ≠ now ∨ hbmCmd w = 7 then []
    else (fc % 2 == 1, w) :: hbmWords now (fc + (if hbmCmd w = 6 then hbmRow w else 0)) ws

/-- The commands of a pseudo-channel's stream in this ac (R70, R71). -/
def State.hbmDue (s : State) (pc : Fin 640) : List Instr :=
  let p := s.hbmPos pc.val
  (hbmWords s.now p.base ((s.program!.hbm.getD pc.val []).drop p.pos)).filterMap (fun x => s.hbmCommandOf ⟨pc, x.1, x.2⟩)

/-- The pseudo-channels of R13. -/
def allChannels : List (Fin 640) := List.finRange 640

/-- The REFPB of the hold loop in this ac, of every pseudo-channel (R236). -/
def State.loopDue (s : State) : List Instr :=
  match s.loopBank with
  | none => []
  | some k => allChannels.map (fun pc => .refpb ⟨pc, false, loopWord k⟩)

/-- Slots that carry data of the job, or are reserved for another user, in this ac (R20, R21, R60). -/
def State.slotsDue (s : State) (channel : Fin 136) : List Instr :=
  let table := s.program!.fabric.getD channel.val []
  if table.isEmpty then []
  else [false, true].flatMap (fun half => [false, true].flatMap (fun dir =>
    match table[(2 * s.stepOffset + bit half) % table.length]? with
    | none => []
    | some w => if (fabricHalf w dir).kind != 0 then [.fabricSlot channel dir half] else []))

/-- Deliveries and misses of a port (R268, R273). -/
def State.arrivalsDue (s : State) (p : Fin 16) : List Instr :=
  let q := s.port p
  List.replicate (s.deliverable p).length (.flitDelivery p)
  ++ List.replicate (q.damaged.filter (fun d => !d.missed && decide (d.deadline ≤ s.now))).length (.deadlineMiss p)

/-- A position of a port starts in this ac (R259, R262). -/
def State.positionDue (s : State) (p : Fin 16) : List Instr :=
  if (s.port p).carries && (s.linkTable p).cycle != 0 && (positionAt s.stepOffset).isSome then [.flitTransmit p] else []

/-- A lane switch is due (R261). -/
def State.remapDue (s : State) (p : Fin 16) : List Instr :=
  match (s.port p).remap with
  | some (_, due) => if s.scheduleRuns && decide (s.now < due) then [] else [.laneRemap p]
  | none => []

/-- What the running schedule issues in this ac. -/
def State.scheduleDue (s : State) : List Instr :=
  if !s.scheduleRuns || decide (s.now < s.job.stepStart) then []
  else
    allPorts.flatMap s.arrivalsDue
    ++ (if s.inStep then allCores.flatMap (fun c => (List.finRange 7).flatMap (s.headDue c)) else [])
    ++ (if s.barrierHere.isSome then [.barrierDue] else [])
    ++ (if s.inStep then allChannels.flatMap s.hbmDue else [])
    ++ (List.finRange 136).flatMap s.slotsDue
    ++ allPorts.flatMap s.positionDue
    ++ (allCores.filter s.windowBegins).map .drawRingWindow

/-- A hold's latency has ended, or the schedule stands already (R249). -/
def State.holdEnds (s : State) : Bool :=
  match s.job.faultAt with
  | none => false
  | some f => !s.scheduleRuns || decide (f + 8 ≤ s.now)

/-- The release count that the module waits for has come (R278, R285). -/
def State.releaseDue (s : State) (at_ : Option Nat) : Bool :=
  match at_ with
  | some w => decide (w ≤ s.clusterWall)
  | none => false

/-- The hold has lasted HOLD_NOTICE (R83). -/
def State.noticeDue (s : State) : Bool :=
  s.job.st == .hold && !s.job.holdNoticed && decide (s.job.holdWall + field s.cfg.seqCfg.toNat 0 32 ≤ s.wall.toNat)

/-- The commands that fall due in this ac, in the order in which they take place. -/
def State.due (s : State) : List Instr :=
  (if s.holdEnds then [.holdLatencyEnd] else [])
  ++ (match s.links.stopAt with | some x => if s.scheduleRuns && decide (x ≤ s.now) then [.soakStop] else [] | none => [])
  ++ s.scheduleDue
  ++ s.loopDue
  ++ allPorts.flatMap s.remapDue
  ++ (if s.noticeDue then [.holdNotice] else [])
  ++ (if s.job.st == .hold && s.releaseDue s.links.releaseAt then [.barrierRelease] else [])
  ++ (if s.standing && s.releaseDue s.links.restartAt then [.soakRelease] else [])

/-! ### The end of an ac -/

/-- Packets that fit the credit of a port, in order; the credit that is left (R89). -/
def drainPackets : List OutPacket → Nat → List OutPacket × Nat
  | [], _ => ([], 0)
  | p :: ps, credit => if 17 * p.size ≤ credit then drainPackets ps (credit - 17 * p.size) else (p :: ps, credit)

/-- One port's egress drains at line rate: 400 Gb/s are 125·D/17 bytes per ac (R3, R89). -/
def EthState.drain (divider : Nat) (e : EthState) : EthState :=
  if e.link = 0 then e
  else
    let (rest, credit) := drainPackets e.egress (e.credit + 125 * divider)
    { e with egress := rest, credit := credit }

/-- Waiting notices enter egress in order (R90). -/
def State.drainNotices : Nat → State → State
  | 0, s => s
  | n + 1, s => drainNotices n s.drainNotice

/-- The counts move on: the wall count in every ac, the schedule cycle where the schedule runs, and the next step with it (R39, R66). -/
def State.count (s : State) : State :=
  let s := { s with wall := s.wall + 1 }
  if !s.scheduleRuns then s
  else
    let s := { s with sched := s.sched + 1 }
    if s.now = s.job.nextStart then s.beginStep s.now else s

/-- A SUSPECT module that holds at a barrier stops there (R364). -/
def State.suspectHold (s : State) : State := if s.job.st == .hold && s.job.suspectStop then s.haltAt .evaluate else s

/-- The accesses of the ac take place, and a barrier that waited for its token is settled before them (R26, R39, R285). -/
def State.landAc (s : State) : State :=
  let s := s.settleToken
  (if s.scheduleRuns || s.job.st == .hold then s.land else s).prune

/-- The architectural cycle passes: accesses take effect, damaged flits are asked for, the controllers enter or leave the hold loop, and
the counts move on (R26, R236, R249, R274). -/
def State.passAc (s : State) : State :=
  let s := s.landAc
  let s := if s.jobOn then allPorts.foldl (fun s p => s.askAgain p) s else s
  s.raiseFaultEvent.releaseCkpt.trackLoop.count

/-- The end of an ac: what it brings, egress drains, and the tokens are looked at (R26, R89, R278, R285). While the root relocks no ac
passes; Ethernet and the control processor run on (R337). -/
def State.endAc (s : State) : State :=
  let s := if s.clock.relocking then s else s.passAc
  let s := { s with eth := s.eth.map (EthState.drain s.divider) }
  let s := State.drainNotices s.log.waiting.length s
  let s := if s.clock.relocking then s else s.watchBarrier.watchRestart.suspectHold
  { s with offered := false }

/-- A step on an empty queue: the commands of the ac are queued, then the ac ends; a module without power or in reset idles
(DESIGN CHOICE, log 11). -/
def State.tick (s : State) : State :=
  if !s.alive then s
  else if s.offered then s.endAc
  else { s with pending := s.releasedCommands ++ (if s.clock.relocking then [] else s.due), offered := true }

end Sys2Proof.Machine
end

