-- ==== Sys2Proof/WellFormed.lean ====
section
/-! DEFINITION. Well-formed commands: the operands that their rows admit (R65, R70, R258, R282, R299, R347, R382). -/
namespace Sys2Proof
open Sys2Proof.Machine

/-- A packet's tag has 16 bytes, and its parameters fit PARAM_LEN's 16 bits (R298, R299). -/
def packetFormed (p : Packet) : Bool := p.tag.length == 16 && decide (p.params.length < 65536)

/-- A flit has 256 bytes of payload (R258). -/
def flitFormed (f : Flit) : Bool := f.payload.length == 256 && decide (f.used ≤ 256)

/-- The words or operands of a command are those of its row. -/
def wellFormed (c : Instr) : Bool :=
  match c with
  | .nop i => nopWord i
  | .delay i => delayWord i
  | .signal i => counterWord 0x008 i
  | .set i => counterWord 0x009 i
  | .expect i => counterWord 0x00A i
  | .mmul i => mmulWord i
  | .mmulPack i => packWord i
  | .vchain i => vecWord 0x040 i
  | .softmax i => vecWord 0x041 i
  | .norm i => vecWord 0x042 i
  | .accsum i => vecWord 0x044 i
  | .rsum i => vecWord 0x048 i
  | .rmean i => vecWord 0x049 i
  | .rmax i => vecWord 0x04A i
  | .rmin i => vecWord 0x04B i
  | .rargmax i => vecWord 0x04C i
  | .rargmin i => vecWord 0x04D i
  | .rcount i => vecWord 0x04E i
  | .rsumf i => vecWord 0x04F i
  | .rprod i => vecWord 0x050 i
  | .rlse i => vecWord 0x051 i
  | .scan i => vecWord 0x058 i
  | .dscan i => vecWord 0x059 i
  | .gather i => vecWord 0x060 i
  | .scatter i => vecWord 0x061 i
  | .compact i => vecWord 0x062 i
  | .unorm i => updWord 0x040 i
  | .gstore i => updWord 0x041 i
  | .uclip i => updWord 0x042 i
  | .update i => updWord 0x043 i
  | .uclose i => updWord 0x044 i
  | .stepcalc i => updWord 0x045 i
  | .gnorm i => updWord 0x046 i
  | .recast i => updWord 0x047 i && (uHead i.head).flags == 0
  | .driftCheck i => updWord 0x047 i && (uHead i.head).flags == 1
  | .ledger i => updWord 0x048 i
  | .tables i => updWord 0x049 i
  | .hash i => updWord 0x04A i
  | .move i => moveWord i
  | .fill i => fillWord i
  | .put i => remoteWord 0x080 i
  | .get i => remoteWord 0x081 i
  | .addI48 i => remoteWord 0x082 i
  | .setBits i => remoteWord 0x083 i
  | .clrBits i => remoteWord 0x084 i
  | .remoteSignal i => remoteWord 0x085 i
  | .hbmNop h => hbmRowWord 0 h
  | .act h => hbmRowWord 1 h
  | .rd h _ => hbmRowWord 2 h
  | .wr h => hbmRowWord 3 h
  | .pre h => hbmRowWord 4 h
  | .refpb h => hbmRowWord 5 h
  | .hbmDelay h => hbmRowWord 6 h
  | .flitReceive _ f _ => flitFormed f
  | .fcpNop p | .sessionOpen p | .sessionAuth p | .sessionClose p | .sessionThaw p | .subscribe p | .sessionList p
  | .setOperatorKey p _ | .setSeatKey p | .unclaim p | .jobStatus p | .loadImage p | .startAtBarrier p | .haltAtBarrier p
  | .unload p | .setOpPoint p | .ringWrite p | .ringPublish p | .ringStatus p | .replayLoad p | .memRead p | .memWrite p
  | .regionRead p | .counterRead p | .ckptRequest p | .ckptAck p | .ckptStatus p | .restoreBegin p | .restoreData p
  | .restoreEnd p | .logRead p | .logAck p | .inputLogRead p | .inputLogAck p | .telemetryRead p | .faultLogRead p
  | .cfgRead p | .cfgWrite p | .rootSrcWrite p | .logClear p | .declare p | .policyClippedClear p | .cfgSave p | .setTime p
  | .macsecKey p | .healthRead p | .testRun p _ | .attest p _ | .identityRead p _ | .fwBegin p | .fwData p | .fwCommit p _
  | .recoveryLoad p | .openSpyhole p _ | .badTag p | .badOpcode p _ => packetFormed p
  | .dieSensorSample rs => rs.length == 72
  | .linkTraining ps => ps.length == 16
  | .channelMeasurement ps _ => ps.length == 16
  | .barrierDue | .barrierToken _ _ | .barrierRelease | .holdNotice | .holdLatencyEnd | .fabricSlot _ _ _ | .flitTransmit _
  | .nak _ _ | .flitDelivery _ | .deadlineMiss _ | .soakToken _ _ | .soakStop | .restartToken _ _ | .soakRelease
  | .laneFailure _ _ | .laneFailureReport _ _ | .laneRemap _ | .portUp _ _ | .lockedReport _ | .ckptChunk | .ckptResend
  | .rootRelock | .recoveryRewriteDone | .notice | .sessionIdle _ | .pendingSessionExpiry _ | .pauseFrame _
  | .neighbourDiscovery _ _ _ | .arp _ _ _ | .echo _ _ _ _ _ | .ptpMessage _ _ _ _ | .fineMonitorGate _ _
  | .grossMonitorGate _ _ | .sourceReadyCount _ | .railSettled | .avsStep _ | .droop | .powerSample _ | .stackSensorSample _ _
  | .coolantSample _ _ _ | .drawRingWindow _ | .testSliceDone _ _ _ _ | .healthRecordWrite | .trngFail | .inputPowerOn
  | .inrushEnd | .inputUnderVoltage | .pwrEnRise | .pwrOk | .pwrEnFall | .railFault _ | .sb3v3Loss | .resetNLow | .resetNRise _
  | .bootRom | .firmwareLoad | .recovery | .rootLock | .hbmTraining | .powerOnPass _ | .clockFollow _ | .unfollowed | .ready _
  | .stageOverrun | .extest | .idcode | .samplePreload | .clamp | .highz | .bypass | .acExtest | .trstN | .spyScan _ _ _
  | .spyFrozenState _ _ _ | .spyTrace _ _ _ | .spyData | .ingressDrop _ | .ethLinkUp _ | .ethLinkDown _ | .s1Break
  | .sb3v3Return => true

end Sys2Proof
end

