-- ==== Sys2Proof/Safety.lean ====
section
/-! DEFINITION. The terms in which claims speak of a run: outcomes, canonical memories, what a reset and a power cycle keep. -/
namespace Sys2Proof.Machine

/-- A command completes: it answers a next state. -/
def Completes (o : Out) : Prop := ∃ t, o = .next t

/-- Every byte memory of the module is in its canonical form. -/
def State.Canonical (s : State) : Prop :=
  (∀ c : Fin 8, (s.core c).mem.wf = true) ∧ s.hbm.mem.wf = true ∧ s.boot.sram.wf = true ∧ s.ckpt.restoreBuf.wf = true

/-- The fuses that can only be blown stand at least at given values (R385, R393). -/
def State.FusedAtLeast (svn : Nat) (kill : Bool) (s : State) : Prop :=
  svn ≤ s.fuses.svn ∧ (kill = true → s.fuses.identityKill = true)

/-! ### Stream words -/

/-- A stream may issue the word, and its unit is free (R66, R69, R82, R249). -/
def State.Ready (i : Issue) (s : State) : Prop := s.canIssue i = true ∧ (s.core i.core).busy[i.unit] ≤ s.now

/-- The state after a word of a unit has issued: the stream moved on, the unit is busy until `free`, the instruction in progress (R66,
R69). -/
def State.issued (i : Issue) (free : Nat) (s : State) : State :=
  ((s.advance i 0).modCore i.core (fun k => { k with busy := k.busy.set i.unit free })).launch i s

/-- An instruction in progress, as its issue leaves it (R135). -/
def State.newRunning (i : Issue) (s : State) : Running :=
  ⟨i, s.now, s.origin i, s.job, { s.core i.core with mem := [], ecc := [], crossed := [] }, []⟩

/-- A plan runs: after what the reads of its operands in a core's slice add, it has the effects named (R230, R232). -/
def Plan.Runs (p : Plan) (s : State) (c : Fin 8) (o : Origin) (free endAc : Nat) (effs : List Timed) : Prop :=
  ∃ reads : List (List SliceRead), p = .run free endAc (reads.flatMap (operandReads s c o) ++ effs)

/-- A row of an engine of a core: its command, whether words are the row's, and what it plans. -/
structure UnitRow where
  cmd : Issue → Instr
  form : Issue → Bool
  plan : Issue → State → Origin → Plan

/-- The vector engine's rows: opcode and command (R208). -/
def vectorRows : List (Nat × (Issue → Instr)) :=
  [(0x040, .vchain), (0x041, .softmax), (0x042, .norm), (0x044, .accsum), (0x048, .rsum), (0x049, .rmean), (0x04A, .rmax),
   (0x04B, .rmin), (0x04C, .rargmax), (0x04D, .rargmin), (0x04E, .rcount), (0x04F, .rsumf), (0x050, .rprod), (0x051, .rlse),
   (0x058, .scan), (0x059, .dscan), (0x060, .gather), (0x061, .scatter), (0x062, .compact)]

/-- The rows of the vector engine, the update engine and the DMA engines. -/
def unitRows : List UnitRow :=
  vectorRows.map (fun r => ⟨r.2, vecWord r.1, vecPlan r.1⟩)
  ++ [⟨.unorm, updWord 0x040, unormPlan⟩, ⟨.gstore, updWord 0x041, gstorePlan⟩, ⟨.uclip, updWord 0x042, uclipPlan⟩,
      ⟨.update, updWord 0x043, updatePlan⟩, ⟨.uclose, updWord 0x044, uclosePlan⟩, ⟨.stepcalc, updWord 0x045, stepcalcPlan⟩,
      ⟨.gnorm, updWord 0x046, gnormPlan⟩, ⟨.recast, fun i => updWord 0x047 i && (uHead i.head).flags == 0, recastPlan⟩,
      ⟨.driftCheck, fun i => updWord 0x047 i && (uHead i.head).flags == 1, driftPlan⟩, ⟨.ledger, updWord 0x048, ledgerPlan⟩,
      ⟨.tables, updWord 0x049, tablesPlan⟩, ⟨.hash, updWord 0x04A, hashPlan⟩, ⟨.move, moveWord, movePlan⟩,
      ⟨.fill, fillWord, fillPlan⟩, ⟨.put, remoteWord 0x080, remotePlan 0x080⟩, ⟨.get, remoteWord 0x081, remotePlan 0x081⟩,
      ⟨.addI48, remoteWord 0x082, remotePlan 0x082⟩, ⟨.setBits, remoteWord 0x083, remotePlan 0x083⟩,
      ⟨.clrBits, remoteWord 0x084, remotePlan 0x084⟩, ⟨.remoteSignal, remoteWord 0x085, remotePlan 0x085⟩]

/-- Every command that a timed instruction stream issues. -/
def streamRows : List (Issue → Instr) :=
  [.nop, .delay, .signal, .set, .expect, .mmul, .mmulPack] ++ unitRows.map (·.cmd)

/-- An effect stores to a byte of a core's slice: a write, an i48 word with its working slot, or a slot alone (R137, R228, R270). -/
def Effect.stores (e : Effect) (workBase : Nat) (c : Fin 8) (a : Nat) : Prop :=
  match e with
  | .sp c' b op _ d => c' = c ∧ (spTarget op b).2 ≤ a ∧ a < (spTarget op b).2 + d.length
  | .i48 c' b _ id _ => c' = c ∧ (((spTarget .plain b).2 ≤ a ∧ a < (spTarget .plain b).2 + 8)
      ∨ (workBase + 16 * id ≤ a ∧ a < workBase + 16 * id + 16))
  | .slotOr c' id _ => c' = c ∧ workBase + 16 * id ≤ a ∧ a < workBase + 16 * id + 16
  | _ => False

/-- An effect stores to a byte of HBM. -/
def Effect.storesHbm (e : Effect) (a : Nat) : Prop :=
  match e with
  | .hbm b d => b ≤ a ∧ a < b + d.length
  | _ => False

/-! ### Packets -/

/-- A packet's port takes it at once: no earlier packet waits, the command queue has a place, and egress room for a short reply (R89). -/
structure TakenAtOnce (p : Packet) (s : State) : Prop where
  intake : s.intake p = .packet
  arrives : s.released p = false
  ingress : s.eth[p.port].ingress = []
  queue : s.fcp.held.length < commandQueue
  egress : s.room p.port 32 = true

/-- A session's packet arrives that the module takes and whose command runs now: intake, session, tag, version, window, queues (R89, R294
to R308), header, seat, stage and parameters (R300, R312, R384), no slot to wait for (R21), and a reply that fits egress (R89). -/
structure Accepted (d : Spec) (x : Session) (p : Packet) (s : State) : Prop where
  known : s.session p.session.toNat = some x
  sameId : x.id = p.session.toNat
  taken : TakenAtOnce p s
  magic : p.magic = 0x46454C54
  isOpen : x.st = .open_
  auth : packetUnauth p = false
  tag : (hmac x.key (packetBody p d.opcode)).take 16 = p.tag
  version : p.version = 1
  idle : s.executing x.id = false
  noQueue : s.queueOf x.id = []
  window : x.window p.seq.toNat (p.tag.take 4) = .execute
  header : packetHeaderOk p = true
  seat : d.seats.contains x.seat = true
  stage : s.boot.stage = 9 ∨ d.early = true
  params : d.paramsOk p.params = true
  slots : s.scheduleRuns = false ∨ d.slots x p (s.heard x p) = []
  fits : (d.answer x p (s.heard x p)).fits p.port = true

/-- A session-0 packet that the module takes and answers now (R89, R299, R303, R310). -/
structure AcceptedZero (d : Spec) (ok : State → Bool) (p : Packet) (s : State) : Prop where
  taken : TakenAtOnce p s
  magic : p.magic = 0x46454C54
  session : p.session = 0
  unauth : packetUnauth p = true
  tag : p.tag = List.replicate 16 0
  served : ok s = true
  version : p.version = 1
  header : packetHeaderOk p = true
  params : d.paramsOk p.params = true
  fits : (d.answerZero p s).fits p.port = true

/-- The rows of the opcode table of R312 that a session carries: command and meaning. -/
def sessionRows : List ((Packet → Instr) × Spec) :=
  [(.fcpNop, nopSpec), (.sessionClose, closeSpec), (.sessionThaw, thawSpec), (.subscribe, subscribeSpec), (.sessionList, listSpec),
   (.setSeatKey, seatKeySpec), (.unclaim, unclaimSpec), (.jobStatus, jobStatusSpec), (.loadImage, loadSpec),
   (.startAtBarrier, startSpec), (.haltAtBarrier, haltSpec), (.unload, unloadSpec), (.setOpPoint, pointSpec),
   (.ringWrite, ringWriteSpec), (.ringPublish, ringPublishSpec), (.ringStatus, ringStatusSpec), (.replayLoad, replayLoadSpec),
   (.memRead, memReadSpec), (.memWrite, memWriteSpec), (.regionRead, regionReadSpec), (.counterRead, counterReadSpec),
   (.ckptRequest, ckptRequestSpec), (.ckptAck, ckptAckSpec), (.ckptStatus, ckptStatusSpec), (.restoreBegin, restoreBeginSpec),
   (.restoreData, restoreDataSpec), (.restoreEnd, restoreEndSpec), (.logRead, logReadSpec), (.logAck, logAckSpec),
   (.inputLogRead, inputReadSpec), (.inputLogAck, inputAckSpec), (.telemetryRead, telemetrySpec), (.faultLogRead, faultLogSpec),
   (.cfgRead, cfgReadSpec), (.cfgWrite, cfgWriteSpec), (.rootSrcWrite, cfgWriteSpec), (.logClear, cfgWriteSpec),
   (.declare, cfgWriteSpec), (.policyClippedClear, cfgWriteSpec), (.cfgSave, cfgSaveSpec), (.setTime, setTimeSpec),
   (.macsecKey, macsecSpec), (.healthRead, healthReadSpec), (.fwBegin, fwBeginSpec), (.fwData, fwDataSpec)]

end Sys2Proof.Machine
end

