-- ==== Sys2Proof/Certificates/Slice0/Obligations.lean ====
section
/-! DEFINITION. The statements for the provers: what a step does, what each row of commands leaves behind, and what no command
changes. -/
open Sys2Proof Sys2Proof.Machine

/-! ### The queue, the invariants, reset -/

/-- A step with a command in front of the queue runs it with the rest of the queue. -/
def Obligations.StepRunsFront : Prop :=
  ∀ (c : Instr) (s : State), step { s with pending := c :: s.pending } = exec c s

/-- No command touches the queue that waits behind it. -/
def Obligations.QueueUntouched : Prop :=
  ∀ (c : Instr) (s t : State), exec c s = .next t → t.pending = s.pending

/-- R393: on every step the SVN fuses never fall and IDENTITY_KILL never clears; no command but READY changes the SVN fuses, and READY
raises them to the SVN of the image on which the module reaches stage 9, or leaves them. -/
def Obligations.FusesOnlyRise : Prop :=
  (∀ (svn : Nat) (kill : Bool) (s t : State), s.FusedAtLeast svn kill → step s = .next t → t.FusedAtLeast svn kill)
  ∧ (∀ (c : Instr) (s t : State), (∀ ms, c ≠ .ready ms) → exec c s = .next t → t.fuses.svn = s.fuses.svn)
  ∧ (∀ (ms : U32) (s : State), (s.mayEnd 8 = true → ∃ t, exec (.ready ms) s = .next t ∧ t.boot.stage = 9 ∧ t.boot.ready = true
      ∧ t.fuses.svn = max s.fuses.svn s.boot.fwSvn) ∧ (s.mayEnd 8 = false → exec (.ready ms) s = .next s))

/-- Every step keeps the canonical form of the module's memories: addresses strictly rise, and no entry holds what an unlisted byte
reads as (the model's own representation, log 2). -/
def Obligations.CanonicalKept : Prop :=
  ∀ s t : State, s.Canonical → step s = .next t → t.Canonical

/-- The memories are in canonical form at reset. -/
def Obligations.ResetCanonical : Prop :=
  State.reset.Canonical

/-- What reset leaves: state EMPTY in stage 1 with nothing ready, the counts and counters at 0, the root on INT unlocked, the
configuration registers at the reset values of their tables, every link down, no session, no event, no fault record (R8, R82, R86, R254,
R315, R329, R382). -/
def Obligations.ResetValues : Prop :=
  State.reset.job.st = .empty ∧ State.reset.boot.stage = 1 ∧ State.reset.boot.ready = false
  ∧ State.reset.wall = 0 ∧ State.reset.sched = 0 ∧ (∀ c, State.reset.counter c = 0)
  ∧ State.reset.clock.rootActive = 2 ∧ State.reset.clock.rootLocked = false
  ∧ State.reset.cfg.seqCfg = 0x00000001000CF850 ∧ State.reset.cfg.corrLimit = 0x10 ∧ State.reset.cfg.corrNotice = 0x100
  ∧ State.reset.cfg.udpPort = 47312 ∧ State.reset.cfg.sessionIdle = 600 ∧ State.reset.cfg.avsPolicy = 0x1E0A2C18402C503C
  ∧ (∀ p : Fin 16, (State.reset.port p).st = 0) ∧ (∀ p : Fin 2, State.reset.eth[p].link = 0)
  ∧ State.reset.fcp.sessions = [] ∧ State.reset.log.events = [] ∧ State.reset.faults.job = [] ∧ State.reset.pending = []

/-! ### Timed instruction streams -/

/-- NOP, DELAY, SIGNAL, SET and a matching EXPECT issue: the stream moves on, a DELAY by COUNT more ac, a counter change is under way
for ac c + 1, so that it is seen from c + 2, and nothing else changes (R67, R74). Of a pair the secondary's operation is not forwarded, and
an operation of the primary that the secondary does not make with it is a fault of kind CRC at use of the primary's sequencer that makes
the module SUSPECT (R354, R355). -/
def Obligations.CommonWords : Prop :=
  (∀ (i : Issue) (s : State), s.canIssue i = true →
    let change := fun e => if s.silent i.core then s else if s.paired && !s.mateIssues i then s.counterMismatch i
      else { s with inflight := s.inflight ++ [⟨s.now + 1, false, s.origin i, e⟩] }
    let counter := wf i.head 0 16
    let value : U32 := BitVec.ofNat 32 (wf i.head 32 32)
    (nopWord i = true → exec (.nop i) s = .next (s.advance i 0))
    ∧ (delayWord i = true → exec (.delay i) s = .next (s.advance i (wf i.head 0 32)))
    ∧ (counterWord 0x008 i = true → exec (.signal i) s = .next ((change (.counterAdd counter value)).advance i 0))
    ∧ (counterWord 0x009 i = true → exec (.set i) s = .next ((change (.counterSet counter value)).advance i 0))
    ∧ (counterWord 0x00A i = true → s.counter counter = wf i.head 32 32 → exec (.expect i) s = .next (s.advance i 0))) ∧
  (∀ (i : Issue) (s : State), s.faults.job = [] →
    (∃ r, (s.counterMismatch i).faults.job = [r] ∧ r.kind = 3 ∧ r.master = seqMaster i.core i.unit ∧ r.instr = s.headIndex i)
    ∧ (s.counterMismatch i).test.suspect = true ∧ (s.counterMismatch i).counters = s.counters
    ∧ (s.counterMismatch i).inflight = s.inflight)

/-- R75: an EXPECT that finds another value is a schedule fault whose master is the issuing core's sequencer: record 0 of an empty fault
log names it with the value expected and the value found, its stream freezes, and the hold is due from this ac; 8 ac later the module
holds in state FAULT_HELD. -/
def Obligations.ExpectMismatch : Prop :=
  ∀ (i : Issue) (s : State), s.canIssue i = true → counterWord 0x00A i = true → s.counter (wf i.head 0 16) ≠ wf i.head 32 32 →
    s.faults.job = [] → s.job.faultAt = none →
    (∃ (t : State) (r : FaultRec), exec (.expect i) s = .next t ∧ t.faults.job = [r] ∧ t.job.faultAt = some s.now
      ∧ r.kind = 7 ∧ r.master = seqMaster i.core i.unit ∧ r.opcode = 0x00A ∧ r.instr = s.headIndex i
      ∧ r.progressB = wf i.head 32 32 ∧ r.detail = s.counter (wf i.head 0 16) ∧ r.sched = s.now
      ∧ ((t.core i.core).streams[i.unit]).frozen = true ∧ (∀ c, t.counter c = s.counter c))
    ∧ (∀ u : State, u.job.faultAt = some s.now → s.now + 8 ≤ u.now →
        ∃ v, exec .holdLatencyEnd u = .next v ∧ v.job.st = .faultHeld)

/-- A word that a stream may not issue changes nothing: the schedule does not run, or the stream's master is frozen (R82, R249). Words
that are not their row's are refused by name, in every state: the load checks let no stream hold one (R87 check 9). -/
def Obligations.WordsThatDoNotIssue : Prop :=
  (∀ cmd ∈ streamRows, ∀ (i : Issue) (s : State), s.canIssue i = false → wellFormed (cmd i) = true → exec (cmd i) s = .next s) ∧
  (∀ cmd ∈ streamRows, ∀ (i : Issue) (s : State), wellFormed (cmd i) = false → exec (cmd i) s = .refused .malformedWord)

/-- A word of a core's engine issues while its unit is free: the stream moves on, the unit is busy until the ac its plan names, and the
instruction is in progress, planned on the state of its issue (R66, R69). A word whose plan is a fault faults at issue, and none of its
effects happens (R245, R248). A word that issues while its unit is busy is a schedule fault of kind expect mismatch of the unit's master,
and none of its effects happens (R69). The reads of operands whose code words carry no error add nothing but the banks that they use
(R230, R232). -/
def Obligations.UnitWords : Prop :=
  (∀ r ∈ unitRows, ∀ (i : Issue) (s : State) (free endAc : Nat) (effs : List Timed),
     r.form i = true → s.Ready i → r.plan i s (s.origin i) = .run free endAc effs →
     exec (r.cmd i) s = .next (s.issued i free) ∧ (s.issued i free).running = s.running ++ [s.newRunning i]
     ∧ (s.issued i free).planNow (s.newRunning i) = r.plan i { s with running := s.running ++ [s.newRunning i] } (s.origin i)) ∧
  (∀ r ∈ unitRows, ∀ (i : Issue) (s : State) (f : FaultRec), r.form i = true → s.Ready i → r.plan i s (s.origin i) = .fault f →
     exec (r.cmd i) s = .next ((s.advance i 0).raiseFault f)) ∧
  (∀ r ∈ unitRows, ∀ (i : Issue) (s : State), r.form i = true → s.canIssue i = true → s.now < (s.core i.core).busy[i.unit] →
     exec (r.cmd i) s = .next ((s.advance i 0).raiseFault
       (faultRec 7 (unitMaster i.core i.unit) 0xFFFF 5 0 0 (s.headIndex i) (issueOpcode i) 0 0 0))) ∧
  (∀ (s : State) (c : Fin 8) (o : Origin) (reads : List SliceRead), (s.core c).ecc = [] →
     ∀ t ∈ operandReads s c o reads, ∃ a n p, t.eff = .spRead c a n p)

/-- Frame of issue: a word that a stream issues changes no byte of any memory, no counter, no table of a core and nothing of the
links, the clocks or the power in the ac of its issue; what it does happens in its own ac (R26, R43). Nor does it change the sessions or
the event log, but for a counter operation that the secondary of a pair does not make (R354, R363). -/
def Obligations.IssueFrame : Prop :=
  ∀ cmd ∈ streamRows, ∀ (i : Issue) (s t : State), exec (cmd i) s = .next t →
    (∀ c : Fin 8, (t.core c).mem = (s.core c).mem ∧ (t.core c).anchors = (s.core c).anchors ∧ (t.core c).quanta = (s.core c).quanta
      ∧ (t.core c).groups = (s.core c).groups ∧ (t.core c).sha = (s.core c).sha ∧ (t.core c).vecFlags = (s.core c).vecFlags
      ∧ (t.core c).stepCalc = (s.core c).stepCalc)
    ∧ t.hbm = s.hbm ∧ t.fabric = s.fabric ∧ t.counters = s.counters ∧ t.ports = s.ports ∧ t.links = s.links
    ∧ t.clock = s.clock ∧ t.power = s.power ∧ t.therm = s.therm ∧ t.flash = s.flash ∧ t.boot = s.boot ∧ t.cfg = s.cfg
    ∧ t.image = s.image ∧ t.regions = s.regions ∧ t.wall = s.wall ∧ t.sched = s.sched ∧ t.pins = s.pins
    ∧ ((cmd = Instr.signal ∨ cmd = Instr.set → s.paired = false ∨ s.silent i.core = true ∨ s.mateIssues i = true) →
        t.fcp = s.fcp ∧ t.log = s.log ∧ t.eth = s.eth ∧ t.test = s.test)

/-! ### The end of an ac -/

/-- A step on an empty queue is the passing of time (the model's choice, log 11): a module without power or in reset idles; the commands
that fall due in the ac are queued, none while the root relocks; then the ac ends: a barrier that waits for its token is settled, and the
wall count advances by one and, where the schedule runs, the schedule cycle by one, and else stays (R39); while the root relocks neither
moves (R337). -/
def Obligations.TimePasses : Prop :=
  ∀ s : State, s.pending = [] →
    (s.alive = false → step s = .next s)
    ∧ (s.alive = true → s.offered = false → step s = .next
        { s with pending := s.releasedCommands ++ (if s.clock.relocking then [] else s.due), offered := true })
    ∧ (s.alive = true → s.offered = true → ∃ t, step s = .next t ∧ t.pending = [] ∧ t.offered = false
        ∧ t.wall = (if s.clock.relocking then s.wall else s.settleToken.wall + 1)
        ∧ t.sched = (if !s.clock.relocking && s.settleToken.scheduleRuns then s.sched + 1 else s.sched)
        ∧ (s.job.tokenDue = false → s.settleToken = s))

/-- Frame of the landing of effects: a byte of a slice or of HBM that no effect of the ac stores to reads as before (R43). What is under
way after the landing is what was under way of later acs (R43). A write that alone accesses the banks of an ac lands with its bytes. -/
def Obligations.LandingFrame : Prop :=
  (∀ s : State,
     (∀ (c : Fin 8) (a : Nat), (∀ x ∈ s.effectsNow, x.early = true → ¬ x.eff.stores s.cfg.workBase.toNat c a) →
       (∀ x ∈ s.landEarly.effectsNow, x.early = false → ¬ x.eff.stores s.cfg.workBase.toNat c a) →
       ((s.land).core c).mem.read a = (s.core c).mem.read a)
     ∧ (∀ a : Nat, (∀ x ∈ s.effectsNow, x.early = true → ¬ x.eff.storesHbm a) →
         (∀ x ∈ s.landEarly.effectsNow, x.early = false → ¬ x.eff.storesHbm a) → s.land.hbm.mem.read a = s.hbm.mem.read a)
     ∧ s.land.inflight = s.inflight.filter (fun t => decide (s.now < t.at_))) ∧
  (∀ (s : State) (t : Timed) (c : Fin 8) (a p : Nat) (op : WriteOp) (d : Bytes), s.effectsNow.filter Timed.early = [t] →
     t.eff = .sp c a op p d → p < 16 → eccBlocks (s.core c).ecc (spTarget op a).1 (spOffset a) d.length = none →
     (s.landEarly.core c).mem = spStore op (s.core c).mem a d ∧ (∀ k : Fin 8, k ≠ c → (s.landEarly.core k).mem = (s.core k).mem)
     ∧ s.landEarly.hbm = s.hbm)

/-- R228: bytes written at an address of the plain window replace the bytes of the slice; through the SET window they set bits, through
the CLR window they clear the bits that are 1. Every other byte of the slice keeps its value. Each window reads as the plain one, an
address of no window is out of region, and an alias lies in the bank of its plain address. -/
def Obligations.Windows : Prop :=
  (∀ (m : Memory) (o : Nat) (data : Bytes), m.wf = true → o + data.length ≤ sliceSize →
    (∀ (k : Nat) (h : k < data.length), (spStore .plain m o data).read (o + k) = data[k])
    ∧ (∀ (k : Nat) (h : k < data.length), (spStore .plain m (0x10000000 + o) data).read (o + k) = m.read (o + k) ||| data[k])
    ∧ (∀ (k : Nat) (h : k < data.length), (spStore .plain m (0x20000000 + o) data).read (o + k) = m.read (o + k) &&& ~~~data[k])
    ∧ (∀ w a : Nat, (w = 0 ∨ w = 0x10000000 ∨ w = 0x20000000) → (a < o ∨ o + data.length ≤ a) →
        (spStore .plain m (w + o) data).read a = m.read a)) ∧
  (∀ (m : Memory) (w o n : Nat), (w = 0 ∨ w = 0x10000000 ∨ w = 0x20000000) → o < sliceSize →
    m.viaBytes (w + o) n = m.readBytes o n ∧ bankOf (w + o) = o / 64 % 64 ∧ o / 64 / 64 ≤ 49151) ∧
  (∀ (s : State) (cls right a len : Nat) (c : Fin 8),
    (∀ w o : Nat, (w = 0 ∨ w = 0x10000000 ∨ w = 0x20000000) → o < sliceSize → a ≠ w + o) →
    s.checkSlice cls c right a len = .fail 1 0xFFFF)

/-- R74: of the changes of one counter that land in one ac, a SET comes first and the SIGNALs add to it, modulo 2^32. -/
def Obligations.SetBeforeSignals : Prop :=
  ∀ (s : State) (c : Nat) (v : U32) (o : Origin) (adds : List U32), c < 65536 → s.running = [] → s.stopped = [] →
    s.inflight = adds.map (fun a => (⟨s.now, false, o, .counterAdd c a⟩ : Timed)) ++ [⟨s.now, false, o, .counterSet c v⟩] →
    s.land.counter c = (v.toNat + (adds.map (·.toNat)).sum) % 2 ^ 32

/-- The i48 add saturates at both ends and reports it (R119, R270). -/
def Obligations.I48Saturates : Prop :=
  ∀ x y : Int, -(2 ^ 47) ≤ x → x ≤ 2 ^ 47 - 1 → -(2 ^ 47) ≤ y → y ≤ 2 ^ 47 - 1 →
    (i48Add x y).1 = max (-(2 ^ 47)) (min (2 ^ 47 - 1) (x + y))
    ∧ ((i48Add x y).2 = true ↔ x + y < -(2 ^ 47) ∨ 2 ^ 47 - 1 < x + y)
    ∧ i48Of (i48Bytes (i48Add x y).1) = (i48Add x y).1

/-! ### The matrix array, the vector engine, the update engine, the DMA engines -/

/-- MMUL and MMUL_PACK complete when the array can take them and every access of their tiles is allowed: the stream moves on, the array
remembers gang, pace, last pass and the ac in which its stream path is free, and the instruction is in progress with the effects of its
tiles, for MMUL_PACK after the read of its descriptors (R97, R103, R110, R111, R248). The last write of every tile is its OR into the
working slot of its anchor, in the ac after its final result (R137). -/
def Obligations.MatrixWords : Prop :=
  (∀ (i : Issue) (s : State) (ts : List Tile),
    let c := matCfg i.head
    let o := s.origin i
    let n := packCount i
    let base := packDesc i
    let desc := fun g => descTile ((s.sliceNow i.core).viaBytes (base + 64 * g) 64)
    let ends := ts.map (fun t => lastPass c t (tileBlocks c t s.now))
    let last := (ends.map (·.1)).foldl max 0
    let free := (ends.map (·.2)).foldl max 0
    let endAc := (ts.map (fun t => finalResult c t (tileBlocks c t s.now) + 1)).foldl max 0
    let effs := ts.flatMap (tileEffects s i.core o c)
    let t := ((s.advance i 0).modCore i.core (fun k => { k with matrix := some ⟨c.e, c.pace, last, free⟩, busy := k.busy.set 0 free })).launch i s
    s.canIssue i = true → arrayBusy s i c (s.now + c.pace * c.e + routeDelay c.rb c.pace) = false →
    s.checkAll 0 i.core (ts.flatMap (tileAccesses s c)) = none →
    (mmulWord i = true → ts = [mmulTile i] → exec (.mmul i) s = .next t ∧ mmulPlan i s o = .run last free endAc effs)
    ∧ (packWord i = true → (∃ r, s.checkSlice 0 i.core 0 base (64 * n) = .pass r) → (∀ g < n, (desc g).2 = true) →
        ts = (List.range n).map (fun g => (desc g).1) →
        exec (.mmulPack i) s = .next t
        ∧ ∃ reads, packPlan i s o = .run last free endAc (operandReads s i.core o reads ++ effs))) ∧
  (∀ (s : State) (c : Fin 8) (o : Origin) (m : MatCfg) (t : Tile), ∃ (l : List Timed) (g : Gather),
    tileEffects s c o m t = l ++ [⟨finalResult m t (tileBlocks m t s.now) + 1, false, o,
      .sp c (s.cfg.workBase.toNat + 16 * t.anchorId) .set 3 g.slotBytes⟩])

/-- VCHAIN, SOFTMAX, NORM, ACCSUM, RSUM, RMEAN, RMAX, RMIN, RARGMAX, RARGMIN, RCOUNT, RSUMF, RPROD, RLSE, SCAN, DSCAN, GATHER, SCATTER and
COMPACT complete on a descriptor that can be read and is well formed and on operands that its regions allow: the unit is busy to the ac
after the last of the row's span, and the instruction is in progress with what the reads of its operands add, its results, check entries and
working slots where its CRC and SLOT flags ask for them, and the change of VEC_STATUS and VEC_COUNT in that last ac (R207, R209, R210, R213,
R226, R248). R226: a vector instruction counts once in VEC_COUNT, and its flags add to those of VEC_STATUS. -/
def Obligations.VectorRows : Prop :=
  (∀ r ∈ ([(0x040, .vchain), (0x041, .softmax), (0x042, .norm), (0x044, .accsum), (0x048, .rsum), (0x049, .rmean), (0x04A, .rmax),
       (0x04B, .rmin), (0x04C, .rargmax), (0x04D, .rargmin), (0x04E, .rcount), (0x04F, .rsumf), (0x050, .rprod), (0x051, .rlse),
       (0x058, .scan), (0x059, .dscan), (0x060, .gather), (0x061, .scatter), (0x062, .compact)] : List (Nat × (Issue → Instr))),
     ∀ (i : Issue) (s : State),
     let h := vHead i.head
     let o := s.origin i
     let b := (s.sliceNow i.core).viaBytes h.desc 128
     let v : VEnv := ⟨s, i.core, o, r.1, h, vDesc b⟩
     vecWord r.1 i = true → s.Ready i → (∃ g, s.checkSlice 0 i.core 0 h.desc 128 = .pass g) → vDescReserved b = true → v.ok = true →
     s.checkAll 0 i.core v.accesses = none →
     exec (r.2 i) s = .next (s.issued i (v.lastAc + 1))
     ∧ ∃ post, (vecPlan r.1 i s o).Runs s i.core o (v.lastAc + 1) (v.lastAc + 2)
         (v.result.effs ++ v.result.status ++ post ++ [⟨v.lastAc, false, o, .vecDone i.core v.result.flags⟩])
       ∧ (h.crc = false → h.slot = false → post = []) ∧ (∀ e ∈ post, ∃ a w k d, e.eff = .sp i.core a w k d)) ∧
  (∀ (s : State) (c : Fin 8) (f : VecFlags),
     (((s.apply (.vecDone c f)).core c).vecCount = (s.core c).vecCount + 1)
     ∧ (((s.apply (.vecDone c f)).core c).vecFlags.inv = ((s.core c).vecFlags.inv || f.inv))
     ∧ (((s.apply (.vecDone c f)).core c).vecFlags.ovf = ((s.core c).vecFlags.ovf || f.ovf))
     ∧ (((s.apply (.vecDone c f)).core c).vecFlags.fmtSat = ((s.core c).vecFlags.fmtSat || f.fmtSat))
     ∧ (((s.apply (.vecDone c f)).core c).vecFlags.clamp = ((s.core c).vecFlags.clamp || f.clamp))
     ∧ (((s.apply (.vecDone c f)).core c).vecFlags.empty = ((s.core c).vecFlags.empty || f.empty))
     ∧ ((s.apply (.vecDone c f)).core c).mem = (s.core c).mem)

/-- The exact sum of a set of values does not depend on the order in which they enter a lane, nor on how they are split between lanes
that are added: the sum of an order-free accumulation (R125, R126, R132, R134). -/
def Obligations.SumsAreOrderFree : Prop :=
  (∀ (a : Int) (xs ys : List Nat), xs.Perm ys → exactSum a xs = exactSum a ys)
  ∧ (∀ (a : Int) (xs ys : List Nat), exactSum a (xs ++ ys) = (exactSum a xs).addLane (exactSum a ys))
  ∧ (∀ l m n : Lane, l.addLane m = m.addLane l ∧ (l.addLane m).addLane n = l.addLane (m.addLane n))
  ∧ (∀ l : Lane, Lane.ofRecord l.record = l)

/-- UNORM, GSTORE, UCLIP and GNORM complete where their descriptor and operands can be used: the norm terms are added to the group's
sum, a record is stored, the group is decided, the global norm is stored and latched, each in the ac of its latency (R182, R183, R184,
R196). -/
def Obligations.NormRows : Prop :=
  ∀ (i : Issue) (s : State), s.Ready i →
    let c := i.core
    let o := s.origin i
    let u := uHead i.head
    let b := (s.sliceNow c).viaBytes u.desc 64
    let e := s.entry c u.group
    (updWord 0x040 i = true → (∃ g, s.checkSlice 0 c 0 u.desc 64 = .pass g) → zeroAt b 6 58 = true →
      s.checkAll 0 c [⟨0, [(leAt b 0 4, 8 * u.count)]⟩, ⟨0, [(s.groupAddr u.group, 64)]⟩] = none →
      let dl := s.anchor c (leAt b 4 2) - s.anchor c (s.group c u.group).leadId
      let ts := (List.range u.count).map (fun j => normTerm (i48Of (s.spRead c (s.now + 1 + j / 256) (leAt b 0 4 + 8 * j) 8)) dl)
      let last := s.now + ceilDiv u.count 256 + 12
      exec (.unorm i) s = .next (s.issued i (last + 1))
      ∧ (unormPlan i s o).Runs s c o (last + 1) last
          [⟨last, false, o, .normAdd c u.group (ts.foldl (fun a t => a + t.getD 0) 0) (ts.any (fun t => t.isNone))⟩])
    ∧ (updWord 0x041 i = true →
        let d := if u.flags % 2 = 0 then normRecord e else e.dw2.record ++ e.w2.record
        s.checkAll 0 c [⟨1, [(u.desc, d.length)]⟩] = none →
        exec (.gstore i) s = .next (s.issued i (s.now + 5))
        ∧ (gstorePlan i s o).Runs s c o (s.now + 5) (s.now + 4) [⟨s.now + 4, false, o, .sp c u.desc .plain 4 d⟩])
    ∧ (updWord 0x042 i = true → (∃ g, s.checkSlice 0 c 0 u.desc 64 = .pass g) → zeroAt b 38 26 = true →
        let na := (List.range 8).map (fun k => leAt b (4 * k) 4)
        let m := s.sliceNow c
        let recs := na.map (fun a => (leNat (m.viaBytes a 32), bitAt (m.viaLe (a + 32) 4) 0))
        let st := (List.range (leAt b 36 2)).foldl (fun x k => x ||| m.viaLe (leAt b 32 4 + 16 * k + 12) 2) 0
        let g := s.group c u.group
        s.checkAll 0 c ((na.map (fun a => (a, 64)) ++ [(leAt b 32 4, 16 * leAt b 36 2), (s.groupAddr u.group, 64)]).map
          (fun x => ⟨0, [x]⟩)) = none →
        exec (.uclip i) s = .next (s.issued i (s.now + 41))
        ∧ (uclipPlan i s o).Runs s c o (s.now + 41) (s.now + 40)
            [⟨s.now + 40, false, o, .groupSet c u.group (clipDecision g (s.core c).stepCalc (s.anchor c g.leadId) recs st e)⟩])
    ∧ (updWord 0x046 i = true → s.checkAll 0 c [⟨1, [(u.desc, 4)]⟩] = none →
        let x := globalNorm (((s.core c).groups.map (·.2)).filter (fun e => e.st != .undecided))
        exec (.gnorm i) s = .next (s.issued i (s.now + 8201))
        ∧ (gnormPlan i s o).Runs s c o (s.now + 8201) (s.now + 8200)
            [⟨s.now + 8200, false, o, .sp c u.desc .plain 4 (le32 x)⟩, ⟨s.now + 8200, false, o, .gnorm x⟩])

/-- R183: a group is abandoned exactly when a slot's OVF or INV, a saturated norm or a norm above ABSURD says so, and it is clipped
exactly when its norm exceeds its ceiling. -/
def Obligations.ClipDecision : Prop :=
  ∀ (g : GroupRec) (sc : StepCalc) (lead : Int) (recs : List (Nat × Bool)) (st : Nat) (old : GroupEntry),
    let e := clipDecision g sc lead recs st old
    (e.st = .abandon ↔ bitAt st 1 = true ∨ bitAt st 2 = true ∨ e.overNsat = true ∨ f32Gt e.gn g.absurd = true)
    ∧ (e.st ≠ .abandon → e.st = .update) ∧ (e.clipped = true ↔ f32Gt e.gn g.clipCeil = true)
    ∧ (e.clipped = false → e.lagClipped = false → e.clip = f32One)
    ∧ (recs.any (·.2) = true → e.overNsat = true)

/-- STEPCALC, UPDATE and UCLOSE complete where their descriptors and operands can be used and the group is decided: the step's factors are
set, the parameters updated, the ratio entry is written and its sums leave their flags in the working slots (R181, R188, R189 to R197).
R181: UPDATE and UCLOSE on a group that no UCLIP has decided are schedule faults of kind expect mismatch. -/
def Obligations.OptimiserRows : Prop :=
  (∀ (i : Issue) (s : State), s.Ready i →
     let c := i.core
     let o := s.origin i
     let u := uHead i.head
     let b := (s.sliceNow c).viaBytes u.desc 64
     let e := s.entry c u.group
     let g := s.group c u.group
     (updWord 0x045 i = true → (∃ r, s.checkSlice 0 c 0 u.desc 64 = .pass r) → zeroAt b 8 56 = true →
       s.checkAll 0 c [⟨0, [(leAt b 0 4, 400)]⟩, ⟨0, [(leAt b 4 4, 128)]⟩] = none →
       let m := s.sliceNow c
       let x := stepCalcOf s c (m.viaBytes (leAt b 0 4) 400) (m.viaBytes (leAt b 4 4) 128)
       exec (.stepcalc i) s = .next (s.issued i (s.now + 161))
       ∧ (stepcalcPlan i s o).Runs s c o (s.now + 161) (s.now + 160)
           (⟨s.now + 160, false, o, .stepCalc c x.1⟩ :: (if x.2 then [⟨s.now + 160, false, o, .fmtSat⟩] else [])))
     ∧ (updWord 0x043 i = true → e.st ≠ .undecided → (∃ r, s.checkSlice 0 c 0 u.desc 128 = .pass r) →
         let bb := (s.sliceNow c).viaBytes u.desc 128
         let d := updDesc bb
         let k := if g.mode = 0 then 8 else if g.mode = 1 then 16 else 0
         let lrg := (Sf.of (s.core c).stepCalc.lr).mul (Sf.of g.lrMult)
         let decay := (Sf.of f32One).sub (lrg.mul (Sf.of g.wd))
         let gs := (Sf.of g.gradScale).mul (Sf.of e.clip)
         let env : UpdEnv := ⟨g, lrg.v, decay.v, gs.v, (s.core c).stepCalc.bc1, (s.core c).stepCalc.bc2, s.anchor c d.gAnchor, k,
           decay.sat || gs.sat⟩
         let last := s.now + ceilDiv u.count 256 + 48
         zeroAt bb 0x3B 1 = true → zeroAt bb 0x4C 52 = true → d.rowLen ≠ 0 → u.count % d.rowLen = 0 → d.colBase % 32 = 0 →
         d.maskKind ≤ 2 → (d.maskKind = 2 → d.colBase % 64 = 0) →
         s.checkAll 0 c (((d.q, 8 * u.count) :: (s.groupAddr u.group, 64) :: updExtents d k g.opt u.count d.ins
             ++ updMaskExtent d u.count).map (fun x => ⟨0, [x]⟩)
           ++ (updExtents d k g.opt u.count d.outs).map (fun x => ⟨1, [x]⟩)) = none →
         exec (.update i) s = .next (s.issued i (last + 1))
         ∧ (updatePlan i s o).Runs s c o (last + 1) last (updateEffects s c o u.group u.count d env (e.st == .abandon)))
     ∧ (updWord 0x044 i = true → e.st ≠ .undecided → (∃ r, s.checkSlice 0 c 0 u.desc 64 = .pass r) → zeroAt b 36 28 = true →
         s.checkAll 0 c (((s.groupAddr u.group, 64) :: (List.range 8).map (fun k => (leAt b (4 * k) 4, 32))).map (fun x => ⟨0, [x]⟩)
           ++ [⟨1, [(leAt b 32 4, 32)]⟩, slotAccess s g.dwId, slotAccess s g.wId]) = none →
         exec (.uclose i) s = .next (s.issued i (s.now + 41))
         ∧ ∃ entry gd gw post, entry.length = 32 ∧ slice 0 8 entry = le64 s.job.stepNum.toNat ∧ slice 8 2 entry = le16 u.group
           ∧ (∀ x ∈ post, x.eff = .ratioBand entry u.group ∨ x.eff = .fmtSat)
           ∧ (uclosePlan i s o).Runs s c o (s.now + 41) (s.now + 40)
               ([⟨s.now + 40, false, o, .sp c (leAt b 32 4) .plain 4 entry⟩, slotWrite s c (s.now + 40) o 4 g.dwId gd,
                 { slotWrite s c (s.now + 40) o 4 g.wId gw with half := true }] ++ post))) ∧
  (∀ (i : Issue) (s : State), s.Ready i → (s.entry i.core (uHead i.head).group).st = .undecided →
     let o := s.origin i
     let u := uHead i.head
     let mismatch := faultRec 7 o.master 0xFFFF 5 0 0 o.instr o.opcode 0 0 0
     (updWord 0x043 i = true → (∃ r, s.checkSlice 0 i.core 0 u.desc 128 = .pass r) →
       exec (.update i) s = .next ((s.advance i 0).raiseFault mismatch))
     ∧ (updWord 0x044 i = true → (∃ r, s.checkSlice 0 i.core 0 u.desc 64 = .pass r) →
       exec (.uclose i) s = .next ((s.advance i 0).raiseFault mismatch)))

/-- RECAST and the drift check complete where their descriptor and operands can be used: RECAST writes the working copy of every element;
the drift check writes nothing, and its first differing element is a fault of kind CRC at use that makes the module SUSPECT with reason 4
(R198, R199, R363). -/
def Obligations.WorkingCopyRows : Prop :=
  ∀ (i : Issue) (s : State), s.Ready i → updWord 0x047 i = true →
    let c := i.core
    let o := s.origin i
    let u := uHead i.head
    let b := (s.sliceNow c).viaBytes u.desc 64
    let ba := leAt b 0 4
    let wa := leAt b 4 4
    let wc := (s.group c u.group).wc
    let body := fun j => leNat (s.spRead c (s.now + 1 + j / 256) (ba + 2 * j) 2)
    let work := fun j => leNat (s.spRead c (s.now + 1 + j / 256) (wa + j) 1)
    let last := s.now + ceilDiv u.count 256 + 16
    (∃ r, s.checkSlice 0 c 0 u.desc 64 = .pass r) → zeroAt b 8 56 = true →
    (u.flags = 0 → s.checkAll 0 c [⟨0, [(ba, 2 * u.count)]⟩, ⟨0, [(s.groupAddr u.group, 64)]⟩, ⟨1, [(wa, u.count)]⟩] = none →
      exec (.recast i) s = .next (s.issued i (last + 1))
      ∧ (recastPlan i s o).Runs s c o (last + 1) last
          (itemWrites c o (s.now + 17) wa 1 ((List.range u.count).map (fun j => recastElem wc (body j)))))
    ∧ (u.flags = 1 →
        s.checkAll 0 c [⟨0, [(ba, 2 * u.count)]⟩, ⟨0, [(wa, u.count)]⟩, ⟨0, [(s.groupAddr u.group, 64)]⟩] = none →
        exec (.driftCheck i) s = .next (s.issued i (last + 1))
        ∧ ((∀ j < u.count, recastElem wc (body j) = work j) → (driftPlan i s o).Runs s c o (last + 1) last [])
        ∧ (∀ j < u.count, (∀ k < j, recastElem wc (body k) = work k) → recastElem wc (body j) ≠ work j →
            ∃ f, f.kind = 3 ∧ f.progressA = j ∧ f.address = sliceAddress c (wa + j)
              ∧ (driftPlan i s o).Runs s c o (last + 1) last
                  [⟨s.now + 17 + j / 256, false, o, .fault f⟩, ⟨s.now + 17 + j / 256, false, o, .suspect 4 c.val⟩]))

/-- LEDGER, TABLES and HASH complete where their descriptor and operands can be used: LEDGER closes COUNT records, TABLES sets COUNT anchors
and quanta, HASH absorbs COUNT bytes into its slot and with FINISH writes the digest (R138, R155, R156, R200, R201). -/
def Obligations.LedgerRows : Prop :=
  ∀ (i : Issue) (s : State), s.Ready i →
    let c := i.core
    let o := s.origin i
    let u := uHead i.head
    let b := (s.sliceNow c).viaBytes u.desc 64
    (∃ r, s.checkSlice 0 c 0 u.desc 64 = .pass r) →
    (updWord 0x048 i = true → zeroAt b 14 50 = true →
      s.checkAll 0 c [⟨0, [(leAt b 0 4, 544 * u.count)]⟩, ⟨0, [(leAt b 4 4, 16 * u.count)]⟩, ⟨1, [(leAt b 8 4, 544 * u.count)]⟩] = none →
      let last := s.now + 34 * u.count + 8
      exec (.ledger i) s = .next (s.issued i (last + 1))
      ∧ (ledgerPlan i s o).Runs s c o (last + 1) last
          ((List.range u.count).map (fun j => (⟨s.now + 42 + 34 * j, false, o.along j 0, .sp c (leAt b 8 4 + 544 * j) .plain 4
            (closeRecord (s.spRead c (s.now + 1 + 34 * j) (leAt b 0 4 + 544 * j) 544)
              (s.spRead c (s.now + 1 + 34 * j) (leAt b 4 4 + 16 * j) 16) s.job.stepNum.toNat s.job.abandoned)⟩ : Timed))))
    ∧ (updWord 0x049 i = true → zeroAt b 6 58 = true → s.checkAll 0 c [⟨0, [(leAt b 0 4, 544 * u.count)]⟩] = none →
        exec (.tables i) s = .next (s.issued i (s.now + u.count + 2))
        ∧ (tablesPlan i s o).Runs s c o (s.now + u.count + 2) (s.now + u.count + 1)
            ((List.range u.count).map (fun j =>
              let r := s.spRead c (s.now + 1 + j) (leAt b 0 4 + 544 * j) 544
              let id := (leAt b 4 2 + j) % 65536
              let a := toSigned 16 (leAt r 0x00A 2)
              (⟨s.now + 1 + j, false, o.along j 0, .tables c id a
                (if leAt r 6 1 = 1 then deriveQuantum r (s.gxKeep id) (s.job.stepNum.toNat + 1) a else 0)⟩ : Timed))))
    ∧ (updWord 0x04A i = true → zeroAt b 8 56 = true →
        s.checkAll 0 c ([⟨0, [(leAt b 0 4, u.count)]⟩] ++ (if bitAt u.flags 3 then [⟨1, [(leAt b 4 4, 32)]⟩] else [])) = none →
        let d := (List.range (ceilDiv u.count 32)).flatMap (fun j =>
          s.spRead c (s.now + 1 + j) (leAt b 0 4 + 32 * j) (min 32 (u.count - 32 * j)))
        let x := shaAbsorb (if bitAt u.flags 2 then shaFresh else tabGet shaFresh (u.flags % 4) (s.core c).sha) d
        let t := s.now + ceilDiv u.count 32 + 70
        exec (.hash i) s = .next (s.issued i (t + 1))
        ∧ (hashPlan i s o).Runs s c o (t + 1) t ([⟨t, false, o, .shaSlot c (u.flags % 4) x⟩]
            ++ (if bitAt u.flags 3 then [⟨t, false, o, .sp c (leAt b 4 4) .plain 4 (shaFinal x)⟩] else [])
            ++ (if bitAt u.flags 3 && bitAt u.flags 4 then [⟨t, false, o, .fprint (shaFinal x)⟩] else [])))

/-- A SHA-256 slot takes its bytes in any number of parts (R201). -/
def Obligations.HashInParts : Prop :=
  ∀ (x : ShaSlot) (a b : Bytes), x.buf.length < 64 → shaAbsorb (shaAbsorb x a) b = shaAbsorb x (a ++ b)

/-- MOVE and FILL complete where the region check of each side passes: a DMA engine is busy until the ac after its last write, of a slice
or a pattern one ac per 2,048 bytes and 11 more, and the pieces of the transfer are its effects (R242 to R245); FILL's bytes repeat
PATTERN, least significant byte first (R243). -/
def Obligations.DmaRows : Prop :=
  ∀ (i : Issue) (s : State) (di : Nat), s.Ready i →
    let m := moveOp i
    let o := s.origin i
    let c := i.core
    let engine := i.unit.val - 3
    let dr := s.region di
    let steady := s.now + 11 + (m.len - 1) / 2048
    s.checkRegion 1 c m.dst m.dstView 1 m.dstOff m.len = .pass di →
    (fillWord i = true →
      let d := fillBytes m.srcOff m.len
      let x : Transfer := ⟨steadyFeed s d, mateBytes s i dr.inHbm (fun _ => d), none, dr, m.dstOff, false⟩
      (∀ k < m.len, d[k]? = some (BitVec.ofNat 8 (m.srcOff / 256 ^ (k % 8)))) ∧ d.length = m.len
      ∧ exec (.fill i) s = .next (s.issued i steady)
      ∧ fillPlan i s o = .run steady (steady - 1) (pieceEffects s i o x 0 (movePieces false 2048 none dr m.dstOff m.len)))
    ∧ (∀ si : Nat, moveWord i = true → s.checkRegion 1 c m.src m.srcView 0 m.srcOff m.len = .pass si →
        (m.verify = true → verifyExtent (s.region si) m.srcOff m.len = true) →
        let sr := s.region si
        let f := sourceFeed s c engine sr m.srcOff m.len
        let mate := mateBytes s i dr.inHbm (fun k => if sr.inHbm then f.bytes else readSide s k sr m.srcOff m.len)
        let x : Transfer := ⟨f, mate, some (si, sr, m.srcOff), dr, m.dstOff, m.verify⟩
        let last := f.ready ⟨[(0, m.len)], none, none⟩ + 8
        exec (.move i) s = .next (s.issued i (last + 1))
        ∧ (sr.inHbm = false ∨ s.booksHbm (engineCode c engine) false = false → last + 1 = steady ∧ f.bytes = readSide s c sr m.srcOff m.len)
        ∧ ∃ reads, movePlan i s o = .run (last + 1) last (reads ++ pieceEffects s i o x 0
              (movePieces m.verify (if sr.inHbm then 512 else 2048) (some (sr, m.srcOff)) dr m.dstOff m.len))
            ∧ ((s.core c).ecc = [] → s.hbm.ecc = [] → ∀ e ∈ reads, ∃ a n, e.eff = .spRead c a n (5 + engine)))

/-- Remote operations over a link complete: GET and SIGNAL send one flit and hold the engine for one ac; PUT, ADD_I48, SET_BITS and
CLR_BITS that may read their source hold it for their reads, and each flit whose bytes pass waits for its position, poisoned where its data
meet an uncorrectable error (R258, R265 to R268, R271, R272). Remote operations with PORT 16 complete where they may read their source: the
engine is held to the arrival of the last word, and with SIG 2 ac longer. The words take effect through the remote-operation ports of the
cores that they reach; at a destination that refuses them the port of the destination core faults in the delivery ac instead (R266 to
R270). -/
def Obligations.RemoteRows : Prop :=
  (∀ (i : Issue) (s : State) (h : (remoteOp i).port < 16), s.Ready i →
     let m := remoteOp i
     let o := s.origin i
     let p : Fin 16 := ⟨m.port, h⟩
     let place := fun n => s.transferPositions p i.core.val (i.unit.val - 3) (s.stepOffset + 20) n
     let book := fun payload => (pairWhole s i o).getD (if s.silent i.core then [] else
       (place 1).map (fun k => bookFlit s p o s.now k (some payload)))
     (remoteWord 0x081 i = true → exec (.get i) s = .next (s.issued i (s.now + 1))
       ∧ remotePlan 0x081 i s o = .run (s.now + 1) s.now (book (Config.getRequest i.head (contWord i 0))))
     ∧ (remoteWord 0x085 i = true → exec (.remoteSignal i) s = .next (s.issued i (s.now + 1))
       ∧ remotePlan 0x085 i s o = .run (s.now + 1) s.now (book []))
     ∧ (∀ (si : Nat) (sr : Region), remoteSource i s o = .ok (si, sr) →
         ∀ r ∈ [(0x080, Instr.put), (0x082, Instr.addI48), (0x083, Instr.setBits), (0x084, Instr.clrBits)],
           remoteWord r.1 i = true →
           let x := remoteTransfer i s si sr
           let ps := remotePieces i sr
           let pass := passing s i o x sr 0 ps
           let fs := dataFlits s r.1 i sr x ps
           let bad := sourceMarks s i sr m.srcOff (64 * m.len64) true
           let unread := fun (f : Part) => !f.check && bad.any (fun a =>
             decide (a < sr.base + m.srcOff + f.hi ∧ sr.base + m.srcOff + f.lo < a + (if sr.inHbm then 32 else 8)))
           let sends := (fs.zip (place fs.length)).filterMap (fun (f, k) =>
             (partRead s x.feed m.verify pass.1 f).map (fun t => bookFlit s p o t k (if unread f then none else some f.payload)))
           let read := x.feed.ready ⟨[(0, 64 * m.len64)], none, none⟩
           exec (r.2 i) s = .next (s.issued i (read + 1))
           ∧ remotePlan r.1 i s o = .run (read + 1) read
               (remoteReads s i o x.feed si sr ++ (if s.silent i.core then [] else sends) ++ pass.2)
           ∧ (sr.inHbm = false → read + 1 = s.now + 3 + (64 * m.len64 - 1) / 2048))) ∧
  (∀ (i : Issue) (s : State) (si : Nat) (sr : Region), s.Ready i → (remoteOp i).port = 16 →
     remoteSource i s (s.origin i) = .ok (si, sr) →
     let m := remoteOp i
     let o := s.origin i
     let x := remoteTransfer i s si sr
     let ps := remotePieces i sr
     let pass := passing s i o x sr 0 ps
     let read := x.feed.ready ⟨[(0, 64 * m.len64)], none, none⟩
     let free := read + 17 + (if m.sig then 2 else 0)
     let before := remoteReads s i o x.feed si sr ++ pass.2
     let core : Fin 8 := Fin.ofNat 8 m.dstCore
     let by_ := fun op t => (⟨ropMaster core, 0xFFFFFFFF, op, some (o.master, t), 0, 0⟩ : Origin)
     ∀ r ∈ [(0x080, Instr.put), (0x082, Instr.addI48), (0x083, Instr.setBits), (0x084, Instr.clrBits)],
       remoteWord r.1 i = true →
       exec (r.2 i) s = .next (s.issued i free)
       ∧ (sr.inHbm = false → free = s.now + 19 + (64 * m.len64 - 1) / 2048 + (if m.sig then 2 else 0))
       ∧ (s.silent i.core = true → remotePlan r.1 i s o = .run free (read + 17) before)
       ∧ (∀ j, s.silent i.core = false → destination s r.1 m = .ok j →
           remotePlan r.1 i s o = .run free (read + 17) (before
             ++ ((s.reached core).flatMap (arrivals16 i s r.1 m o j sr x pass.1)
               ++ (if m.sig && pass.1.length == ps.length then
                     [⟨read + 17, false, by_ r.1 read, .counterAdd m.counter 1⟩] else []))))
       ∧ (∀ k reg, s.silent i.core = false → destination s r.1 m = .error (k, reg) →
           ∃ f, f.kind = k ∧ f.master = ropMaster core
             ∧ remotePlan r.1 i s o = .run free (read + 17) (before ++ [⟨x.feed.at_ 0 + 16, false, by_ r.1 (x.feed.at_ 0), .fault f⟩])))

/-! ### HBM command streams and fabric slots -/

/-- The commands of an HBM stream complete: each moves its stream on and changes what the row says of its bank; RD brings 32 bytes of the
open row to the slot that XFER names, WR stores 32 bytes of that slot into the open row (R70, R71, R72, R235, R237, R430). XFER 0x1FFF names
no slot. An uncorrectable burst reaches no slot (R237). Of a bank without an open row, which no loaded stream reads or writes (R430), RD
brings undefined data and WR stores none (the model's choice, log 142). A word of a stream changes nothing while the schedule does not run,
but for the REFPB of the hold loop (R236). -/
def Obligations.HbmRows : Prop :=
  (∀ (h : HbmIssue) (s : State), s.scheduleRuns = true →
     let b := s.bank h
     let n := s.hbmAdvance h
     let at_ := fun row => burstAddress h.pc.val (hbmBank h.word) row (hbmCol h.word)
     let key := slotKey (controllerChannel h.pc.val) (hbmXfer h.word)
     let slot := tabGet [] key s.fabric.slots
     (hbmRowWord 0 h = true → exec (.hbmNop h) s = .next n)
     ∧ (hbmRowWord 6 h = true → exec (.hbmDelay h) s = .next n)
     ∧ (hbmRowWord 1 h = true →
         exec (.act h) s = .next (n.setBank h { b with row := some (hbmRow h.word), actAt := some (s.wallFc h) }))
     ∧ (hbmRowWord 4 h = true → exec (.pre h) s = .next (n.setBank h { b with row := none, preAt := some (s.wallFc h) }))
     ∧ (hbmRowWord 5 h = true → exec (.refpb h) s = .next (n.setBank h { b with refAt := some (s.wallFc h) }))
     ∧ (hbmRowWord 2 h = true → ∀ sev : Severity, ∃ t, exec (.rd h sev) s = .next t
         ∧ t.hbm.mem = s.hbm.mem ∧ (t.bank h).row = b.row ∧ (t.bank h).rdAt = some (s.wallFc h)
         ∧ (hbmXfer h.word = 0x1FFF → t.fabric = s.fabric)
         ∧ (∀ r, hbmXfer h.word ≠ 0x1FFF → b.row = some r → sev ≠ .uncorrected →
             tabGet [] key t.fabric.slots = slot ++ [(at_ r, s.hbm.mem.readBytes (at_ r) 32)])
         ∧ (b.row.isSome = true → sev = .uncorrected → t.fabric = s.fabric)
         ∧ (hbmXfer h.word ≠ 0x1FFF → b.row = none →
             ∃ d : Bytes, d.length = 32 ∧ tabGet [] key t.fabric.slots = slot ++ [(hbmSize, d)]))
     ∧ (hbmRowWord 3 h = true → ∃ t, exec (.wr h) s = .next t
         ∧ (t.bank h).row = b.row ∧ (t.bank h).wrAt = some (s.wallFc h)
         ∧ (b.row = none → t.hbm.mem = s.hbm.mem)
         ∧ (∀ r d k, s.Canonical → b.row = some r → slotBytes (at_ r) 32 slot = some d → k < 32 →
             some (t.hbm.mem.read (at_ r + k)) = d[k]?)
         ∧ (∀ r x, b.row = some r → (x < at_ r ∨ at_ r + 32 ≤ x) → t.hbm.mem.read x = s.hbm.mem.read x))) ∧
  (∀ (h : HbmIssue) (s : State), s.scheduleRuns = false →
     (hbmRowWord 0 h = true → exec (.hbmNop h) s = .next s) ∧ (hbmRowWord 6 h = true → exec (.hbmDelay h) s = .next s)
     ∧ (hbmRowWord 1 h = true → exec (.act h) s = .next s) ∧ (hbmRowWord 4 h = true → exec (.pre h) s = .next s)
     ∧ (hbmRowWord 2 h = true → ∀ sev : Severity, exec (.rd h sev) s = .next s) ∧ (hbmRowWord 3 h = true → exec (.wr h) s = .next s)
     ∧ (hbmRowWord 5 h = true → exec (.refpb h) s = .next (if s.loopBank = some (hbmBank h.word) && !h.half then
         s.setBank h { s.bank h with refAt := some (s.wallFc h) } else s)))

/-- FABRIC_SLOT completes: a slot that carries data moves one part: the burst data of a controller leave it for the unit that DST names, or
the part that SRC names comes from its unit into the slot's own burst data (R20, R60). A slot of KIND 4 serves the host accesses that wait,
one of KIND 5 brings the checkpoint engine 512 bytes (R21; log 78), and a slot of KIND 0 carries nothing. -/
def Obligations.FabricSlotMoves : Prop :=
  ∀ (channel : Fin 136) (dir half : Bool) (s : State) (w : Word128),
    let table := s.program!.fabric.getD channel.val []
    let j := (2 * s.stepOffset + bit half) % table.length
    let x := fabricHalf w dir
    let key := slotKey channel.val j
    let f := s.fabric.slot s.now channel.val j dir x
    (s.scheduleRuns = false → exec (.fabricSlot channel dir half) s = .next s) ∧
    (s.scheduleRuns = true → table[j]? = some w →
      exec (.fabricSlot channel dir half) s =
        .next (if x.kind = 1 ∨ x.kind = 2 then { s with fabric := f } else s.reservedSlot x.kind channel.val)
      ∧ (∀ u, controllerOf channel.val = some u →
          (dir = false → x.src = u → f.inn = s.fabric.inn ++ (tabGet [] key s.fabric.slots).map (fun d => ⟨x.dst, s.now, d.1, d.2⟩)
            ∧ tabGet [] key f.slots = [] ∧ f.out = s.fabric.out)
          ∧ (∀ p, dir = true → x.dst = u →
              s.fabric.out.find? (fun p => p.unit == x.src && p.part == x.part && p.addr / 2048 % 640 / 32 + 0x40 == u) = some p →
              tabGet [] key f.slots = [(p.addr, p.data)] ∧ f.out = s.fabric.out.erase p ∧ f.inn = s.fabric.inn))
      ∧ (x.kind = 0 → s.reservedSlot x.kind channel.val = s)
      ∧ ((attachmentOf channel.val).isSome = true → (channel.val < 64 → s.coreInWindow (channel.val / 8) = false) → x.kind = 5 →
          s.ckpt.st = 2 →
          s.reservedSlot x.kind channel.val = { s with ckpt := { s.ckpt with fetched := s.ckpt.fetched + 512 } }))

/-! ### Links -/

/-- NAK, DEADLINE_MISS and the lane events complete: a retry copy of KIND 2 is queued, up to 64 of one flit, after which the port fails; a
miss is counted and raises the soak of cause 1 or is link poison; the first failed lane of a port is reported and replaced by the spare at a
grid point (R261, R273, R274). R261: a second failed lane of a port, of either direction, makes it FAILED. PORT_UP and LOCKED_REPORT complete:
a port whose partner trained late identifies itself and carries its measurement, and the report of the parent enables the monitor of LINK
(R282, R394, R395). -/
def Obligations.LinkEvents : Prop :=
  (∀ (p : Fin 16) (s : State),
     (∀ (slot : BitVec 15) (o : Outgoing), (s.port p).carries = true →
       (s.port p).sent.find? (fun o => o.slot == slot.toNat) = some o →
       let n : Outgoing := { o with copies := o.copies + 1 }
       (o.copies < 64 → ∃ c : Outgoing, exec (.nak p slot) s = .next (s.modPort p (fun x => { x with
           sent := x.sent.map (fun y => if y = o then n else y), copies := x.copies ++ [c] }))
         ∧ flitKind c.flit = 2 ∧ c.slot = o.slot ∧ c.start = o.start ∧ c.flit.payload = o.flit.payload
         ∧ flitSlot c.flit = flitSlot o.flit ∧ flitStamp c.flit = flitStamp o.flit)
       ∧ (64 ≤ o.copies → exec (.nak p slot) s = .next (s.failPort p)))
     ∧ (∀ d : Damaged, s.scheduleRuns = true →
         (s.port p).damaged.find? (fun d => !d.missed && decide (d.deadline ≤ s.now)) = some d →
         let x := rxEntry ((s.linkTable p).entry d.slot)
         let t := s.modPort p (fun x => { x with
           misses := satInc x.misses, damaged := x.damaged.map (fun y => if y = d then { y with missed := true } else y) })
         (x.kind = 0 → exec (.deadlineMiss p) s = .next t)
         ∧ (x.kind ≠ 0 → x.guard = true → exec (.deadlineMiss p) s = .next (t.raiseSoak 1 (missTag p d.slot) true))
         ∧ (x.kind ≠ 0 → x.guard = false → exec (.deadlineMiss p) s = .next (t.linkPoison p x.core.val 3 d.slot)))
     ∧ (∀ lane : Fin 9, (s.port p).failed = [] → lane.val ≠ 8 →
         (s.lanesChange p true lane.val = true →
           exec (.laneFailure p lane) s = .next ((s.loseLane p true lane.val).modPort p
             (fun x => { x with control := x.control ++ [.laneFailure lane.val] })))
         ∧ (s.lanesChange p false lane.val = true →
             exec (.laneFailureReport p lane) s = .next ((s.loseLane p false lane.val).modPort p
               (fun x => { x with remap := some (lane.val,
                 if s.scheduleRuns then roundUp (s.now - (s.port p).latency + 256) s.soakPeriod else s.now) }))))
     ∧ (∀ lane due : Nat, (s.port p).remap = some (lane, due) → (s.scheduleRuns = true → due ≤ s.now) →
         exec (.laneRemap p) s = .next ((s.modPort p (fun x => { x with
           st := 3, spareFor := BitVec.ofNat 4 lane, remap := none })).event 13 (u8 p.val ++ u8 lane) []))) ∧
  (∀ (p : Fin 16) (rx : Bool) (lane : Fin 9) (s : State), s.lanesChange p rx lane.val = true → (s.port p).failed ≠ [] →
     ∃ t, exec (if rx then .laneFailure p lane else .laneFailureReport p lane) s = .next t
       ∧ (t.port p).st = 4 ∧ (∀ q : Fin 16, q ≠ p → t.port q = s.port q)) ∧
  (∀ (p : Fin 16) (s : State), s.alive = true →
     (∀ m : PortMeasure, (s.port p).st = 1 → 7 ≤ s.boot.stage.toNat → exec (.portUp p m) s = .next
       (s.modPort p (fun x => (x.withLanes (s.recordedLanes p)).identify.measured m)).pendingLinks.refreshNeighbours)
     ∧ (s.links.origin = false → p.val = s.links.followPort.toNat → ∃ t, exec (.lockedReport ⟨p, true⟩) s = .next t
         ∧ (t.port p).lockedIn = true ∧ t.clock.linkMon.enabled = true ∧ t.clock.linkMon.ready = s.clock.linkMon.ready)
     ∧ (s.links.origin = false → p.val = s.links.followPort.toNat → s.boot.stage = 7 →
         ∃ t, exec (.lockedReport ⟨p, false⟩) s = .next t ∧ (t.port p).lockedIn = false ∧ t.clock.linkMon = SourceMon.initial)
     ∧ (∀ l : Bool, s.links.origin = true → exec (.lockedReport ⟨p, l⟩) s = .next (s.modPort p (fun x => { x with lockedIn := l }))))

/-- FLIT_TRANSMIT and FLIT_RECEIVE complete on a port that carries flits: a position sends one flit with the tokens of its header, and
a damaged flit of a running job is reported by a NAK (R258, R263, R273). FLIT_DELIVERY completes: of the flits whose delivery ac has come and
that wait for no guarded miss of an earlier position, the earliest takes effect (R268, R269). A SIGNAL flit adds its increment to its counter,
seen two ac later; it stores no byte. -/
def Obligations.FlitRows : Prop :=
  (∀ (p : Fin 16) (s : State), s.alive = true → (s.port p).carries = true →
     (∀ k, s.scheduleRuns = true → positionAt s.stepOffset = some k → s.job.stepStart ≤ s.now →
       ∃ (t : State) (f : Flit), exec (.flitTransmit p) s = .next t ∧ (t.port p).last = some f)
     ∧ (s.scheduleRuns = false → ∃ (t : State) (f : Flit), exec (.flitTransmit p) s = .next t ∧ (t.port p).last = some f)
     ∧ (∀ f : Flit, exec (.flitReceive p f true) s = .next (s.takeDamaged p f))
     ∧ (∀ f : Flit, s.jobOn = true → (s.linkTable p).cycle ≠ 0 → flitKind f ≠ 2 →
         let start := s.slotStart p (flitSlot f)
         ((s.takeDamaged p f).port p).naks
           = (s.port p).naks.filter (fun n => n.start != start) ++ [⟨flitSlot f, start, s.wall.toNat⟩])
     ∧ (∀ f : Flit, flitKind f = 1 → flitFault f = false →
         exec (.flitReceive p f false) s = .next (s.takeData p f (s.slotStart p (flitSlot f))))
     ∧ (∀ f : Flit, (flitKind f = 0 ∨ flitKind f = 3) → flitFault f = false → exec (.flitReceive p f false) s = .next s)
     ∧ (∀ (f : Flit) (d : Damaged), flitKind f = 2 → flitFault f = false →
         (s.port p).damaged.find? (fun d => d.slot == flitSlot f) = some d →
         exec (.flitReceive p f false) s = .next ((s.resolveCopy p f).takeData p f d.start))) ∧
  (∀ (p : Fin 16) (s : State), s.scheduleRuns = true →
     (∀ a : Arrival, earliest Arrival.start (s.deliverable p) = some a →
       let x := rxEntry a.entry
       let t := s.modPort p (fun x => { x with arrivals := x.arrivals.erase a })
       exec (.flitDelivery p) s = .next (t.deliver p a)
       ∧ ((s.core x.core).ropFrozen = false → a.poison = false → x.kind = 7 →
           exec (.flitDelivery p) s = .next { t with inflight := t.inflight ++
             [⟨s.now + 1, false, rxOrigin x x.core, .counterAdd x.counter (BitVec.ofNat 32 x.increment)⟩] }))
     ∧ ((∀ a ∈ (s.port p).arrivals, a.deliver ≤ s.now → ∃ d ∈ (s.port p).damaged, d.missed = true ∧ d.start < a.start
           ∧ (rxEntry ((s.linkTable p).entry d.slot)).guard = true) →
         exec (.flitDelivery p) s = .next s))

/-! ### Barriers, holds, soaks -/

/-- BARRIER_DUE: the barrier's words pass and BARRIER_SEQ counts it; then the module stops where it is SUSPECT, holds where it is not
ready, waits for its token to the end of the ac, and runs the actions of the barrier where it is ready and holds it; in the hold latency of a
fault the barrier performs no action (R79, R80, R249, R285, R364). At the end of the ac a barrier whose token has come runs its actions, and
one whose token has not becomes a hold (R79, R285, R291). -/
def Obligations.BarrierDue : Prop :=
  (∀ (s : State) (r : BarrierRec), s.scheduleRuns = true → s.barrierHere = some r →
    let n := s.passBarrierWords
    let t := { n with job := { n.job with barrierSeq := n.job.barrierSeq + 1 } }
    let w := t.watchBarrier
    (s.job.faultAt.isSome = true → exec .barrierDue s = .next t)
    ∧ (s.job.faultAt = none → w.job.suspectStop = true → exec .barrierDue s =
        .next (({ w with job := { w.job with barrier := some r, lastBarrier := BitVec.ofNat 16 r.id } }).haltAt .evaluate))
    ∧ (s.job.faultAt = none → w.job.suspectStop = false → w.unready r ≠ 0 → exec .barrierDue s = .next (w.beginHold r (w.unready r)))
    ∧ (s.job.faultAt = none → w.job.suspectStop = false → w.unready r = 0 → w.tokenHeld = false →
        exec .barrierDue s = .next { w with job := { w.job with barrier := some r, tokenDue := true } })
    ∧ (s.job.faultAt = none → w.job.suspectStop = false → w.unready r = 0 → w.tokenHeld = true →
        exec .barrierDue s = .next (w.barrierActions r))) ∧
  (∀ (s : State) (r : BarrierRec), s.job.tokenDue = true → s.job.barrier = some r → s.job.suspectStop = false →
    let v := { s with job := { s.job with tokenDue := false } }
    s.settleToken = (if s.tokenHeld then v.barrierActions r else v.beginHold r 2))

/-- R174, R175: action 1 of a COMMIT barrier writes the commit record, 128 bytes with the CRC of the first 124, to the slot of the new
shelf, flips the ledger shelf and, unless the step is abandoned, the parameter shelf, counts the step, and clears the step's marks and
group tables; every other byte of HBM and every byte of the slices keeps its value. -/
def Obligations.CommitEffects : Prop :=
  ∀ s : State, s.Canonical → s.job.fprint.length ≤ 32 → (∀ im, s.image = some im → im.hdr.manifestDigest.length ≤ 32) →
    let t := s.commit
    let g := if s.job.abandoned then s.job.g else !s.job.g
    let body := s.recordBody g (!s.job.lg)
    body.length = 124
    ∧ t.job.g = g ∧ t.job.lg = (!s.job.lg) ∧ t.job.stepNum = s.job.stepNum + 1
    ∧ t.job.paramStep = (if s.job.abandoned then s.job.paramStep else s.job.stepNum)
    ∧ t.job.abandoned = false ∧ t.job.fmtSat = false ∧ t.job.clipped = 0 ∧ (∀ c, (t.core c).groups = [])
    ∧ (∀ k < 124, some (t.hbm.mem.read (s.commitAddr g + k)) = body[k]?)
    ∧ t.hbm.mem.readLe (s.commitAddr g + 124) 4 = (crc32c body).toNat
    ∧ (∀ a, (a < s.commitAddr g ∨ s.commitAddr g + 128 ≤ a) → t.hbm.mem.read a = s.hbm.mem.read a)
    ∧ (∀ c, (t.core c).mem = (s.core c).mem)

/-- BARRIER_TOKEN: from a child it sets that the child is ready, from the parent it sets go with its GRID; then the module looks at the
coming barrier (R281, R285). R40, R319: a barrier hold that its release count has reached is recorded, with the schedule cycle of the
barrier, as is a soak raised at the hold (R276), and its actions run; one that has not, or whose module faulted, stays. R83, R319: a hold
that reaches HOLD_NOTICE logs one BARRIER_HOLD event with ONGOING set, once per hold. -/
def Obligations.HoldRows : Prop :=
  (∀ (p : Fin 16) (grid : BitVec 2) (s : State), s.image.isSome = true → s.tokenBarrier.isSome = true →
     let t := s.takeToken p grid.toNat
     exec (.barrierToken p grid) s = .next t.watchBarrier
     ∧ ((s.placementPort p).isChild = true → (t.port p).childReady = true)
     ∧ ((s.placementPort p).isParent = true → (t.port p).parentGo = some grid.toNat ∧ t.links.goDown = some grid.toNat
         ∧ (grid ≠ 0 → t.links.releaseAt = some (s.namedRelease grid.toNat)))) ∧
  (∀ (s : State) (r : BarrierRec) (w : Nat), s.job.st = .hold → s.job.barrier = some r → s.links.releaseAt = some w →
     ((s.clusterWall < w ∨ s.job.faultAt.isSome = true) → exec .barrierRelease s = .next s)
     ∧ (w ≤ s.clusterWall → s.job.faultAt = none →
         let e := s.eventAt 2 0 s.now s.job.holdWall (holdData s.wall.toNat r.id s.job.holdCause) []
         let v := { e with log := { e.log with hold := false } }
         exec .barrierRelease s = .next (((if s.links.active && s.links.stopAt.isNone then v.endSoak else v).setJobState
           .running 0).barrierActions r).reraise)) ∧
  (∀ (s : State) (r : BarrierRec), s.job.st = .hold → s.job.barrier = some r →
     (s.job.holdNoticed = true → exec .holdNotice s = .next s)
     ∧ (s.job.holdNoticed = false → s.job.holdWall + field s.cfg.seqCfg.toNat 0 32 ≤ s.wall.toNat →
         exec .holdNotice s = .next (({ s with job := { s.job with holdNoticed := true } } : State).eventAt 2 16 s.now s.job.holdWall
           (holdData 0 r.id s.job.holdCause) [])))

/-- R249: 8 ac after the ac of its cause, or at once where schedule time stands, a hold ends in FAULT_HELD: nothing is under way or in
progress, no halt, start or pending value is left. -/
def Obligations.FaultHeld : Prop :=
  ∀ (s : State) (f : Nat), s.job.faultAt = some f →
    (s.scheduleRuns = true → s.now < f + 8 → exec .holdLatencyEnd s = .next s)
    ∧ (s.scheduleRuns = false ∨ f + 8 ≤ s.now → ∃ t, exec .holdLatencyEnd s = .next t ∧ t.job.st = .faultHeld ∧ t.inflight = []
        ∧ t.running = [] ∧ t.job.halt = none ∧ t.job.shadows = [] ∧ t.job.faultAt = none ∧ t.links.stopAt = none
        ∧ (∀ c, (t.core c).mem = (s.core c).mem) ∧ t.hbm = s.hbm ∧ t.counters = s.counters)

/-- Soaks: a SOAK token from another module sets the stop point, the module stops there in state SOAK, a restart token from the parent
names the release count, and the release ends the soak, whose record gives its schedule cycle and wall count (R33, R275, R276, R278). -/
def Obligations.SoakRows : Prop :=
  ∀ (p : Fin 16) (grid : BitVec 2) (s : State),
    (∀ x, s.scheduleRuns = true → s.tokenStop grid.toNat = some x →
      exec (.soakToken p grid) s = .next (s.takeStop 7 false p.val (s.stopPoint x)))
    ∧ (∀ x, s.links.stopAt = none → (s.takeStop 7 false p.val x).links.stopAt = some x
        ∧ (s.takeStop 7 false p.val x).links.soaks = s.links.soaks + 1
        ∧ (s.takeStop 7 false p.val x).links.soakCause = 7)
    ∧ (∀ x y, s.links.stopAt = some y → (s.takeStop 7 false p.val x).links.stopAt = some (min x y)
        ∧ (s.takeStop 7 false p.val x).links.soaks = s.links.soaks)
    ∧ (∀ x, s.links.stopAt = some x → s.scheduleRuns = true → x ≤ s.now →
        ∃ t, exec .soakStop s = .next t ∧ t.job.st = .soak ∧ t.links.soakStop = s.sched ∧ t.sched = s.sched
          ∧ t.inflight = s.inflight ∧ t.running = s.running)
    ∧ (s.standing = true → ∃ t, exec (.restartToken p grid) s = .next t
        ∧ ((s.placementPort p).isChild = true → s.job.suspectStop = false → s.job.halt ≠ some 0 → (t.port p).childRestart = true))
    ∧ (∀ w, s.job.st = .soak → s.links.restartAt = some w → w ≤ s.clusterWall → s.job.faultAt = none → s.job.halt = none →
        s.job.suspectStop = false →
        let t := (s.endSoak.opPointAction 0).clearRestart
        exec .soakRelease s = .next (({ t with offered := false }).setJobState .running 0).reraise)
    ∧ (s.links.joined = [] →
        let e := s.eventAt 1 0 s.links.soakStop.toNat s.links.stopWall (s.soakData s.links.soakCause.toNat) []
        s.endSoak = { e with links := { e.links with active := false, stopAt := none, joined := [] } })

/-! ### The event log -/

/-- R318, R320: an event is logged under the next number with the counts and the kind given, and raises its notices; where the log is
full of records that no LOG_ACK has confirmed and the register asks for acknowledgement, it is counted as lost instead. -/
def Obligations.EventsLogged : Prop :=
  ∀ (kind flags sched wall : Nat) (data attach : Bytes) (s : State),
    let t := s.addEvent kind flags sched wall data attach
    (s.cfg.logAckReq = true → eventLogSize ≤ s.eventUnacked →
      t = { s with log := { s.log with lost := satInc s.log.lost } })
    ∧ ((s.cfg.logAckReq = false ∨ s.eventUnacked < eventLogSize) →
        t.log.nextSeq = s.log.nextSeq + 1 ∧ t.log.lost = s.log.lost
        ∧ ∃ e ∈ t.log.events, e.seq = s.log.nextSeq ∧ e.kind = kind ∧ e.sched = sched ∧ e.wall = wall ∧ e.data = data
            ∧ e.attach = attach)

/-! ### The Feltodo Command Protocol: intake, tags, the window, replies -/

/-- A packet of a session that the module accepts runs its command now, on the state that notes where the session's packets come from;
what the command answers is the reply, or BAD_PARAMS where it would not fit the port. One that must wait, behind another of its session or
for the slots of its memory access, enters the command queue and its sequence counts as accepted; a queued one whose turn has come leaves
the queue and runs, or is answered FROZEN (R21, R89, R295, R300, R305, R306, R308, R312). -/
def Obligations.AcceptedRuns : Prop :=
  ∀ r ∈ sessionRows, ∀ (x : Session) (p : Packet) (s : State),
    (Accepted r.2 x p s →
      let a := r.2.run x p (s.heard x p)
      exec (r.1 p) s = .next (finish r.2.opcode x p
        (if s.roomOf p.port < a.params.length then Reply.refuse 2 (s.heard x p) else a)))
    ∧ (s.session p.session.toNat = some x → TakenAtOnce p s → p.magic = 0x46454C54 → x.st = .open_ → packetUnauth p = false →
        (hmac x.key (packetBody p r.2.opcode)).take 16 = p.tag → p.version = 1 → (∀ q ∈ s.queueOf x.id, q.seq ≠ p.seq) →
        x.window p.seq.toNat (p.tag.take 4) = .execute →
        (s.executing x.id = true ∨ s.queueOf x.id ≠ [] ∨ (s.scheduleRuns = true ∧ r.2.slots x p (s.heard x p) ≠ [])) →
        exec (r.1 p) s = .next ((s.heard x p).hold r.2 x p))
    ∧ (s.released p = true → s.session p.session.toNat = some x →
        let t := s.dequeue p
        (x.st ≠ .frozen → (r.2.answer x p t).fits p.port = true →
          exec (r.1 p) s = .next (finish r.2.opcode x p (r.2.answer x p t)))
        ∧ (x.st = .frozen → t.room p.port 0 = true → exec (r.1 p) s = .next (finish r.2.opcode x p (Reply.refuse 4 t)))
        ∧ t.queueOf x.id = (s.queueOf x.id).filter (fun q => q != p))

/-- R307: a packet whose MAGIC is wrong, whose session is none of the module's, or whose tag is not the session's is dropped and counted
by BAD_TAG, and nothing else happens. A packet of an open session with the right tag and another VERSION is answered with VERSION and runs
nothing. -/
def Obligations.BadPacketsDrop : Prop :=
  ∀ r ∈ sessionRows, ∀ (p : Packet) (s : State), TakenAtOnce p s →
    (p.magic ≠ 0x46454C54 → exec (r.1 p) s = .next (s.dropTag p.port))
    ∧ (s.session p.session.toNat = none → exec (r.1 p) s = .next (s.dropTag p.port))
    ∧ (∀ x : Session, s.session p.session.toNat = some x → (hmac x.key (packetBody p r.2.opcode)).take 16 ≠ p.tag →
        exec (r.1 p) s = .next (s.dropTag p.port))
    ∧ (∀ x : Session, s.session p.session.toNat = some x → x.st ≠ .pending → p.magic = 0x46454C54 → packetUnauth p = false →
        (hmac x.key (packetBody p r.2.opcode)).take 16 = p.tag → p.version ≠ 1 →
        exec (r.1 p) s = .next ((s.heard x p).reply p r.2.opcode (some x.key) 5 []))

/-- R308: a frozen session answers every command with FROZEN and runs none. -/
def Obligations.FrozenAnswers : Prop :=
  ∀ r ∈ sessionRows, ∀ (x : Session) (p : Packet) (s : State), TakenAtOnce p s → s.session p.session.toNat = some x →
    p.magic = 0x46454C54 → x.st = .frozen → packetUnauth p = false →
    (hmac x.key (packetBody p r.2.opcode)).take 16 = p.tag → p.version = 1 →
    exec (r.1 p) s = .next ((s.heard x p).reply p r.2.opcode (some x.key) 4 [])

/-- R305: a packet whose sequence the session has recorded with the same tag runs nothing again where its reply is short: the recorded
status and reply go out once more; with another tag it is dropped and counted by REPLAY. -/
def Obligations.RepeatsRunNothing : Prop :=
  ∀ r ∈ sessionRows, ∀ (x : Session) (p : Packet) (s : State) (e : SeqRec), TakenAtOnce p s →
    s.session p.session.toNat = some x → p.magic = 0x46454C54 → x.st = .open_ → packetUnauth p = false →
    (hmac x.key (packetBody p r.2.opcode)).take 16 = p.tag → p.version = 1 → s.queueOf x.id = [] → s.executing x.id = false →
    x.seen.find? (fun e => e.seq == p.seq.toNat) = some e →
    (e.tag4 = p.tag.take 4 → r.2.long = false →
      exec (r.1 p) s = .next ((s.heard x p).reply p r.2.opcode (some x.key) e.status e.reply))
    ∧ (e.tag4 ≠ p.tag.take 4 → exec (r.1 p) s = .next ((s.heard x p).dropReplay p.port))

/-- R305: the reply of a row that can exceed 32 bytes is computed again for a repeat; so such a row changes no state, but for a read of
memory, which counts the errors that it meets, and ATTEST, whose session keeps the report that it repeats. -/
def Obligations.LongReadsChangeNothing : Prop :=
  ∀ d ∈ [listSpec, jobStatusSpec, ringStatusSpec, regionReadSpec, counterReadSpec, logReadSpec, inputReadSpec, telemetrySpec,
      faultLogSpec, cfgReadSpec, healthReadSpec, identitySpec],
    d.long = true ∧ ∀ (x : Session) (p : Packet) (s : State), (d.run x p s).state = s

/-- What follows an answer that does not wait and does not freeze the session: one reply packet enters egress of the port that the
request came through, from the module's own UDP port to its address, protected where the port is, with its session, sequence and opcode, the
status and the count of the ac; the sequence is recorded, so that the window answers its repeat (R295, R296, R298, R305). -/
def Obligations.ReplyIsSent : Prop :=
  ∀ (op : Nat) (x : Session) (p : Packet) (r : Reply) (y : Session), r.waits = false → freezes r.status = false →
    r.state.session x.id = some y → y.id = x.id →
    let t := finish op x p r
    (∃ o : OutPacket, t.eth[p.port].egress = r.state.eth[p.port].egress ++ [o] ∧ o.dst = p.src ∧ o.session = p.session.toNat
      ∧ o.seq = p.seq.toNat ∧ o.opcode = op ∧ o.status = r.status ∧ o.params = r.params ∧ o.wall = r.state.wall.toNat ∧ o.flags = 1
      ∧ o.sport = r.state.cfg.udpPort.toNat ∧ o.sealed = r.state.macsecOn p.port)
    ∧ (∃ z, t.session x.id = some z ∧ z.high = max y.high p.seq.toNat ∧ z.st = y.st ∧ z.mask = y.mask ∧ z.key = y.key
        ∧ z.window p.seq.toNat (p.tag.take 4) = .again ⟨p.seq.toNat, p.tag.take 4, r.status, r.params.take 32⟩)
    ∧ t.job = r.state.job ∧ t.hbm = r.state.hbm ∧ t.cores = r.state.cores ∧ t.flash = r.state.flash ∧ t.cfg = r.state.cfg
    ∧ t.faults = r.state.faults ∧ t.log = r.state.log

/-- R308, R317: an answer whose status freezes sets its session to FROZEN and logs one record in the session fault ring. An opcode of
no row draws BAD_OPCODE and freezes its session (R308, R312, R317). -/
def Obligations.FreezingStatuses : Prop :=
  (∀ (op : Nat) (x : Session) (p : Packet) (r : Reply) (y : Session), freezes r.status = true → r.state.session x.id = some y →
     y.id = x.id →
     let t := finish op x p r
     (∀ z, t.session x.id = some z → z.st = .frozen)
     ∧ t.faults.sessionFaults = r.state.faults.sessionFaults + 1 ∧ t.faults.job = r.state.faults.job) ∧
  (∀ (op : U16) (x : Session) (p : Packet) (s : State), Accepted (badOpcodeSpec op.toNat) x p s →
     knownOpcodes.contains op.toNat = false → op ≠ 0x510 →
     ∃ t, exec (.badOpcode p op) s = .next t ∧ (∀ z, t.session x.id = some z → z.st = .frozen)
       ∧ t.faults.sessionFaults = s.faults.sessionFaults + 1 ∧ t.job = s.job ∧ t.hbm = s.hbm ∧ t.cores = s.cores)

/-- The events of ports and sessions that run no command: a packet that finds ingress full and one that fails its checks are counted on
their port, an idle session and a pending session that was not authenticated close, a waiting notice that finds room is sent (R89, R90,
R296, R303, R307, R309, R329). -/
def Obligations.SessionEvents : Prop :=
  ∀ s : State,
    (∀ port : Fin 2, s.firmwareServes = true → s.eth[port].link ≠ 0 → ∃ t, exec (.ingressDrop port) s = .next t
      ∧ t.eth[port] = { s.eth[port] with ingressDrop := satInc s.eth[port].ingressDrop }
      ∧ (∀ q : Fin 2, q ≠ port → t.eth[q] = s.eth[q]) ∧ t.fcp = s.fcp ∧ t.job = s.job)
    ∧ (∀ p : Packet, s.intake p ≠ .ignored → ∃ t, exec (.badTag p) s = .next t
        ∧ t.eth[p.port] = { s.eth[p.port] with badTag := satInc s.eth[p.port].badTag } ∧ t.fcp = s.fcp ∧ t.job = s.job)
    ∧ (∀ (id : U16) (x : Session), s.session id.toNat = some x → s.firmwareServes = true → s.cfg.sessionIdle ≠ 0 → x.st ≠ .pending →
        ∃ t, exec (.sessionIdle id) s = .next t ∧ t.session id.toNat = none)
    ∧ (∀ (id : U16) (x : Session), s.session id.toNat = some x → s.firmwareServes = true → x.st = .pending →
        ∃ t, exec (.pendingSessionExpiry id) s = .next t ∧ t.session id.toNat = none)
    ∧ (∀ (r : EventRec) (l : List EventRec), s.log.waiting = r :: l →
        (s.roomFor r = true → exec .notice s = .next (({ s with log := { s.log with waiting := l } } : State).notify r))
        ∧ (s.roomFor r = false → exec .notice s = .next s))

/-! ### The Feltodo Command Protocol: what each command does -/

/-- A session opens pending with the lowest free id (the choice of the id is the model's, log 50), a key derived of both nonces and
SEAT, and bit 9 of its mask set; the reply holds its id and the device nonce (R302, R303, R304). R304: a pending session whose host
proof and tag are right opens, and the reply is the device proof under the session's key; a wrong host proof closes it with
AUTH_FAILED. -/
def Obligations.SessionsOpen : Prop :=
  (∀ (p : Packet) (s : State) (key : Bytes) (id : Nat), AcceptedZero openSpec (fun s => !s.sec.trngFail) p s →
     let seat := beAt p.params 0 1
     let dn := padTo 32 (Config.trngBytes s.free)
     let hn := slice 8 32 p.params
     allSeats.contains seat = true → s.claimed = true → s.seatKey seat = some key → s.freeSession = some id →
     (s.fcp.sessions.filter (fun x => x.st == .pending)).length < 64 → 40 ≤ s.roomOf p.port →
     ∃ x : Session, x.id = id ∧ x.seat = seat ∧ x.st = .pending ∧ x.mask = 0x200 ∧ x.key = sessionKey key hn dn seat id
       ∧ exec (.sessionOpen p) s = .next (State.reply p 0x101 none 0 (be16 id ++ List.replicate 6 0 ++ dn)
           { s with free := s.free + 1, fcp := { s.fcp with sessions := insertSession x s.fcp.sessions } })) ∧
  (∀ (p : Packet) (s : State) (x : Session) (key : Bytes), s.session p.session.toNat = some x → x.st = .pending →
     TakenAtOnce p s → p.magic = 0x46454C54 → s.seatKey x.seat = some key →
     let proof := hostProof key x.hostNonce x.devNonce x.seat
     let device := deviceProof key x.hostNonce x.devNonce x.seat
     (p.params = proof → (hmac x.key (packetBody p 0x0102)).take 16 = p.tag → packetUnauth p = false → p.version = 1 →
       packetHeaderOk p = true →
       ∃ t, exec (.sessionAuth p) s = .next (State.reply p 0x102 (some x.key) 0 device t)
         ∧ t = s.modSession x.id (fun y => { y with
             st := .open_, port := p.port, src := p.src, high := 0, seen := [⟨p.seq.toNat, p.tag.take 4, 0, device⟩] }))
     ∧ (p.params ≠ proof → exec (.sessionAuth p) s = .next ((s.closeSession x.id).reply p 0x0102 none 0x103 [])))

/-- NOP, SESSION_CLOSE of the own session, SESSION_THAW, SUBSCRIBE and SESSION_LIST: the answers that R301, R308, R309 and R312 give. -/
def Obligations.SessionCommands : Prop :=
  ∀ (x : Session) (p : Packet) (s : State),
    let h := s.heard x p
    (Accepted nopSpec x p s → exec (.fcpNop p) s = .next (finish 0x100 x p (Reply.ok [] h)))
    ∧ (Accepted closeSpec x p s → (beAt p.params 0 2 = 0xFFFF ∨ beAt p.params 0 2 = x.id) →
        exec (.sessionClose p) s = .next (finish 0x103 x p (Reply.ok [] (h.closeSession x.id))))
    ∧ (∀ y, Accepted thawSpec x p s → h.session (beAt p.params 0 2) = some y → y.st = .frozen →
        exec (.sessionThaw p) s = .next (finish 0x104 x p (Reply.ok []
          (h.modSession (beAt p.params 0 2) (fun y => { y with st := .open_ })))))
    ∧ (Accepted subscribeSpec x p s → 8 ≤ s.roomOf p.port →
        let m : U64 := BitVec.ofNat 64 (beAt p.params 0 8) ||| 0x200
        exec (.subscribe p) s = .next (finish 0x105 x p (Reply.ok (be64 m.toNat) (h.modSession x.id (fun y => { y with mask := m })))))
    ∧ (Accepted listSpec x p s →
        let l := (h.fcp.sessions.filter (fun y => decide (beAt p.params 0 2 ≤ y.id))).take (min 256 (s.roomOf p.port / 8))
        let b := l.flatMap (fun y => be16 y.id ++ u8 y.seat ++ u8 y.st.code ++ be32 y.high)
        exec (.sessionList p) s = .next (finish 0x106 x p (Reply.ok b h)))

/-- R310, R311: SET_OPERATOR_KEY claims an unclaimed module while CLAIM_EN is high; SET_SEAT_KEY stores the unwrapped key and closes the
seat's other sessions; UNCLAIM in EMPTY erases the seat keys and closes every session; MACSEC_KEY stores a key in the key store. -/
def Obligations.KeyCommands : Prop :=
  ∀ (x : Session) (p : Packet) (s : State),
    let h := s.heard x p
    (let c := { s with pins := { s.pins with claimEn := true } };
      AcceptedZero operatorKeySpec (fun _ => true) p c → c.claimed = false →
      exec (.setOperatorKey p true) s = .next ((c.setSeatKey 1 p.params).reply p 0x107 none 0 []))
    ∧ (let c := { s with pins := { s.pins with claimEn := false } };
      AcceptedZero operatorKeySpec (fun _ => true) p c → c.claimed = false →
      exec (.setOperatorKey p false) s = .next (c.reply p 0x107 none 0x106 []))
    ∧ (Accepted seatKeySpec x p s → allSeats.contains (beAt p.params 0 1) = true →
        exec (.setSeatKey p) s = .next (finish 0x108 x p (Reply.ok []
          ((h.setSeatKey (beAt p.params 0 1) (unwrapKey x p (slice 8 32 p.params))).closeSessions
            (fun y => y.seat == beAt p.params 0 1 && y.id != x.id)))))
    ∧ (Accepted unclaimSpec x p s → beAt p.params 0 4 = 0x554E434C → s.job.st = .empty →
        exec (.unclaim p) s = .next (finish 0x109 x p (Reply.ok []
          ((h.writeKeys (fun k : KeyStore => { k with seats := [] })).closeSessions (fun _ => true)))))
    ∧ (Accepted macsecSpec x p s → beAt p.params 0 1 ≤ 1 → beAt p.params 1 1 ≤ 3 → beAt p.params 2 1 ≤ 1 →
        let k : Macsec := ⟨beAt p.params 0 1, beAt p.params 1 1, beAt p.params 2 1, beAt p.params 4 4, beAt p.params 8 8,
          slice 16 12 p.params, unwrapKey x p (slice 32 32 p.params)⟩
        exec (.macsecKey p) s = .next (finish 0x704 x p (Reply.ok []
          (h.writeKeys (fun st : KeyStore => { st with macsec := addMacsec k st.macsec })))))

/-- JOB_STATUS, LOAD_IMAGE, START_AT_BARRIER, HALT_AT_BARRIER, UNLOAD and SET_OP_POINT where the job's state admits them (R81, R82, R87,
R284, R312, R340). -/
def Obligations.JobCommands : Prop :=
  ∀ (x : Session) (p : Packet) (s : State),
    let h := s.heard x p
    (Accepted jobStatusSpec x p s → 40 ≤ s.roomOf p.port → exec (.jobStatus p) s = .next (finish 0x200 x p (Reply.ok
      (be64 h.jobStateReg ++ be64 s.sched.toNat ++ be64 s.wall.toNat ++ be64 s.job.barrierSeq.toNat ++ be64 s.job.stepNum.toNat) h)))
    ∧ (Accepted loadSpec x p s → s.job.st = .empty → s.boot.stage = 9 → s.sec.fwPending = false →
        beAt p.params 0 8 + beAt p.params 8 8 ≤ h.staging.2 →
        let b := h.hbm.mem.readBytes (h.staging.1 + beAt p.params 0 8) (beAt p.params 8 8)
        let k := loadStatus h b
        exec (.loadImage p) s =
          .next (finish 0x201 x p (Reply.refuse k (if k = 0 then installImage b h else h.setJobState .empty k))))
    ∧ (Accepted startSpec x p s → h.startStatus (beAt p.params 0 1) = 0 →
        exec (.startAtBarrier p) s = .next (finish 0x202 x p (Reply.ok [] (h.startJob (beAt p.params 0 1)))))
    ∧ (Accepted haltSpec x p s → 8 ≤ s.roomOf p.port → (s.job.st = .running ∨ s.job.st = .hold ∨ s.job.st = .soak) →
        (beAt p.params 0 8 = 0 ∨ h.releasedSeq < beAt p.params 0 8) →
        exec (.haltAtBarrier p) s = .next (finish 0x203 x p
          (Reply.ok (be64 (h.haltJob (beAt p.params 0 8)).1) (h.haltJob (beAt p.params 0 8)).2)))
    ∧ (Accepted unloadSpec x p s → (s.job.st = .loaded ∨ s.job.st = .halted ∨ s.job.st = .faultHeld) →
        exec (.unload p) s = .next (finish 0x204 x p (Reply.ok [] h.unloadJob)))
    ∧ (Accepted pointSpec x p s → 8 ≤ s.roomOf p.port → h.pointStatus (beAt p.params 0 1) (beAt p.params 8 8) = 0 → s.job.st ≠ .empty →
        exec (.setOpPoint p) s = .next (finish 0x205 x p (Reply.ok
          (be64 (if beAt p.params 8 8 = 0 then h.nextSeq else beAt p.params 8 8)) (h.pointLater (beAt p.params 0 1) (beAt p.params 8 8)))))

/-- What an accepted load leaves: state LOADED with the image, its regions, no instruction under way, and a
counter that the table leaves unused reads 0 (R73, R82, R87). What UNLOAD leaves and
keeps: state EMPTY with no image, no region, no counter owned and nothing under way; the bytes of every memory keep their values (R82,
R85). R81, R82, R285: an accepted start runs as a restart barrier, and a module halts at its barrier in
state HALTED with nothing of its halt, stop or start left. -/
def Obligations.JobStates : Prop :=
  (∀ (b : Bytes) (s : State), let t := installImage b s
     t.job.st = .loaded ∧ t.image = some (imageOf b) ∧ t.regions = imageRegions b ∧ t.inflight = [] ∧ t.running = [] ∧ t.stopped = []
     ∧ t.job.barrierSeq = 0 ∧ t.job.stepNum = 0 ∧ t.ckptMaster = false ∧ t.testMaster = false
     ∧ (∀ n, (∀ e ∈ imageCounters b, e.counter = n → e.owner = 0) → t.counter n = 0)) ∧
  (∀ s : State, let t := s.unloadJob
     t.job.st = .empty ∧ t.image = none ∧ t.regions = [] ∧ t.inflight = [] ∧ t.running = [] ∧ t.counters.owners = [] ∧ t.job.shadows = []
     ∧ t.hbm.mem = s.hbm.mem ∧ (∀ c, (t.core c).mem = (s.core c).mem) ∧ t.flash = s.flash) ∧
  (∀ (s : State) (mode : Nat) (how : Resume),
     (s.haltAt how).job.st = .halted ∧ (s.haltAt how).job.halt = none ∧ (s.haltAt how).job.resume = how
     ∧ (s.haltAt how).links.stopAt = none ∧ (s.haltAt how).job.starting = false ∧ (s.haltAt how).sched = s.sched
     ∧ (s.job.suspectStop = false → s.job.halt = none → s.job.st = .loaded → s.job.restored = false → mode ≤ 1 →
         let t := s.startJob mode
         t.job.st = .running ∧ t.job.starting = true ∧ t.sched = 0 ∧ t.job.barrierSeq = 0 ∧ t.scheduleRuns = false
         ∧ (mode = 1 → t.job.replay = true) ∧ (∀ c, (t.core c).mem = (s.core c).mem) ∧ t.hbm = s.hbm))

/-! ### Memory, rings, checkpoints, logs, registers by packet -/

/-- MEM_READ and MEM_WRITE of an extent that the session may use, REGION_READ, COUNTER_READ and the ring commands: the bytes read, with
the errors of their words corrected and counted; the bytes written, at once or, of a slice while a schedule runs, in the order of the ac's
accesses, with the check entries of whole tiles; PUBLISHED and its counter one more (R73, R230, R232, R242, R248, R250, R312, R321 to R323, R328). -/
def Obligations.MemoryCommands : Prop :=
  ∀ (x : Session) (p : Packet) (s : State),
    let h := s.heard x p
    let region := beAt p.params 0 2
    let view := beAt p.params 2 1
    let off := beAt p.params 8 8
    (∀ pl : HostPlace, Accepted memReadSpec x p s → memParamsOk region view off (beAt p.params 16 4) = true →
      beAt p.params 16 4 ≤ s.roomOf p.port → h.hostPlace x p 0x400 region view 0 off (beAt p.params 16 4) = .ok pl →
      let u := (h.readBanks pl pl.addr (beAt p.params 16 4)).correct pl.hbm
        (eccGood (h.marksAt pl).1 (h.marksAt pl).2 pl.addr (beAt p.params 16 4))
      (eccScan (h.marksAt pl).1 (h.marksAt pl).2 pl.addr (beAt p.params 16 4)).1 = none →
      u.badTile pl off (beAt p.params 16 4) = none →
      exec (.memRead p) s = .next (finish 0x400 x p (Reply.ok ((u.memAt pl).readBytes pl.addr (beAt p.params 16 4)) u))
      ∧ u.cores = s.cores ∧ u.hbm.mem = s.hbm.mem ∧ u.job = s.job ∧ u.counters = s.counters)
    ∧ (∀ pl : HostPlace, Accepted memWriteSpec x p s → memParamsOk region view off (p.params.drop 16).length = true →
        h.hostPlace x p 0x401 region view 1 off (p.params.drop 16).length = .ok pl →
        exec (.memWrite p) s = .next (finish 0x401 x p (Reply.ok [] (h.hostWrite pl off (p.params.drop 16)))))
    ∧ (∀ (pl : HostPlace) (data : Bytes),
        ((pl.region = none ∨ ∀ i, pl.region = some i → (h.region i).check = false) → h.hostWrite pl off data = h.writeAt pl pl.addr data)
        ∧ (pl.hbm = true → (∀ a, (a < pl.addr ∨ pl.addr + data.length ≤ a) →
              (h.writeAt pl pl.addr data).hbm.mem.read a = s.hbm.mem.read a)
            ∧ (s.Canonical → ∀ (k : Nat) (hk : k < data.length), (h.writeAt pl pl.addr data).hbm.mem.read (pl.addr + k) = data[k])
            ∧ (h.writeAt pl pl.addr data).cores = s.cores)
        ∧ (pl.hbm = false → s.scheduleRuns = false → (∀ (c : Fin 8) (a : Nat),
              (c ≠ pl.core ∨ a < (spTarget .plain pl.addr).2 ∨ (spTarget .plain pl.addr).2 + data.length ≤ a) →
                ((h.writeAt pl pl.addr data).core c).mem.read a = (s.core c).mem.read a)
            ∧ (s.Canonical → spWindow pl.addr = some (.plain, pl.addr) → ∀ (k : Nat) (hk : k < data.length),
                ((h.writeAt pl pl.addr data).core pl.core).mem.read (pl.addr + k) = data[k])
            ∧ (h.writeAt pl pl.addr data).hbm = s.hbm)
        ∧ (pl.hbm = false → s.scheduleRuns = true → (h.writeAt pl pl.addr data).cores = s.cores
            ∧ (h.writeAt pl pl.addr data).inflight
                = s.inflight ++ [⟨s.now, true, hostOrigin pl, .sp pl.core pl.addr .plain 9 data⟩]))
    ∧ (Accepted regionReadSpec x p s → beAt p.params 2 2 ≤ 256 → beAt p.params 0 2 + beAt p.params 2 2 ≤ 4096 →
        32 * beAt p.params 2 2 ≤ s.roomOf p.port →
        exec (.regionRead p) s = .next (finish 0x402 x p (Reply.ok
          ((List.range (beAt p.params 2 2)).flatMap (fun k => h.entryOf (beAt p.params 0 2 + k))) h)))
    ∧ (Accepted counterReadSpec x p s → beAt p.params 2 2 ≤ 1024 → beAt p.params 0 2 + beAt p.params 2 2 ≤ 65536 →
        4 * beAt p.params 2 2 ≤ s.roomOf p.port →
        exec (.counterRead p) s = .next (finish 0x403 x p (Reply.ok
          ((List.range (beAt p.params 2 2)).flatMap (fun k => be32 (s.counter (beAt p.params 0 2 + k)))) h)))
    ∧ (∀ t : Take, h.ringTake (beAt p.params 0 1) = some t →
        (Accepted ringWriteSpec x p s → (h.region t.region).owner = x.seat → beAt p.params 4 4 % 64 = 0 →
          beAt p.params 8 8 < (h.ring (beAt p.params 0 1)).window + t.slots →
          (h.ring (beAt p.params 0 1)).published ≤ beAt p.params 8 8 →
          beAt p.params 4 4 + (p.params.drop 16).length ≤ t.entryBytes →
          let o := t.slotOff (beAt p.params 8 8) + beAt p.params 4 4
          let pl := h.ringPlace t o
          exec (.ringWrite p) s = .next (finish 0x300 x p (Reply.ok []
            (h.hostWrite pl o (p.params.drop 16)))))
        ∧ (Accepted ringPublishSpec x p s → 8 ≤ s.roomOf p.port → (h.region t.region).owner = x.seat →
            beAt p.params 8 8 = (h.ring (beAt p.params 0 1)).published → s.job.replay = false →
            let pl := h.ringPlace t (t.slotOff (beAt p.params 8 8))
            let v := (h.readBanks pl pl.addr t.entryBytes).correct pl.hbm
              (eccGood (h.marksAt pl).1 (h.marksAt pl).2 pl.addr t.entryBytes)
            (eccScan (h.marksAt pl).1 (h.marksAt pl).2 pl.addr t.entryBytes).1 = none →
            entryOk t (beAt p.params 8 8) ((v.memAt pl).readBytes pl.addr t.entryBytes) = true →
            ∃ u, exec (.ringPublish p) s = .next (finish 0x301 x p (Reply.ok (be64 (u.ring (beAt p.params 0 1)).published) u))
              ∧ (u.ring (beAt p.params 0 1)).published = (h.ring (beAt p.params 0 1)).published + 1
              ∧ u.counter t.counter = (s.counter t.counter + 1) % 2 ^ 32 ∧ u.hbm.mem = s.hbm.mem ∧ u.cores = s.cores)
        ∧ (Accepted ringStatusSpec x p s → 34 ≤ s.roomOf p.port → [(h.region t.region).owner, 2, 4].contains x.seat = true →
            let r := h.ring (beAt p.params 0 1)
            exec (.ringStatus p) s = .next (finish 0x302 x p (Reply.ok (be16 t.region ++ be16 t.slots ++ be32 t.entryBytes
              ++ be16 t.counter ++ be64 r.published ++ be64 r.taken ++ be64 r.window) h))))
    ∧ (Accepted replayLoadSpec x p s → 2 ≤ s.roomOf p.port → (loadReplay 0 h (chunks 32 p.params)).2.1 = false →
        exec (.replayLoad p) s = .next (finish 0x303 x p (Reply.ok (be16 (loadReplay 0 h (chunks 32 p.params)).1)
          (loadReplay 0 h (chunks 32 p.params)).2.2)))

/-- Checkpoint requests, acknowledgements, status, chunks and restores where the stream's state admits them (R312, R316, R369, R370,
R375, R376). -/
def Obligations.CheckpointCommands : Prop :=
  ∀ (x : Session) (p : Packet) (s : State),
    let h := s.heard x p
    (Accepted ckptRequestSpec x p s → 8 ≤ s.roomOf p.port → requestStatus (beAt p.params 0 8) (beAt p.params 8 1) h = 0 →
      h.streamsNow (beAt p.params 0 8) = false →
      let u : State := { h with ckpt := { h.ckpt with buddy := beAt p.params 8 1 == 1, session := x.id, st := 1 } }
      let n := u.commitSeq (beAt p.params 0 8)
      exec (.ckptRequest p) s = .next (finish 0x500 x p (Reply.ok (be64 n) { u with ckpt := { u.ckpt with target := n } })))
    ∧ (Accepted ckptAckSpec x p s → s.ckpt.st = 2 → s.ckpt.stream ≠ 0 → s.ckpt.buddy = false → s.ckpt.session = x.id →
        beAt p.params 0 4 = s.ckpt.stream → beAt p.params 8 8 ≤ s.ckpt.read →
        max s.ckpt.acked (beAt p.params 8 8) < s.ckpt.data.length →
        exec (.ckptAck p) s = .next (finish 0x501 x p (Reply.ok [] { h with ckpt := { h.ckpt with
          acked := max s.ckpt.acked (beAt p.params 8 8), sent := max s.ckpt.sent (beAt p.params 8 8) } })))
    ∧ (Accepted ckptStatusSpec x p s → 29 ≤ s.roomOf p.port → exec (.ckptStatus p) s = .next (finish 0x502 x p (Reply.ok
        (u8 s.ckpt.st ++ be32 s.ckpt.stream ++ be64 s.ckpt.step ++ be64 s.ckpt.sent ++ be64 s.ckpt.acked) h)))
    ∧ (s.session s.ckpt.session = some x → s.firmwareServes = true → s.ckpt.st = 2 → s.ckpt.buddy = false → s.ckptMaster = false →
        s.ckpt.failAt = none → s.ckpt.sent < s.ckpt.data.length →
        s.ckpt.sent + s.chunkSize x.port ≤ s.ckpt.acked + ckptWindow →
        s.eth[x.port].occupancy + 64 + s.chunkSize x.port ≤ egressSize → s.fetchedPart (s.chunkSize x.port) = true →
        let part := (s.ckpt.data.drop s.ckpt.sent).take (s.chunkSize x.port)
        let u : State := { s with ckpt := { s.ckpt with
          sent := s.ckpt.sent + part.length, read := max s.ckpt.read (s.ckpt.sent + part.length),
          fetched := max s.ckpt.fetched (s.ckpt.sent + part.length) } }
        exec .ckptChunk s = .next (((u.send ((chunkPacket x s.ckpt.stream s.ckpt.sent s.wall.toNat part).sign (some x.key))).modSession
          x.id (fun y => { y with chunks := y.chunks + 1 })).releaseCkpt))
    ∧ (s.ckpt.st = 2 → s.ckpt.buddy = false →
        exec .ckptResend s = .next { s with ckpt := { s.ckpt with sent := s.ckpt.acked } })
    ∧ (Accepted restoreBeginSpec x p s → 4 ≤ s.roomOf p.port → s.job.st = .loaded →
        exec (.restoreBegin p) s = .next (finish 0x503 x p (Reply.ok (be32 (s.ckpt.stream + 1)) { h with ckpt := { h.ckpt with
          st := 5, stream := s.ckpt.stream + 1, step := 0, restoreLen := beAt p.params 0 8,
          restoreStream := some (s.ckpt.stream + 1), restoreBuf := [], data := [], sent := 0, acked := 0, read := 0 } })))
    ∧ (Accepted restoreDataSpec x p s → s.restoring (beAt p.params 0 4) = true → beAt p.params 8 8 % 64 = 0 →
        beAt p.params 8 8 + (p.params.drop 16).length ≤ roundUp s.ckpt.restoreLen 64 →
        exec (.restoreData p) s = .next (finish 0x504 x p (Reply.ok [] { h with ckpt := { h.ckpt with
          restoreBuf := s.ckpt.restoreBuf.writeBytes (beAt p.params 8 8) (p.params.drop 16) } })))
    ∧ (∀ (im : Image) (r : RestoreStream), Accepted restoreEndSpec x p s → 8 ≤ s.roomOf p.port → s.job.st = .loaded → s.ckpt.st = 5 →
        s.restoring (beAt p.params 0 4) = true → s.image = some im →
        let k := restoreStatus im h.heldTensors h.mayRestore (s.ckpt.restoreBuf.readBytes 0 s.ckpt.restoreLen)
        let u := h.restore im (k.2.getD ⟨[], []⟩)
        let v : State := { h with job := { h.job with restored := false },
                                  ckpt := { h.ckpt with st := 6, restoreStream := none, restoreBuf := [] } }
        exec (.restoreEnd p) s =
          .next (finish 0x505 x p (if k.1 = 0 then Reply.ok (be64 u.ckpt.step) u else Reply.refuse k.1 (v.spoilShelf false)))
        ∧ (h.restore im r).ckpt.st = 3 ∧ (h.restore im r).ckpt.step = leAt (padTo 128 (r.body 1)) 8 8)

/-- LOG_READ, LOG_ACK, INPUT_LOG_READ, INPUT_LOG_ACK, TELEMETRY_READ, FAULT_LOG_READ and HEALTH_READ inside their logs and blocks: as many
records as the port's MTU allows (R250, R300, R312, R320, R326, R351, R366). -/
def Obligations.LogCommands : Prop :=
  ∀ (x : Session) (p : Packet) (s : State),
    let h := s.heard x p
    (∀ l, Accepted logReadSpec x p s → beAt p.params 8 2 ≤ 128 →
      logFrom s.log.events s.log.nextSeq (beAt p.params 0 8) (beAt p.params 8 2) = some l →
      exec (.logRead p) s = .next (finish 0x600 x p (Reply.ok ((l.take (s.roomOf p.port / 64)).flatMap EventRec.bytes) h)))
    ∧ (Accepted logAckSpec x p s → beAt p.params 0 8 < s.log.nextSeq →
        exec (.logAck p) s = .next (finish 0x601 x p (Reply.ok []
          ({ h with log := { h.log with acked := max s.log.acked (beAt p.params 0 8 + 1) } } : State).eventLow)))
    ∧ (∀ l, Accepted inputReadSpec x p s → beAt p.params 8 2 ≤ 170 →
        logFrom s.log.input s.log.inputNext (beAt p.params 0 8) (beAt p.params 8 2) = some l →
        (l.take (s.roomOf p.port / 48)).flatten.length ≤ s.roomOf p.port →
        exec (.inputLogRead p) s = .next (finish 0x602 x p (Reply.ok (l.take (s.roomOf p.port / 48)).flatten h)))
    ∧ (Accepted inputAckSpec x p s → beAt p.params 0 8 < s.log.inputNext →
        exec (.inputLogAck p) s = .next (finish 0x603 x p (Reply.ok []
          ({ h with log := { h.log with inputAcked := max s.log.inputAcked (beAt p.params 0 8 + 1) } } : State).inputLow)))
    ∧ (∀ b, Accepted telemetrySpec x p s → h.telemetry (beAt p.params 0 2) = some b → b.length ≤ s.roomOf p.port →
        exec (.telemetryRead p) s = .next (finish 0x604 x p (Reply.ok b h)))
    ∧ (Accepted faultLogSpec x p s → beAt p.params 0 1 ≤ 1 →
        let l := if beAt p.params 0 1 = 0 then s.faults.job else s.faults.session
        let b := ((l.drop (beAt p.params 1 1)).take (s.roomOf p.port / 64)).flatMap FaultRec.bytes
        exec (.faultLogRead p) s = .next (finish 0x605 x p (Reply.ok b h)))
    ∧ (∀ b, Accepted healthReadSpec x p s → partOf h.healthBytes (beAt p.params 0 2) = some b → b.length ≤ s.roomOf p.port →
        exec (.healthRead p) s = .next (finish 0x800 x p (Reply.ok b h)))

/-- CFG_READ of a register that exists, an accepted CFG_WRITE as each of its rows executes it, CFG_SAVE and SET_TIME (R84 to R86, R297,
R314, R315, R337). A write of a barrier-class field while a job is loaded waits in the shadow; any other takes effect at once. -/
def Obligations.ConfigCommands : Prop :=
  ∀ (x : Session) (p : Packet) (s : State),
    let h := s.heard x p
    (∀ n inst v, Accepted cfgReadSpec x p s → fieldOf (beAt p.params 0 4) = some (n, inst) → h.regValue n inst = some v →
      (h.readReg n inst v).length ≤ s.roomOf p.port →
      exec (.cfgRead p) s = .next (finish 0x700 x p (Reply.ok (h.readReg n inst v) h)))
    ∧ (∀ n inst, Accepted cfgWriteSpec x p s → fieldOf (beAt p.params 0 4) = some (n, inst) →
        let w : CfgOp := ⟨n, inst, beAt p.params 8 8, beAt p.params 16 8, beAt p.params 24 8⟩
        h.writeStatus x.seat w = 0 →
        (∀ cmd ∈ [Instr.cfgWrite, .rootSrcWrite, .logClear, .declare, .policyClippedClear],
          exec (cmd p) s = .next (finish 0x701 x p (Reply.ok [] (h.writeCfg w))))
        ∧ (w.touches .barrier = true → s.job.st ≠ .empty → w.mask &&& writableMask n ≠ 0 →
            h.writeCfg w = h.addShadow ⟨fieldCode n inst, BitVec.ofNat 64 w.value, BitVec.ofNat 64 (w.mask &&& writableMask n), w.seq,
              true⟩)
        ∧ (w.touches .barrier = false → w.rootSource = false → w.mask &&& writableMask n ≠ 0 →
            h.writeCfg w = h.setReg n inst (h.after w) (w.value &&& (w.mask &&& writableMask n))))
    ∧ (Accepted cfgSaveSpec x p s → exec (.cfgSave p) s = .next (finish 0x702 x p (Reply.ok []
        { h with flash := { h.flash with saved := some ⟨s.cfg.netCfg, s.cfg.ipv6Prefix, BitVec.ofNat 64 h.fcpCfg⟩ } })))
    ∧ (Accepted setTimeSpec x p s → beAt p.params 8 4 < 1000000000 → s.timeLocked = false →
        exec (.setTime p) s = .next (finish 0x703 x p (Reply.ok [] { h with fcp := { h.fcp with
          time := some ⟨beAt p.params 0 8 * 1000000000 + beAt p.params 8 4, s.wall.toNat, false⟩ } })))
    ∧ (Accepted setTimeSpec x p s → beAt p.params 8 4 < 1000000000 → s.timeLocked = true →
        exec (.setTime p) s = .next (finish 0x703 x p (Reply.ok [] h)))

/-- TEST_RUN in EMPTY, ATTEST and IDENTITY_READ of a part that exists, the firmware update, recovery, and the opening of the spy-hole
port (R310, R313, R362, R388, R390, R391, R398, R399, R401). -/
def Obligations.ServiceCommands : Prop :=
  ∀ (x : Session) (p : Packet) (s : State),
    let h := s.heard x p
    (∀ failed, Accepted (testRunSpec failed) x p s → s.job.st = .empty →
      exec (.testRun p failed) s = .next (finish 0x801 x p (Reply.ok [] (h.extendedPass 2 failed))))
    ∧ (∀ (claimEn : Bool) (b : Bytes), p.session ≠ 0 →
        let c : State := { s with pins := { s.pins with claimEn := claimEn } }
        (Accepted attestSpec x p c → b.length ≤ c.roomOf p.port →
          let a := (c.heard x p).reportFor x (slice 0 32 p.params)
          partOf a.1 (beAt p.params 32 2) = some b →
          exec (.attest p claimEn) s = .next (finish 0x900 x p (Reply.ok b a.2)))
        ∧ (Accepted identitySpec x p c → b.length ≤ c.roomOf p.port → partOf State.certificate (beAt p.params 0 2) = some b →
            exec (.identityRead p claimEn) s = .next (finish 0x901 x p (Reply.ok b (c.heard x p)))))
    ∧ (Accepted fwBeginSpec x p s → s.job.st = .empty → s.boot.rewriting = false → beAt p.params 0 8 % 64 = 0 →
        beAt p.params 0 8 ≤ fwMaxLength →
        exec (.fwBegin p) s = .next (finish 0x902 x p (Reply.ok []
          { h with sec := { h.sec with fwPending := true, fwLength := beAt p.params 0 8 } })))
    ∧ (Accepted fwDataSpec x p s → s.sec.fwPending = true → beAt p.params 0 8 % 64 = 0 →
        beAt p.params 0 8 + (p.params.drop 8).length ≤ s.sec.fwLength →
        exec (.fwData p) s = .next (finish 0x903 x p (Reply.ok []
          (h.apply (.hbm (h.staging.1 + beAt p.params 0 8) (p.params.drop 8))))))
    ∧ (∀ ok, Accepted (fwCommitSpec ok) x p s → s.sec.fwPending = true →
        let image := s.hbm.mem.readBytes h.staging.1 s.sec.fwLength
        let u : State := { h with sec := { h.sec with fwPending := false } }
        let k := fwStatus (fwCheck s.fuses.svn image)
        exec (.fwCommit p ok) s = .next (finish 0x904 x p (if k ≠ 0 then Reply.refuse k u
          else if ok then Reply.ok [] { u with flash := { u.flash with firmware := image } }
          else Reply.refuse 0x903 { u with free := s.free + 1, flash := { u.flash with
            firmware := (List.range image.length).map (Config.freeByte s.free) } })))
    ∧ (romIntake p s = true → p.magic = 0x46454C54 → p.session = 0 → packetUnauth p = true → p.version = 1 →
        p.tag = List.replicate 16 0 → exec (.recoveryLoad p) s = .next (s.recoveryBlock p))
    ∧ (∀ image, s.alive = true → s.boot.rewriting = true → s.boot.arrived = some image →
        exec .recoveryRewriteDone s = .next { s with
          flash := { s.flash with firmware := image }, boot := { s.boot with rewriting := false, sram := [], sramGot := [] } })
    ∧ (let c : State := { s with pins := { s.pins with debugEn := true } };
        Accepted spyholeSpec x p c → beAt p.params 0 4 = 0x4F50454E → s.sec.spyholeOpen = false →
        exec (.openSpyhole p true) s = .next (finish 0xA00 x p (Reply.ok [] (c.heard x p).openPort))
        ∧ (c.heard x p).openPort.fuses.identityKill = true ∧ (c.heard x p).openPort.flash.keysA = none
        ∧ (c.heard x p).openPort.flash.keysB = none ∧ (c.heard x p).openPort.sec.spyholeOpen = true)

/-! ### Ethernet, clocks, power, heat, tests, start-up, test access -/

/-- What the Ethernet ports answer and count beside FCP: PAUSE frames are counted; a frame that MACsec does not pass is dropped and counted,
one of another VLAN and a fragment are dropped; an owned address is answered, an echo comes back, protected where the port is; the messages of
a slave clock draw its delay request, and its Delay_Resp gives the lock of that port and the mapping; links go up and down (R293, R294, R296,
R297, R329, R334). -/
def Obligations.EthernetRows : Prop :=
  ∀ (port : Fin 2) (s : State),
    let e := s.eth[port]
    let put := fun (f : EthState) => ({ s with eth := s.eth.set port f } : State)
    let say := fun (kind target dst : Nat) (data : Bytes) =>
      put { e with answers := e.answers ++ [⟨kind, target, dst, data, s.macsecOn port⟩] }
    (s.portServes port = true → exec (.pauseFrame port) s = .next (put { e with pauseRx := satInc e.pauseRx }))
    ∧ (∀ (f : Frame) (cmd : Instr), f.port = port → s.portServes port = true →
        ((∃ target src, cmd = .neighbourDiscovery f target src) ∨ (∃ target src, cmd = .arp f target src)
          ∨ (∃ v6 target src data, cmd = .echo f v6 target src data)
          ∨ (∃ m locked ns, cmd = .ptpMessage f m locked ns)) →
        (s.macsecOn port = true → f.prot ≠ .verified → exec cmd s = .next (put { e with badTag := satInc e.badTag }))
        ∧ (s.macsecOn port = false → f.prot ≠ .bare → exec cmd s = .next s)
        ∧ ((s.macsecOn port = true → f.prot = .verified) → ((f.vlan ≠ 0 ∧ f.vlan.toNat ≠ s.vlan port) ∨ f.fragmented = true) →
            exec cmd s = .next s))
    ∧ (∀ (f : Frame) (target : BitVec 128) (src : Nat) (data : Bytes) (v6 : Bool), f.port = port → s.portServes port = true →
        s.frameIn f = .packet →
        (s.ownsV6 port target.toNat = true → exec (.neighbourDiscovery f target src) s = .next (say 0 target.toNat src []))
        ∧ (s.ownsV6 port target.toNat = false → exec (.neighbourDiscovery f target src) s = .next s)
        ∧ ((if v6 then s.ownsV6 port target.toNat else s.ownsV4 port target.toNat) = true → exec (.echo f v6 target src data) s =
            .next (say (if v6 then 2 else 3) target.toNat src data)))
    ∧ (∀ (f : Frame) (target : U32) (src : Nat), f.port = port → s.portServes port = true → s.frameIn f = .packet →
        (s.ownsV4 port target.toNat = true → exec (.arp f target src) s = .next (say 1 target.toNat src []))
        ∧ (s.ownsV4 port target.toNat = false → exec (.arp f target src) s = .next s))
    ∧ (∀ (f : Frame) (domain : Byte) (locked : Bool) (ns : U64), f.port = port → s.firmwareServes = true → s.portServes port = true →
        s.frameIn f = .packet → s.ptpOn port = true → domain = s.cfg.ptpDomain →
        exec (.ptpMessage f ⟨.sync, domain⟩ locked ns) s = .next (put { e with
          ptpWaits := false, answers := e.answers ++ [⟨4, 0, 0, [], s.macsecOn port⟩] })
        ∧ exec (.ptpMessage f ⟨.syncTwoStep, domain⟩ locked ns) s = .next (put { e with ptpWaits := true })
        ∧ (e.ptpWaits = true → exec (.ptpMessage f ⟨.followUp, domain⟩ locked ns) s = .next (put { e with
            ptpWaits := false, answers := e.answers ++ [⟨4, 0, 0, [], s.macsecOn port⟩] }))
        ∧ (let t := put { e with ptpLocked := locked };
           exec (.ptpMessage f ⟨.delayResp, domain⟩ locked ns) s = .next (if locked then
             { t with fcp := { s.fcp with time := some ⟨ns.toNat, s.wall.toNat, true⟩ } } else t)))
    ∧ (s.linkAllowed port = true → exec (.ethLinkUp port) s = .next (put { e with link := 1 }))
    ∧ exec (.ethLinkDown port) s = .next (put { e with link := 0, ptpLocked := false, ptpWaits := false })

/-- Clock sources: two fine gates outside the window, or one gross failure, clear READY, and the loss of the root's own source sets
CLOCK_LOST and moves the root to INT; a source counts as ready after its enable, or in compare mode with the second gate in
a row inside the window of COMPARE_REF; a relock runs the root from the source named (R333 to
R337). -/
def Obligations.ClockRows : Prop :=
  ∀ s : State, s.alive = true →
    (∀ (src : Source) (ppm compare : Int), src ≠ .int → (s.clock.mon src).enabled = true →
      (exec (.fineMonitorGate src ⟨ppm, compare⟩) s =
        let c := if s.compareMode src && s.compareRuns then s.compareGate src compare else s
        .next (if s.clock.ethFailed then c else c.fineGate src ppm))
      ∧ (compare.natAbs ≤ s.cfg.monWindow.toNat → 1 ≤ (s.clock.mon src).good → (src = .link → s.linkLocked = true) →
          ((s.compareGate src compare).clock.mon src).ready = true)
      ∧ (s.cfg.monWindow.toNat < ppm.natAbs → 1 ≤ (s.clock.mon src).bad → ((s.fineGate src ppm).clock.mon src).ready = false)
      ∧ (src ≠ .eth → (sourceCode src) = s.clock.rootActive.toNat → s.clock.clockLost = false →
          ∃ t, exec (.grossMonitorGate src none) s = .next t ∧ t.clock.clockLost = true ∧ t.clock.rootActive = 2
            ∧ (t.clock.mon src).ready = false ∧ t.power.pending = none)
      ∧ (src ≠ .eth → ∀ d : Int, d.natAbs ≤ 50000 → exec (.grossMonitorGate src (some d)) s = .next s)
      ∧ (s.compareMode src = false → (src = .link → s.linkLocked = true) → ∃ t, exec (.sourceReadyCount src) s = .next t ∧ (t.clock.mon src).ready = true))
    ∧ ((s.clock.mon .eth).enabled = true → ∃ t, exec (.grossMonitorGate .eth none) s = .next t ∧ t.clock.ethFailed = true
        ∧ (∀ p : Fin 2, t.eth[p].link = 0) ∧ t.clock.clockLost = s.clock.clockLost)
    ∧ (s.clock.relocking = true → ∃ t, exec .rootRelock s = .next t ∧ t.clock.rootLocked = true ∧ t.clock.relocking = false
        ∧ t.clock.rootActive = s.cfg.rootSrc ∧ (s.cfg.rootSrc = 1 → s.links.origin = false → t.links.locked = true))

/-- Power and heat: settled rails make a pending upward change ready, the loop moves the core rail by at most 5 mV, a droop by at most
20 mV, both only while no ramp and no upward change that is still to be made holds it; samples land in their registers and raise or clear the causes of their soaks, and a die or stack at its limit trips the module: the
rails switch off and THERM_TRIP_N latches (R340 to R343, R346 to R348, R423). -/
def Obligations.PowerRows : Prop :=
  ∀ s : State, s.alive = true →
    (∀ x n, s.power.ramping = true → s.power.pending = some (x, n) → x.toNat < s.power.active.toNat → s.power.emptyTarget = none →
      s.power.waitReplies = [] → ∃ t, exec .railSettled s = .next t ∧ t.power.ramping = false ∧ t.power.vReady = true
        ∧ t.power.vCore = s.power.coreTarget ∧ t.power.pending = s.power.pending)
    ∧ (∀ v : U16, s.railsBusy = false → v.toNat ≤ 900 → s.links.causes.contains (3, 2) = false →
        ∃ t, exec (.avsStep v) s = .next t ∧ t.power.vReq = v ∧ t.power.coreTarget ≤ s.power.coreTarget + 5
          ∧ s.power.coreTarget ≤ t.power.coreTarget + 5 ∧ t.power.vCore = t.power.coreTarget)
    ∧ (s.railsBusy = false → ∃ t, exec .droop s = .next t ∧ s.power.coreTarget ≤ t.power.coreTarget
        ∧ t.power.coreTarget ≤ s.power.coreTarget + 20 ∧ t.power.vReq = s.power.vReq)
    ∧ (s.railsBusy = true → exec .droop s = .next s
        ∧ ∀ v : U16, ∃ t, exec (.avsStep v) s = .next t ∧ t.power.coreTarget = s.power.coreTarget ∧ t.power.vCore = s.power.vCore)
    ∧ (∀ m : PowerMeasure, exec (.powerSample m) s = .next (s.samplePower m) ∧ (s.samplePower m).power.vIn = m.vIn
        ∧ (s.samplePower m).power.iIn = m.iIn ∧ (s.samplePower m).power.pIn = BitVec.ofNat 16 (min m.mean1ms 0xFFFF))
    ∧ (∀ readings : List (BitVec 16), readings.length = 72 →
        ((∀ r ∈ readings, r.toInt < 1840) → ∃ t, exec (.dieSensorSample readings) s = .next t ∧ t.therm.die = readings)
        ∧ ((∃ r ∈ readings, 1840 ≤ r.toInt) → exec (.dieSensorSample readings) s = .next s.thermalTrip))
    ∧ (∀ (stack : Fin 20) (r : BitVec 16),
        (r.toInt < (retention s.power.active.toNat * 16 : Nat) → ∃ t, exec (.stackSensorSample stack r) s = .next t
          ∧ t.therm.stackTemps = s.therm.stackTemps.set stack.val r)
        ∧ ((retention s.power.active.toNat * 16 : Nat) ≤ r.toInt → exec (.stackSensorSample stack r) s = .next s.thermalTrip))
    ∧ (s.thermalTrip.pins.rails = false ∧ s.thermalTrip.pins.pwrOk = false ∧ s.thermalTrip.pins.trip = true
        ∧ s.thermalTrip.flash = s.writeHealth.flash ∧ s.thermalTrip.fuses = s.fuses ∧ s.thermalTrip.image = none)
    ∧ (∀ (inlet outlet : BitVec 16) (flow : Nat), ∃ t, exec (.coolantSample inlet outlet flow) s = .next t ∧ t.therm.inlet = inlet
        ∧ t.therm.outlet = outlet ∧ t.therm.flow = flow)

/-- Input power, reset and start-up: the pins follow their events; a loss of power or RESET_N low loses every volatile state and keeps
fuses and flash, with the health record that was due (log 154); each stage of start-up that may end leaves for the next; tests and the health record (R359, R361, R364, R382 to R395,
R396, R401, R412, R413, R418 to R421, R426). -/
def Obligations.StartRows : Prop :=
  ∀ s : State,
    (∃ t, exec .inputPowerOn s = .next t ∧ t.pins.s1 = true ∧ t.pins.inputGood = true ∧ (s.pins.stage = .off → t.pins.stage = .charging))
    ∧ (s.pins.stage = .charging → ∃ t, exec .inrushEnd s = .next t ∧ t.pins.stage = .charged
        ∧ (s.pins.pwrEn = true → s.pins.sb3v3 = true → s.pins.inputGood = true → s.pins.trip = false → t.pins.rails = true))
    ∧ (s.pins.pwrEn = false → ∃ t, exec .pwrEnRise s = .next t ∧ t.pins.pwrEn = true ∧ (s.pins.sb3v3 = true → t.pins.trip = false))
    ∧ (s.pins.rails = true → exec .pwrOk s = .next { s with pins := { s.pins with pwrOk := true } })
    ∧ (s.pins.sb3v3 = false → ∃ t, exec .sb3v3Return s = .next t ∧ t.pins.sb3v3 = true)
    ∧ (∀ rail : Fin 9, s.pins.rails = true → ∀ cmd ∈ [Instr.inputUnderVoltage, .s1Break, .pwrEnFall, .railFault rail, .sb3v3Loss],
        ∃ t, exec cmd s = .next t ∧ t.pins.rails = false ∧ t.pins.pwrOk = false ∧ t.flash = s.writeHealth.flash
          ∧ t.fuses = s.fuses
          ∧ t.image = none ∧ t.hbm.mem = [] ∧ t.fcp.sessions = [] ∧ t.job.st = .empty ∧ t.boot.stage = 1)
    ∧ (∃ t, exec .resetNLow s = .next t ∧ t.pins.resetN = false ∧ t.jtag = s.jtag ∧ t.flash = s.writeHealth.flash ∧ t.image = none)
    ∧ (∀ st : Straps, ∃ t, exec (.resetNRise st) s = .next t ∧ t.pins.resetN = true ∧ t.pins.claimEn = st.claimEn
        ∧ t.pins.debugEn = st.debugEn ∧ t.links.origin = st.clkOrigin ∧ t.pins.slotId = st.slotId ∧ t.boot.stage = 1
        ∧ t.cfg = State.reset.cfg ∧ t.flash = s.writeHealth.flash)
    ∧ (s.inStage 1 = true → ∃ t, exec .bootRom s = .next t ∧ t.boot.stage = 2 ∧ t.clock.rootLocked = true ∧ t.clock.rootActive = 2)
    ∧ (s.inStage 2 = true → 
        exec .firmwareLoad s = .next (if s.stage2Fails then s.toStage 15 else s.firmwareEntry s.flash.firmware)
        ∧ (s.stage2Fails = true → exec .recovery s = .next (s.toStage 15))
        ∧ (s.firmwareEntry s.flash.firmware).boot.stage = 3)
    ∧ (s.alive = true → s.boot.stage = 3 → s.clock.localMon.ready = true →
        ∃ t, exec .rootLock s = .next t ∧ t.boot.stage = 4 ∧ t.clock.rootActive = 0 ∧ t.cfg.rootSrc = 0)
    ∧ (s.mayEnd 4 = true → exec .hbmTraining s = .next (s.repairRows.toStage 5))
    ∧ (s.mayEnd 5 = true → ∀ failed, ∃ t, exec (.powerOnPass failed) s = .next t ∧ t.boot.stage = 6
        ∧ (failed = [] → t.test.powerOnOk = true))
    ∧ (s.mayEnd 6 = true → ∀ ports, ∃ t, exec (.linkTraining ports) s = .next t ∧ t.boot.stage = 7)
    ∧ (s.mayEnd 7 = true → ∀ depth,
        (s.links.origin = true → ∃ t, exec (.clockFollow depth) s = .next t ∧ t.boot.stage = 8 ∧ t.links.locked = true)
        ∧ (s.links.origin = false → s.links.locked = false → ∃ t, exec .unfollowed s = .next t ∧ t.boot.stage = 8
            ∧ t.boot.unfollowed = true))
    ∧ (s.mayEnd 8 = true → (∀ ms : U32, ∃ t, exec (.ready ms) s = .next t ∧ t.boot.stage = 9 ∧ t.boot.ready = true
          ∧ t.fuses.svn = max s.fuses.svn s.boot.fwSvn)
        ∧ (∀ (ports : List PortMeasure) (w : U64), ∃ t, exec (.channelMeasurement ports w) s = .next t
          ∧ t.links.offset = (if s.links.origin || !s.links.locked then 0 else w - s.wall)))
    ∧ (s.alive = true → s.boot.stage ≠ 9 → s.boot.stage ≠ 15 →
        exec .stageOverrun s = .next { s with boot := { s.boot with overrun := true } })
    ∧ (∀ core : Fin 8, (s.windowBegins core = true → s.cfg.testsOff = false → ∃ t, exec (.drawRingWindow core) s = .next t
          ∧ t.test.windows = s.test.windows + 1 ∧ (t.core core).test.busy = true)
        ∧ (∀ (pass ecc : Bool) (d : U32), (s.core core).test.busy = true → s.scheduleRuns = true →
            let (a, len) := (marchExtent (s.core core).test.next).getD (0, 0)
            (ecc = false → s.marchFault core a len = none →
              let u := (s.marchErrors core a (a + len)).sliceDone core pass d.toNat
              exec (.testSliceDone core pass d ecc) s = .next u ∧ (pass = false → u.test.suspect = true))
            ∧ (ecc = true ∨ s.marchFault core a len ≠ none → ∃ t, exec (.testSliceDone core pass d ecc) s = .next t
                ∧ t.test.suspect = true ∧ t.faults.job ≠ [])))
    ∧ (s.alive = true → exec .healthRecordWrite s = .next s.writeHealth
        ∧ exec .trngFail s = .next { s with sec := { s.sec with trngFail := true } })

/-- The test access port: from PWR_OK on, an instruction selects its register, those that drive pins only in EMPTY and else BYPASS; the
spy-hole instructions select BYPASS while the port is closed; TRST_N selects the identification register. None changes anything but the
port's own state (R400, R402, R421). -/
def Obligations.TestAccessRows : Prop :=
  ∀ s : State,
    let sel := fun (x : JtagSel) => ({ s with jtag := { s.jtag with sel := x } } : State)
    (s.pins.pwrOk = true →
      exec .idcode s = .next (sel .idcode) ∧ exec .bypass s = .next (sel .bypass)
      ∧ (s.job.st = .empty → exec .extest s = .next (sel .extest) ∧ exec .clamp s = .next (sel .clamp)
          ∧ exec .highz s = .next (sel .highz) ∧ exec .acExtest s = .next (sel .acExtest))
      ∧ (s.job.st ≠ .empty → ∀ cmd ∈ [Instr.extest, .clamp, .highz, .acExtest], exec cmd s = .next (sel .bypass))
      ∧ exec .samplePreload s = .next { s with jtag := { s.jtag with sel := .boundary, sample := s.boundary } }
      ∧ (∀ (core : Byte) (unit : U16) (addr : U32),
          (s.sec.spyholeOpen = false → ∀ cmd ∈ [Instr.spyScan core unit addr, .spyFrozenState core unit addr, .spyTrace core unit addr,
            .spyData], exec cmd s = .next (sel .bypass))
          ∧ (s.sec.spyholeOpen = true →
              exec (.spyScan core unit addr) s = .next { s with jtag := { s.jtag with sel := .spyCtrl, spy := (some ⟨1, core.toNat, unit.toNat, addr.toNat, s.job.st != .running && s.job.st != .hold⟩) } }
              ∧ exec (.spyFrozenState core unit addr) s = .next { s with jtag := { s.jtag with sel := .spyCtrl, spy := (some ⟨2, core.toNat, unit.toNat, addr.toNat, s.job.st == .faultHeld⟩) } }
              ∧ exec (.spyTrace core unit addr) s = .next { s with jtag := { s.jtag with sel := .spyCtrl, spy := (some ⟨3, core.toNat, unit.toNat, addr.toNat, true⟩) } }))
      ∧ (∀ a : SpyAccess, s.sec.spyholeOpen = true → s.jtag.spy = some a → ∃ t, exec .spyData s = .next t
          ∧ t.jtag.sel = .spyData ∧ t.jtag.spy = some { a with addr := a.addr + 1 }
          ∧ (a.allowed = false → t.jtag.dataOut = BitVec.allOnes 64) ∧ t.job = s.job ∧ t.cores = s.cores))
    ∧ (s.pins.pwrOk = false → ∀ cmd ∈ [Instr.idcode, .bypass, .extest, .clamp, .highz, .acExtest, .samplePreload, .spyData],
        exec cmd s = .next s)
    ∧ exec .trstN s = .next { s with jtag := ⟨.idcode, [], none, 0⟩ }
end

