-- ==== Sys2Proof/Laws/Memory.lean ====
section
/-! SUPPORT. Laws of byte memories: every operation keeps the canonical form, a byte that was written reads back, every other byte reads
as before. -/
namespace Sys2Proof.Machine
namespace Memory

theorem wfFrom_mono {lo lo' : Nat} (h : lo' ≤ lo) : ∀ {m : Memory}, wfFrom lo m = true → wfFrom lo' m = true
  | [], _ => rfl
  | (a, b) :: t, hm => by
    simp only [wfFrom, Bool.and_eq_true, decide_eq_true_eq] at hm ⊢
    exact ⟨⟨Nat.le_trans h hm.1.1, hm.1.2⟩, hm.2⟩

theorem wfFrom_write {a : Nat} {v : Byte} : ∀ {lo : Nat} {m : Memory}, wfFrom lo m = true → lo ≤ a → wfFrom lo (write m a v) = true
  | lo, [], _, h => by
    simp only [write]; split
    · rfl
    · simp_all [wfFrom]
  | lo, (k, b) :: t, hm, h => by
    have hm' := hm
    simp only [wfFrom, Bool.and_eq_true, decide_eq_true_eq] at hm
    simp only [write]
    split
    · split
      · exact wfFrom_mono (by omega) hm.2
      · simp_all [wfFrom]
    · split
      · split
        · exact hm'
        · simp only [wfFrom, Bool.and_eq_true, decide_eq_true_eq]
          refine ⟨⟨h, by simpa using ‹¬v = unlisted›⟩, ⟨by omega, hm.1.2⟩, hm.2⟩
      · simp only [wfFrom, Bool.and_eq_true, decide_eq_true_eq]
        exact ⟨hm.1, wfFrom_write hm.2 (by omega)⟩

/-- A write keeps the canonical form. -/
theorem wf_write {m : Memory} (h : m.wf = true) (a : Nat) (v : Byte) : (m.write a v).wf = true := wfFrom_write h (Nat.zero_le a)

/-- A write of bytes keeps the canonical form. -/
theorem wf_writeBytes {m : Memory} (h : m.wf = true) (a : Nat) (l : Bytes) : (m.writeBytes a l).wf = true := by
  induction l generalizing m a with
  | nil => exact h
  | cons b t ih => exact ih (wf_write h a b) (a + 1)

/-- Every other byte reads as before. -/
theorem read_write_ne {a x : Nat} (v : Byte) (h : x ≠ a) : ∀ m : Memory, (m.write a v).read x = m.read x
  | [] => by simp only [write]; split <;> simp [read, Ne.symm h]
  | (k, b) :: t => by
    have hk : ∀ {y : Nat}, a = y → ¬ y = x := fun e e' => h (e'.symm.trans e.symm)
    simp only [write]
    split
    · next e => split <;> simp [read, hk e]
    · split
      · split <;> simp [read, Ne.symm h]
      · simp only [read, read_write_ne v h t]

theorem read_below {lo x : Nat} (h : x < lo) : ∀ {m : Memory}, wfFrom lo m = true → m.read x = unlisted
  | [], _ => rfl
  | (k, b) :: t, hm => by
    simp only [wfFrom, Bool.and_eq_true, decide_eq_true_eq] at hm
    simp only [read]; rw [if_neg (by omega)]
    exact read_below (by omega) hm.2

theorem read_write_from {a : Nat} (v : Byte) : ∀ {lo : Nat} {m : Memory}, wfFrom lo m = true → (m.write a v).read a = v
  | _, [], _ => by simp only [write]; split <;> simp_all [read]
  | _, (k, b) :: t, hm => by
    simp only [wfFrom, Bool.and_eq_true, decide_eq_true_eq] at hm
    simp only [write]
    split
    · next e =>
      split
      · next hv => rw [read_below (by omega) hm.2, hv]
      · simp [read, e]
    · split
      · split
        · next hv => simp only [read]; rw [if_neg (by omega), read_below (by omega) hm.2, hv]
        · simp [read]
      · simp only [read]; rw [if_neg (by omega)]; exact read_write_from v hm.2

/-- The byte that was written reads back. -/
theorem read_write {m : Memory} (h : m.wf = true) (a : Nat) (v : Byte) : (m.write a v).read a = v := read_write_from v h

/-- A write of bytes: what each address reads after it. -/
theorem read_writeBytes {m : Memory} (h : m.wf = true) (a : Nat) (l : Bytes) (x : Nat) :
    (m.writeBytes a l).read x = if a ≤ x ∧ x < a + l.length then l.getD (x - a) 0 else m.read x := by
  induction l generalizing m a with
  | nil => simp only [writeBytes, List.length_nil, Nat.add_zero]; rw [if_neg (by omega)]
  | cons b t ih =>
    simp only [writeBytes, List.length_cons]
    rw [ih (wf_write h a b)]
    by_cases e : x = a
    · subst e; rw [if_neg (by omega), if_pos (by omega), read_write h]; simp
    · rw [read_write_ne b e]
      by_cases c : a + 1 ≤ x ∧ x < a + 1 + t.length
      · rw [if_pos c, if_pos (by omega), show x - a = (x - (a + 1)) + 1 by omega]; simp
      · rw [if_neg c, if_neg (by omega)]

/-- Bytes outside what is written read as before, in any memory. -/
theorem read_writeBytes_ne (m : Memory) (a : Nat) (l : Bytes) (x : Nat) (h : x < a ∨ a + l.length ≤ x) :
    (m.writeBytes a l).read x = m.read x := by
  induction l generalizing m a with
  | nil => rfl
  | cons b t ih =>
    simp only [List.length_cons] at h
    simp only [writeBytes]
    rw [ih _ _ (by omega), read_write_ne b (by omega)]

@[simp] theorem readBytes_length (m : Memory) (a n : Nat) : (m.readBytes a n).length = n := by simp [readBytes]

end Memory

/-- A write through a window keeps the canonical form. -/
theorem wf_spWrite (w : WriteOp) {m : Memory} (h : m.wf = true) (a : Nat) (l : Bytes) : (spWrite w m a l).wf = true := by
  cases w <;> exact Memory.wf_writeBytes h _ _

theorem wf_spStore (w : WriteOp) {m : Memory} (h : m.wf = true) (a : Nat) (l : Bytes) : (spStore w m a l).wf = true := wf_spWrite _ h _ _

/-- The slice that an i48 add leaves (R270). -/
theorem spAdd48_mem (m : Memory) (a : Nat) (x : Int) :
    (spAdd48 m a x).1 = spStore .plain m a (i48Bytes (i48Add (i48Of (m.viaBytes a 8)) x).1) := by
  simp only [spAdd48]

/-- Memory as an earlier ac saw it is canonical where memory is. -/
theorem wf_undo (sl : Option (Fin 8)) (t : Nat) (past : List Former) {m : Memory} (h : m.wf = true) : (undo sl t past m).wf = true := by
  unfold undo
  induction past generalizing m with
  | nil => exact h
  | cons f l ih =>
    rw [List.foldl_cons]
    split
    · exact ih (Memory.wf_writeBytes h _ _)
    · exact ih h

/-- Where nothing has changed since an ac, memory is as that ac saw it. -/
theorem undo_of_none (sl : Option (Fin 8)) (t : Nat) (past : List Former) (m : Memory)
    (h : ∀ f ∈ past, f.slice = sl → f.at_ < t) : undo sl t past m = m := by
  unfold undo
  induction past with
  | nil => rfl
  | cons f l ih =>
    have hf := h f (by simp)
    have : (f.slice == sl && decide (t ≤ f.at_)) = false := by
      by_cases e : f.slice = sl
      · simp [e]; have := hf e; omega
      · simp [e]
    rw [List.foldl_cons, this]
    exact ih (fun g hg => h g (List.mem_cons_of_mem _ hg))

end Sys2Proof.Machine
end

