-- ==== Sys2Proof/Laws/Memories.lean ====
section
/-! SUPPORT. The operations that leave every byte memory of the module as it is: slices, HBM, the boot ROM's SRAM and the restore
buffer. One lemma for each operation, cited instead of unfolding it. -/
namespace Sys2Proof.Machine

theorem foldl_mems {α : Type} (f : State → α → State) (h : ∀ s x, Vector.map CoreState.mem (f s x).cores = Vector.map CoreState.mem s.cores ∧ (f s x).hbm.mem = s.hbm.mem ∧ (f s x).boot.sram = s.boot.sram ∧ (f s x).ckpt.restoreBuf = s.ckpt.restoreBuf) (l : List α) (s : State) :
    Vector.map CoreState.mem (l.foldl f s).cores = Vector.map CoreState.mem s.cores ∧ (l.foldl f s).hbm.mem = s.hbm.mem
      ∧ (l.foldl f s).boot.sram = s.boot.sram ∧ (l.foldl f s).ckpt.restoreBuf = s.ckpt.restoreBuf := by
  induction l generalizing s with
  | nil => exact ⟨rfl, rfl, rfl, rfl⟩
  | cons a t ih => exact ⟨(ih (f s a)).1.trans (h s a).1, (ih (f s a)).2.1.trans (h s a).2.1, (ih (f s a)).2.2.1.trans (h s a).2.2.1, (ih (f s a)).2.2.2.trans (h s a).2.2.2⟩

@[simp] theorem ite_cores (c : Prop) [Decidable c] (a b : State) : (if c then a else b).cores = if c then a.cores else b.cores := by split <;> rfl

@[simp] theorem foldl_cores_mem {α : Type} (f : State → α → State) (h : ∀ s x, Vector.map CoreState.mem (f s x).cores = Vector.map CoreState.mem s.cores) (l : List α) (s : State) :
    Vector.map CoreState.mem (l.foldl f s).cores = Vector.map CoreState.mem s.cores := by
  induction l generalizing s with
  | nil => rfl
  | cons a t ih => exact (ih (f s a)).trans (h s a)

@[simp] theorem ite_hbm (c : Prop) [Decidable c] (a b : State) : (if c then a else b).hbm = if c then a.hbm else b.hbm := by split <;> rfl

@[simp] theorem foldl_hbm_mem {α : Type} (f : State → α → State) (h : ∀ s x, (f s x).hbm.mem = s.hbm.mem) (l : List α) (s : State) :
    (l.foldl f s).hbm.mem = s.hbm.mem := by
  induction l generalizing s with
  | nil => rfl
  | cons a t ih => exact (ih (f s a)).trans (h s a)

@[simp] theorem ite_boot (c : Prop) [Decidable c] (a b : State) : (if c then a else b).boot = if c then a.boot else b.boot := by split <;> rfl

@[simp] theorem foldl_boot_mem {α : Type} (f : State → α → State) (h : ∀ s x, (f s x).boot.sram = s.boot.sram) (l : List α) (s : State) :
    (l.foldl f s).boot.sram = s.boot.sram := by
  induction l generalizing s with
  | nil => rfl
  | cons a t ih => exact (ih (f s a)).trans (h s a)

@[simp] theorem ite_ckpt (c : Prop) [Decidable c] (a b : State) : (if c then a else b).ckpt = if c then a.ckpt else b.ckpt := by split <;> rfl

@[simp] theorem foldl_ckpt_mem {α : Type} (f : State → α → State) (h : ∀ s x, (f s x).ckpt.restoreBuf = s.ckpt.restoreBuf) (l : List α) (s : State) :
    (l.foldl f s).ckpt.restoreBuf = s.ckpt.restoreBuf := by
  induction l generalizing s with
  | nil => rfl
  | cons a t ih => exact (ih (f s a)).trans (h s a)

@[simp] theorem ite_map_mem (c : Prop) [Decidable c] (a b : Vector CoreState 8) : Vector.map CoreState.mem (if c then a else b) = if c then Vector.map CoreState.mem a else Vector.map CoreState.mem b := by split <;> rfl

@[simp] theorem ite_hbm_mem (c : Prop) [Decidable c] (a b : HbmState) : (if c then a else b).mem = if c then a.mem else b.mem := by split <;> rfl

@[simp] theorem ite_boot_sram (c : Prop) [Decidable c] (a b : BootState) : (if c then a else b).sram = if c then a.sram else b.sram := by split <;> rfl

@[simp] theorem ite_ckpt_buf (c : Prop) [Decidable c] (a b : CkptState) : (if c then a else b).restoreBuf = if c then a.restoreBuf else b.restoreBuf := by split <;> rfl

@[simp] theorem map_mem_set (v : Vector CoreState 8) (i : Nat) (h : i < 8) (k : CoreState) (e : k.mem = v[i].mem) :
    Vector.map CoreState.mem (v.set i k h) = Vector.map CoreState.mem v := by
  apply Vector.ext; intro j hj
  simp only [Vector.getElem_map, Vector.getElem_set]
  split
  · next x => subst x; exact e
  · rfl

@[simp] theorem map_mem_map (v : Vector CoreState 8) (f : CoreState → CoreState) (e : ∀ k, (f k).mem = k.mem) :
    Vector.map CoreState.mem (v.map f) = Vector.map CoreState.mem v := by
  apply Vector.ext; intro j hj
  simp [e]

@[simp] theorem modCore_mems (c : Fin 8) (f : CoreState → CoreState) (s : State) (e : (f (s.core c)).mem = (s.core c).mem) :
    Vector.map CoreState.mem (s.modCore c f).cores = Vector.map CoreState.mem s.cores ∧ (s.modCore c f).hbm.mem = s.hbm.mem
      ∧ (s.modCore c f).boot.sram = s.boot.sram ∧ (s.modCore c f).ckpt.restoreBuf = s.ckpt.restoreBuf := by
  refine ⟨?_, rfl, rfl, rfl⟩
  exact map_mem_set _ _ _ _ e

@[simp] theorem send_mems (p : OutPacket) (s : State) :
    Vector.map CoreState.mem (State.send p s).cores = Vector.map CoreState.mem s.cores ∧ (State.send p s).hbm.mem = s.hbm.mem
      ∧ (State.send p s).boot.sram = s.boot.sram ∧ (State.send p s).ckpt.restoreBuf = s.ckpt.restoreBuf := by
  exact ⟨rfl, rfl, rfl, rfl⟩

@[simp] theorem noticeTo_mems (r : EventRec) (x : Session) (s : State) :
    Vector.map CoreState.mem (noticeTo r x s).cores = Vector.map CoreState.mem s.cores ∧ (noticeTo r x s).hbm.mem = s.hbm.mem
      ∧ (noticeTo r x s).boot.sram = s.boot.sram ∧ (noticeTo r x s).ckpt.restoreBuf = s.ckpt.restoreBuf := by
  exact ⟨rfl, rfl, rfl, rfl⟩

@[simp] theorem notify_mems (r : EventRec) (s : State) :
    Vector.map CoreState.mem (State.notify r s).cores = Vector.map CoreState.mem s.cores ∧ (State.notify r s).hbm.mem = s.hbm.mem
      ∧ (State.notify r s).boot.sram = s.boot.sram ∧ (State.notify r s).ckpt.restoreBuf = s.ckpt.restoreBuf := by
  simp [State.notify]

@[simp] theorem raiseNotice_mems (r : EventRec) (s : State) :
    Vector.map CoreState.mem (State.raiseNotice r s).cores = Vector.map CoreState.mem s.cores
      ∧ (State.raiseNotice r s).hbm.mem = s.hbm.mem ∧ (State.raiseNotice r s).boot.sram = s.boot.sram
      ∧ (State.raiseNotice r s).ckpt.restoreBuf = s.ckpt.restoreBuf := by
  simp [State.raiseNotice]

@[simp] theorem addEvent_mems (kind : Nat) (flags : Nat) (sched : Nat) (wall : Nat) (data : Bytes) (attach : Bytes) (s : State) :
    Vector.map CoreState.mem (State.addEvent kind flags sched wall data attach s).cores = Vector.map CoreState.mem s.cores
    ∧ (State.addEvent kind flags sched wall data attach s).hbm.mem = s.hbm.mem
    ∧ (State.addEvent kind flags sched wall data attach s).boot.sram = s.boot.sram
    ∧ (State.addEvent kind flags sched wall data attach s).ckpt.restoreBuf = s.ckpt.restoreBuf := by
  simp [State.addEvent]

@[simp] theorem eventLow_mems (s : State) :
    Vector.map CoreState.mem (State.eventLow s).cores = Vector.map CoreState.mem s.cores ∧ (State.eventLow s).hbm.mem = s.hbm.mem
      ∧ (State.eventLow s).boot.sram = s.boot.sram ∧ (State.eventLow s).ckpt.restoreBuf = s.ckpt.restoreBuf := by
  simp [State.eventLow]

@[simp] theorem eventAt_mems (kind : Nat) (flags : Nat) (sched : Nat) (wall : Nat) (data : Bytes) (attach : Bytes) (s : State) :
    Vector.map CoreState.mem (State.eventAt kind flags sched wall data attach s).cores = Vector.map CoreState.mem s.cores
    ∧ (State.eventAt kind flags sched wall data attach s).hbm.mem = s.hbm.mem
    ∧ (State.eventAt kind flags sched wall data attach s).boot.sram = s.boot.sram
    ∧ (State.eventAt kind flags sched wall data attach s).ckpt.restoreBuf = s.ckpt.restoreBuf := by
  simp [State.eventAt]

@[simp] theorem event_mems (kind : Nat) (data : Bytes) (attach : Bytes) (s : State) :
    Vector.map CoreState.mem (State.event kind data attach s).cores = Vector.map CoreState.mem s.cores
    ∧ (State.event kind data attach s).hbm.mem = s.hbm.mem
    ∧ (State.event kind data attach s).boot.sram = s.boot.sram
    ∧ (State.event kind data attach s).ckpt.restoreBuf = s.ckpt.restoreBuf := by
  simp [State.event]

@[simp] theorem inputLow_mems (s : State) :
    Vector.map CoreState.mem (State.inputLow s).cores = Vector.map CoreState.mem s.cores ∧ (State.inputLow s).hbm.mem = s.hbm.mem
      ∧ (State.inputLow s).boot.sram = s.boot.sram ∧ (State.inputLow s).ckpt.restoreBuf = s.ckpt.restoreBuf := by
  simp [State.inputLow]

@[simp] theorem setJobState_mems (st : JobState) (status : Nat) (s : State) :
    Vector.map CoreState.mem (State.setJobState st status s).cores = Vector.map CoreState.mem s.cores
    ∧ (State.setJobState st status s).hbm.mem = s.hbm.mem
    ∧ (State.setJobState st status s).boot.sram = s.boot.sram
    ∧ (State.setJobState st status s).ckpt.restoreBuf = s.ckpt.restoreBuf := by
  simp [State.setJobState]

@[simp] theorem freezeSession_mems (id : Nat) (status : Nat) (seq : Nat) (r : FaultRec) (s : State) :
    Vector.map CoreState.mem (State.freezeSession id status seq r s).cores = Vector.map CoreState.mem s.cores
    ∧ (State.freezeSession id status seq r s).hbm.mem = s.hbm.mem
    ∧ (State.freezeSession id status seq r s).boot.sram = s.boot.sram
    ∧ (State.freezeSession id status seq r s).ckpt.restoreBuf = s.ckpt.restoreBuf := by
  simp [State.freezeSession]

@[simp] theorem changeHealth_mems (f : Health → Health) (s : State) :
    Vector.map CoreState.mem (State.changeHealth f s).cores = Vector.map CoreState.mem s.cores
      ∧ (State.changeHealth f s).hbm.mem = s.hbm.mem ∧ (State.changeHealth f s).boot.sram = s.boot.sram
      ∧ (State.changeHealth f s).ckpt.restoreBuf = s.ckpt.restoreBuf := by
  exact ⟨rfl, rfl, rfl, rfl⟩

@[simp] theorem addRepair_mems (entry : Nat) (s : State) :
    Vector.map CoreState.mem (State.addRepair entry s).cores = Vector.map CoreState.mem s.cores
      ∧ (State.addRepair entry s).hbm.mem = s.hbm.mem ∧ (State.addRepair entry s).boot.sram = s.boot.sram
      ∧ (State.addRepair entry s).ckpt.restoreBuf = s.ckpt.restoreBuf := by
  simp [State.addRepair]

@[simp] theorem makeSuspect_mems (reason : Nat) (core : Nat) (slice : Nat) (evidence : Bytes) (s : State) :
    Vector.map CoreState.mem (State.makeSuspect reason core slice evidence s).cores = Vector.map CoreState.mem s.cores
    ∧ (State.makeSuspect reason core slice evidence s).hbm.mem = s.hbm.mem
    ∧ (State.makeSuspect reason core slice evidence s).boot.sram = s.boot.sram
    ∧ (State.makeSuspect reason core slice evidence s).ckpt.restoreBuf = s.ckpt.restoreBuf := by
  simp [State.makeSuspect]

@[simp] theorem setPort_mems (p : Fin 16) (x : PortState) (s : State) :
    Vector.map CoreState.mem (State.setPort p x s).cores = Vector.map CoreState.mem s.cores ∧ (State.setPort p x s).hbm.mem = s.hbm.mem
      ∧ (State.setPort p x s).boot.sram = s.boot.sram ∧ (State.setPort p x s).ckpt.restoreBuf = s.ckpt.restoreBuf := by
  exact ⟨rfl, rfl, rfl, rfl⟩

@[simp] theorem modPort_mems (p : Fin 16) (f : PortState → PortState) (s : State) :
    Vector.map CoreState.mem (State.modPort p f s).cores = Vector.map CoreState.mem s.cores ∧ (State.modPort p f s).hbm.mem = s.hbm.mem
      ∧ (State.modPort p f s).boot.sram = s.boot.sram ∧ (State.modPort p f s).ckpt.restoreBuf = s.ckpt.restoreBuf := by
  exact ⟨rfl, rfl, rfl, rfl⟩

@[simp] theorem drawFree_mems (s : State) :
    Vector.map CoreState.mem (State.drawFree s).2.cores = Vector.map CoreState.mem s.cores ∧ (State.drawFree s).2.hbm.mem = s.hbm.mem
      ∧ (State.drawFree s).2.boot.sram = s.boot.sram ∧ (State.drawFree s).2.ckpt.restoreBuf = s.ckpt.restoreBuf := by
  exact ⟨rfl, rfl, rfl, rfl⟩

@[simp] theorem setCounter_mems (c : Nat) (v : Nat) (s : State) :
    Vector.map CoreState.mem (State.setCounter c v s).cores = Vector.map CoreState.mem s.cores
      ∧ (State.setCounter c v s).hbm.mem = s.hbm.mem ∧ (State.setCounter c v s).boot.sram = s.boot.sram
      ∧ (State.setCounter c v s).ckpt.restoreBuf = s.ckpt.restoreBuf := by
  exact ⟨rfl, rfl, rfl, rfl⟩

@[simp] theorem countCorrected_mems (hbm : Bool) (n : Nat) (s : State) :
    Vector.map CoreState.mem (State.countCorrected hbm n s).cores = Vector.map CoreState.mem s.cores
    ∧ (State.countCorrected hbm n s).hbm.mem = s.hbm.mem
    ∧ (State.countCorrected hbm n s).boot.sram = s.boot.sram
    ∧ (State.countCorrected hbm n s).ckpt.restoreBuf = s.ckpt.restoreBuf := by
  simp [State.countCorrected]

@[simp] theorem correctedRow_mems (row : Nat) (s : State) :
    Vector.map CoreState.mem (State.correctedRow row s).cores = Vector.map CoreState.mem s.cores
    ∧ (State.correctedRow row s).hbm.mem = s.hbm.mem
    ∧ (State.correctedRow row s).boot.sram = s.boot.sram ∧ (State.correctedRow row s).ckpt.restoreBuf = s.ckpt.restoreBuf := by
  simp [State.correctedRow]

@[simp] theorem correct_mems (hbm : Bool) (marks : List Nat) (s : State) :
    Vector.map CoreState.mem (State.correct hbm marks s).cores = Vector.map CoreState.mem s.cores
    ∧ (State.correct hbm marks s).hbm.mem = s.hbm.mem
    ∧ (State.correct hbm marks s).boot.sram = s.boot.sram ∧ (State.correct hbm marks s).ckpt.restoreBuf = s.ckpt.restoreBuf := by
  simp [State.correct]

@[simp] theorem freezeMaster_mems (m : Nat) (s : State) :
    Vector.map CoreState.mem (State.freezeMaster m s).cores = Vector.map CoreState.mem s.cores
      ∧ (State.freezeMaster m s).hbm.mem = s.hbm.mem ∧ (State.freezeMaster m s).boot.sram = s.boot.sram
      ∧ (State.freezeMaster m s).ckpt.restoreBuf = s.ckpt.restoreBuf := by
  unfold State.freezeMaster
  dsimp only
  (repeat' split) <;> simp_all

@[simp] theorem countUncorrected_mems (hbm : Bool) (s : State) :
    Vector.map CoreState.mem (State.countUncorrected hbm s).cores = Vector.map CoreState.mem s.cores
    ∧ (State.countUncorrected hbm s).hbm.mem = s.hbm.mem
    ∧ (State.countUncorrected hbm s).boot.sram = s.boot.sram
    ∧ (State.countUncorrected hbm s).ckpt.restoreBuf = s.ckpt.restoreBuf := by
  exact ⟨rfl, rfl, rfl, rfl⟩

@[simp] theorem raiseFault_mems (r : FaultRec) (s : State) :
    Vector.map CoreState.mem (State.raiseFault r s).cores = Vector.map CoreState.mem s.cores
      ∧ (State.raiseFault r s).hbm.mem = s.hbm.mem ∧ (State.raiseFault r s).boot.sram = s.boot.sram
      ∧ (State.raiseFault r s).ckpt.restoreBuf = s.ckpt.restoreBuf := by
  simp [State.raiseFault]

@[simp] theorem raiseFaultEvent_mems (s : State) :
    Vector.map CoreState.mem (State.raiseFaultEvent s).cores = Vector.map CoreState.mem s.cores
      ∧ (State.raiseFaultEvent s).hbm.mem = s.hbm.mem ∧ (State.raiseFaultEvent s).boot.sram = s.boot.sram
      ∧ (State.raiseFaultEvent s).ckpt.restoreBuf = s.ckpt.restoreBuf := by
  simp [State.raiseFaultEvent]

@[simp] theorem remember_mems (sl : Option (Fin 8)) (a n : Nat) (s : State) :
    Vector.map CoreState.mem (State.remember sl a n s).cores = Vector.map CoreState.mem s.cores
    ∧ (State.remember sl a n s).hbm.mem = s.hbm.mem
    ∧ (State.remember sl a n s).boot.sram = s.boot.sram ∧ (State.remember sl a n s).ckpt.restoreBuf = s.ckpt.restoreBuf := by
  exact ⟨rfl, rfl, rfl, rfl⟩

@[simp] theorem spoilRead_mems (x u : BankUse) (s : State) :
    Vector.map CoreState.mem (State.spoilRead x u s).cores = Vector.map CoreState.mem s.cores
    ∧ (State.spoilRead x u s).hbm.mem = s.hbm.mem
    ∧ (State.spoilRead x u s).boot.sram = s.boot.sram ∧ (State.spoilRead x u s).ckpt.restoreBuf = s.ckpt.restoreBuf := by
  simp [State.spoilRead]

@[simp] theorem spoilReads_mems (used : List BankUse) (u : BankUse) (s : State) :
    Vector.map CoreState.mem (State.spoilReads used u s).cores = Vector.map CoreState.mem s.cores
    ∧ (State.spoilReads used u s).hbm.mem = s.hbm.mem
    ∧ (State.spoilReads used u s).boot.sram = s.boot.sram ∧ (State.spoilReads used u s).ckpt.restoreBuf = s.ckpt.restoreBuf := by
  simp [State.spoilReads]

@[simp] theorem advance_mems (i : Issue) (extra : Nat) (s : State) :
    Vector.map CoreState.mem (State.advance i extra s).cores = Vector.map CoreState.mem s.cores
      ∧ (State.advance i extra s).hbm.mem = s.hbm.mem ∧ (State.advance i extra s).boot.sram = s.boot.sram
      ∧ (State.advance i extra s).ckpt.restoreBuf = s.ckpt.restoreBuf := by
  simp [State.advance]

@[simp] theorem launch_mems (i : Issue) (s u : State) :
    Vector.map CoreState.mem (State.launch i s u).cores = Vector.map CoreState.mem s.cores
    ∧ (State.launch i s u).hbm.mem = s.hbm.mem
    ∧ (State.launch i s u).boot.sram = s.boot.sram ∧ (State.launch i s u).ckpt.restoreBuf = s.ckpt.restoreBuf := by
  exact ⟨rfl, rfl, rfl, rfl⟩

@[simp] theorem issueUnit_mems (i : Issue) (plan : State → Origin → Plan) (s : State) :
    Vector.map CoreState.mem (State.issueUnit i plan s).cores = Vector.map CoreState.mem s.cores
    ∧ (State.issueUnit i plan s).hbm.mem = s.hbm.mem
    ∧ (State.issueUnit i plan s).boot.sram = s.boot.sram
    ∧ (State.issueUnit i plan s).ckpt.restoreBuf = s.ckpt.restoreBuf := by
  unfold State.issueUnit
  dsimp only
  (repeat' split) <;> simp_all

@[simp] theorem clearFaultLog_mems (s : State) :
    Vector.map CoreState.mem (State.clearFaultLog s).cores = Vector.map CoreState.mem s.cores
      ∧ (State.clearFaultLog s).hbm.mem = s.hbm.mem ∧ (State.clearFaultLog s).boot.sram = s.boot.sram
      ∧ (State.clearFaultLog s).ckpt.restoreBuf = s.ckpt.restoreBuf := by
  simp [State.clearFaultLog]

@[simp] theorem clearPolicyClipped_mems (s : State) :
    Vector.map CoreState.mem (State.clearPolicyClipped s).cores = Vector.map CoreState.mem s.cores
    ∧ (State.clearPolicyClipped s).hbm.mem = s.hbm.mem
    ∧ (State.clearPolicyClipped s).boot.sram = s.boot.sram
    ∧ (State.clearPolicyClipped s).ckpt.restoreBuf = s.ckpt.restoreBuf := by
  exact ⟨rfl, rfl, rfl, rfl⟩

@[simp] theorem declareSuspect_mems (v : Nat) (s : State) :
    Vector.map CoreState.mem (State.declareSuspect v s).cores = Vector.map CoreState.mem s.cores
    ∧ (State.declareSuspect v s).hbm.mem = s.hbm.mem
    ∧ (State.declareSuspect v s).boot.sram = s.boot.sram
    ∧ (State.declareSuspect v s).ckpt.restoreBuf = s.ckpt.restoreBuf := by
  simp [State.declareSuspect]

@[simp] theorem follow_mems (origin : Bool) (port lane : BitVec 4) (s : State) :
    Vector.map CoreState.mem (State.follow origin port lane s).cores = Vector.map CoreState.mem s.cores
    ∧ (State.follow origin port lane s).hbm.mem = s.hbm.mem
    ∧ (State.follow origin port lane s).boot.sram = s.boot.sram ∧ (State.follow origin port lane s).ckpt.restoreBuf = s.ckpt.restoreBuf := by
  exact ⟨rfl, rfl, rfl, rfl⟩

@[simp] theorem setReg_mems (n : Nat) (inst : Nat) (v : Nat) (bits : Nat) (s : State) :
    Vector.map CoreState.mem (State.setReg n inst v bits s).cores = Vector.map CoreState.mem s.cores
    ∧ (State.setReg n inst v bits s).hbm.mem = s.hbm.mem
    ∧ (State.setReg n inst v bits s).boot.sram = s.boot.sram
    ∧ (State.setReg n inst v bits s).ckpt.restoreBuf = s.ckpt.restoreBuf := by
  unfold State.setReg
  (repeat' split) <;> simp

@[simp] theorem addShadow_mems (x : Shadow) (s : State) :
    Vector.map CoreState.mem (State.addShadow x s).cores = Vector.map CoreState.mem s.cores ∧ (State.addShadow x s).hbm.mem = s.hbm.mem
      ∧ (State.addShadow x s).boot.sram = s.boot.sram ∧ (State.addShadow x s).ckpt.restoreBuf = s.ckpt.restoreBuf := by
  exact ⟨rfl, rfl, rfl, rfl⟩

@[simp] theorem activateReg_mems (seq : Nat) (due : List Shadow) (reg : Nat) (s : State) :
    Vector.map CoreState.mem (activateReg seq due reg s).cores = Vector.map CoreState.mem s.cores
    ∧ (activateReg seq due reg s).hbm.mem = s.hbm.mem
    ∧ (activateReg seq due reg s).boot.sram = s.boot.sram
    ∧ (activateReg seq due reg s).ckpt.restoreBuf = s.ckpt.restoreBuf := by
  unfold activateReg
  dsimp only
  (repeat' split) <;> simp_all

@[simp] theorem activate_mems (seq : Nat) (exact : Bool) (s : State) :
    Vector.map CoreState.mem (State.activate seq exact s).cores = Vector.map CoreState.mem s.cores
    ∧ (State.activate seq exact s).hbm.mem = s.hbm.mem
    ∧ (State.activate seq exact s).boot.sram = s.boot.sram
    ∧ (State.activate seq exact s).ckpt.restoreBuf = s.ckpt.restoreBuf := by
  simp [State.activate]

@[simp] theorem capture_mems (r : BarrierRec) (s : State) :
    Vector.map CoreState.mem (State.capture r s).cores = Vector.map CoreState.mem s.cores ∧ (State.capture r s).hbm.mem = s.hbm.mem
      ∧ (State.capture r s).boot.sram = s.boot.sram ∧ (State.capture r s).ckpt.restoreBuf = s.ckpt.restoreBuf := by
  exact ⟨rfl, rfl, rfl, rfl⟩

@[simp] theorem startStream_mems (s : State) :
    Vector.map CoreState.mem (State.startStream s).cores = Vector.map CoreState.mem s.cores ∧ (State.startStream s).hbm.mem = s.hbm.mem
      ∧ (State.startStream s).boot.sram = s.boot.sram ∧ (State.startStream s).ckpt.restoreBuf = s.ckpt.restoreBuf := by
  unfold State.startStream
  (repeat' split) <;> simp

@[simp] theorem captureCommit_mems (r : BarrierRec) (s : State) :
    Vector.map CoreState.mem (State.captureCommit r s).cores = Vector.map CoreState.mem s.cores
      ∧ (State.captureCommit r s).hbm.mem = s.hbm.mem ∧ (State.captureCommit r s).boot.sram = s.boot.sram
      ∧ (State.captureCommit r s).ckpt.restoreBuf = s.ckpt.restoreBuf := by
  simp [State.captureCommit]

@[simp] theorem noteWaits_mems (r : BarrierRec) (s : State) :
    Vector.map CoreState.mem (State.noteWaits r s).cores = Vector.map CoreState.mem s.cores ∧ (State.noteWaits r s).hbm.mem = s.hbm.mem
      ∧ (State.noteWaits r s).boot.sram = s.boot.sram ∧ (State.noteWaits r s).ckpt.restoreBuf = s.ckpt.restoreBuf := by
  exact ⟨rfl, rfl, rfl, rfl⟩

@[simp] theorem barrierTokens_mems (r : BarrierRec) (b : Nat) (s : State) :
    Vector.map CoreState.mem (State.barrierTokens r b s).cores = Vector.map CoreState.mem s.cores
    ∧ (State.barrierTokens r b s).hbm.mem = s.hbm.mem
    ∧ (State.barrierTokens r b s).boot.sram = s.boot.sram
    ∧ (State.barrierTokens r b s).ckpt.restoreBuf = s.ckpt.restoreBuf := by
  simp [State.barrierTokens]

@[simp] theorem watchBarrier_mems (s : State) :
    Vector.map CoreState.mem (State.watchBarrier s).cores = Vector.map CoreState.mem s.cores
      ∧ (State.watchBarrier s).hbm.mem = s.hbm.mem ∧ (State.watchBarrier s).boot.sram = s.boot.sram
      ∧ (State.watchBarrier s).ckpt.restoreBuf = s.ckpt.restoreBuf := by
  unfold State.watchBarrier
  (repeat' split) <;> simp

@[simp] theorem clearTokens_mems (s : State) :
    Vector.map CoreState.mem (State.clearTokens s).cores = Vector.map CoreState.mem s.cores ∧ (State.clearTokens s).hbm.mem = s.hbm.mem
      ∧ (State.clearTokens s).boot.sram = s.boot.sram ∧ (State.clearTokens s).ckpt.restoreBuf = s.ckpt.restoreBuf := by
  exact ⟨rfl, rfl, rfl, rfl⟩

@[simp] theorem clearRestart_mems (s : State) :
    Vector.map CoreState.mem (State.clearRestart s).cores = Vector.map CoreState.mem s.cores
      ∧ (State.clearRestart s).hbm.mem = s.hbm.mem ∧ (State.clearRestart s).boot.sram = s.boot.sram
      ∧ (State.clearRestart s).ckpt.restoreBuf = s.ckpt.restoreBuf := by
  exact ⟨rfl, rfl, rfl, rfl⟩

@[simp] theorem stepNotice_mems (ab : Bool) (t : Nat) (group : Nat) (rcd : Bytes) (s : State) :
    Vector.map CoreState.mem (stepNotice ab t group rcd s).cores = Vector.map CoreState.mem s.cores
    ∧ (stepNotice ab t group rcd s).hbm.mem = s.hbm.mem
    ∧ (stepNotice ab t group rcd s).boot.sram = s.boot.sram
    ∧ (stepNotice ab t group rcd s).ckpt.restoreBuf = s.ckpt.restoreBuf := by
  simp [stepNotice]

@[simp] theorem switchPoint_mems (p : Nat) (s : State) :
    Vector.map CoreState.mem (State.switchPoint p s).cores = Vector.map CoreState.mem s.cores
      ∧ (State.switchPoint p s).hbm.mem = s.hbm.mem ∧ (State.switchPoint p s).boot.sram = s.boot.sram
      ∧ (State.switchPoint p s).ckpt.restoreBuf = s.ckpt.restoreBuf := by
  simp [State.switchPoint]

@[simp] theorem opPointAction_mems (seq : Nat) (s : State) :
    Vector.map CoreState.mem (State.opPointAction seq s).cores = Vector.map CoreState.mem s.cores
    ∧ (State.opPointAction seq s).hbm.mem = s.hbm.mem
    ∧ (State.opPointAction seq s).boot.sram = s.boot.sram
    ∧ (State.opPointAction seq s).ckpt.restoreBuf = s.ckpt.restoreBuf := by
  unfold State.opPointAction
  (repeat' split) <;> simp

@[simp] theorem setRing_mems (x : Ring) (s : State) :
    Vector.map CoreState.mem (State.setRing x s).cores = Vector.map CoreState.mem s.cores ∧ (State.setRing x s).hbm.mem = s.hbm.mem
      ∧ (State.setRing x s).boot.sram = s.boot.sram ∧ (State.setRing x s).ckpt.restoreBuf = s.ckpt.restoreBuf := by
  exact ⟨rfl, rfl, rfl, rfl⟩

@[simp] theorem takeRing_mems (s : State) (t : Take) :
    Vector.map CoreState.mem (takeRing s t).cores = Vector.map CoreState.mem s.cores ∧ (takeRing s t).hbm.mem = s.hbm.mem
      ∧ (takeRing s t).boot.sram = s.boot.sram ∧ (takeRing s t).ckpt.restoreBuf = s.ckpt.restoreBuf := by
  exact ⟨rfl, rfl, rfl, rfl⟩

@[simp] theorem endSoak_mems (s : State) :
    Vector.map CoreState.mem (State.endSoak s).cores = Vector.map CoreState.mem s.cores ∧ (State.endSoak s).hbm.mem = s.hbm.mem
      ∧ (State.endSoak s).boot.sram = s.boot.sram ∧ (State.endSoak s).ckpt.restoreBuf = s.ckpt.restoreBuf := by
  simp [State.endSoak]

@[simp] theorem recordHold_mems (r : BarrierRec) (s : State) :
    Vector.map CoreState.mem (State.recordHold r s).cores = Vector.map CoreState.mem s.cores
    ∧ (State.recordHold r s).hbm.mem = s.hbm.mem
    ∧ (State.recordHold r s).boot.sram = s.boot.sram ∧ (State.recordHold r s).ckpt.restoreBuf = s.ckpt.restoreBuf := by
  simp [State.recordHold]

@[simp] theorem endStand_mems (s : State) :
    Vector.map CoreState.mem (State.endStand s).cores = Vector.map CoreState.mem s.cores
    ∧ (State.endStand s).hbm.mem = s.hbm.mem
    ∧ (State.endStand s).boot.sram = s.boot.sram ∧ (State.endStand s).ckpt.restoreBuf = s.ckpt.restoreBuf := by
  unfold State.endStand
  dsimp only
  (repeat' split) <;> simp

@[simp] theorem haltAt_mems (how : Resume) (s : State) :
    Vector.map CoreState.mem (State.haltAt how s).cores = Vector.map CoreState.mem s.cores ∧ (State.haltAt how s).hbm.mem = s.hbm.mem
      ∧ (State.haltAt how s).boot.sram = s.boot.sram ∧ (State.haltAt how s).ckpt.restoreBuf = s.ckpt.restoreBuf := by
  simp [State.haltAt]

@[simp] theorem actionsFrom4_mems (r : BarrierRec) (s : State) :
    Vector.map CoreState.mem (State.actionsFrom4 r s).cores = Vector.map CoreState.mem s.cores
      ∧ (State.actionsFrom4 r s).hbm.mem = s.hbm.mem ∧ (State.actionsFrom4 r s).boot.sram = s.boot.sram
      ∧ (State.actionsFrom4 r s).ckpt.restoreBuf = s.ckpt.restoreBuf := by
  simp [State.actionsFrom4]

@[simp] theorem takeStop_mems (cause : Nat) (loc : Bool) (port : Nat) (x : Nat) (s : State) :
    Vector.map CoreState.mem (State.takeStop cause loc port x s).cores = Vector.map CoreState.mem s.cores
    ∧ (State.takeStop cause loc port x s).hbm.mem = s.hbm.mem
    ∧ (State.takeStop cause loc port x s).boot.sram = s.boot.sram
    ∧ (State.takeStop cause loc port x s).ckpt.restoreBuf = s.ckpt.restoreBuf := by
  unfold State.takeStop
  (repeat' split) <;> simp

@[simp] theorem raiseSoak_mems (cause : Nat) (tag : Nat) (held : Bool) (s : State) :
    Vector.map CoreState.mem (State.raiseSoak cause tag held s).cores = Vector.map CoreState.mem s.cores
    ∧ (State.raiseSoak cause tag held s).hbm.mem = s.hbm.mem
    ∧ (State.raiseSoak cause tag held s).boot.sram = s.boot.sram
    ∧ (State.raiseSoak cause tag held s).ckpt.restoreBuf = s.ckpt.restoreBuf := by
  simp [State.raiseSoak]

@[simp] theorem clearCause_mems (cause : Nat) (tag : Nat) (s : State) :
    Vector.map CoreState.mem (State.clearCause cause tag s).cores = Vector.map CoreState.mem s.cores
    ∧ (State.clearCause cause tag s).hbm.mem = s.hbm.mem
    ∧ (State.clearCause cause tag s).boot.sram = s.boot.sram
    ∧ (State.clearCause cause tag s).ckpt.restoreBuf = s.ckpt.restoreBuf := by
  simp [State.clearCause]

@[simp] theorem releaseCkpt_mems (s : State) :
    Vector.map CoreState.mem (State.releaseCkpt s).cores = Vector.map CoreState.mem s.cores ∧ (State.releaseCkpt s).hbm.mem = s.hbm.mem
      ∧ (State.releaseCkpt s).boot.sram = s.boot.sram ∧ (State.releaseCkpt s).ckpt.restoreBuf = s.ckpt.restoreBuf := by
  simp [State.releaseCkpt]

@[simp] theorem reraise_mems (s : State) :
    Vector.map CoreState.mem (State.reraise s).cores = Vector.map CoreState.mem s.cores ∧ (State.reraise s).hbm.mem = s.hbm.mem
      ∧ (State.reraise s).boot.sram = s.boot.sram ∧ (State.reraise s).ckpt.restoreBuf = s.ckpt.restoreBuf := by
  unfold State.reraise
  (repeat' split) <;> simp

@[simp] theorem beginHold_mems (r : BarrierRec) (cause : Nat) (s : State) :
    Vector.map CoreState.mem (State.beginHold r cause s).cores = Vector.map CoreState.mem s.cores
    ∧ (State.beginHold r cause s).hbm.mem = s.hbm.mem
    ∧ (State.beginHold r cause s).boot.sram = s.boot.sram
    ∧ (State.beginHold r cause s).ckpt.restoreBuf = s.ckpt.restoreBuf := by
  unfold State.beginHold
  dsimp only
  (repeat' split) <;> simp_all

@[simp] theorem passBarrierWords_mems (s : State) :
    Vector.map CoreState.mem (s.passBarrierWords).cores = Vector.map CoreState.mem s.cores ∧ (s.passBarrierWords).hbm.mem = s.hbm.mem
      ∧ (s.passBarrierWords).boot.sram = s.boot.sram ∧ (s.passBarrierWords).ckpt.restoreBuf = s.ckpt.restoreBuf := by
  unfold State.passBarrierWords
  dsimp only
  refine ⟨?_, rfl, rfl, rfl⟩
  apply Vector.ext; intro j hj
  simp only [Vector.getElem_map, Vector.getElem_mapIdx, dif_pos hj]

@[simp] theorem takeToken_mems (p : Fin 16) (grid : Nat) (s : State) :
    Vector.map CoreState.mem (State.takeToken p grid s).cores = Vector.map CoreState.mem s.cores
    ∧ (State.takeToken p grid s).hbm.mem = s.hbm.mem
    ∧ (State.takeToken p grid s).boot.sram = s.boot.sram
    ∧ (State.takeToken p grid s).ckpt.restoreBuf = s.ckpt.restoreBuf := by
  simp [State.takeToken]

@[simp] theorem haltStanding_mems (s : State) :
    Vector.map CoreState.mem (State.haltStanding s).cores = Vector.map CoreState.mem s.cores
      ∧ (State.haltStanding s).hbm.mem = s.hbm.mem ∧ (State.haltStanding s).boot.sram = s.boot.sram
      ∧ (State.haltStanding s).ckpt.restoreBuf = s.ckpt.restoreBuf := by
  simp [State.haltStanding]

@[simp] theorem watchRestart_mems (s : State) :
    Vector.map CoreState.mem (State.watchRestart s).cores = Vector.map CoreState.mem s.cores
      ∧ (State.watchRestart s).hbm.mem = s.hbm.mem ∧ (State.watchRestart s).boot.sram = s.boot.sram
      ∧ (State.watchRestart s).ckpt.restoreBuf = s.ckpt.restoreBuf := by
  simp [State.watchRestart]

@[simp] theorem beginStep_mems (t : Nat) (s : State) :
    Vector.map CoreState.mem (State.beginStep t s).cores = Vector.map CoreState.mem s.cores ∧ (State.beginStep t s).hbm.mem = s.hbm.mem
      ∧ (State.beginStep t s).boot.sram = s.boot.sram ∧ (State.beginStep t s).ckpt.restoreBuf = s.ckpt.restoreBuf := by
  simp [State.beginStep]

@[simp] theorem writeKeys_mems (f : KeyStore → KeyStore) (s : State) :
    Vector.map CoreState.mem (State.writeKeys f s).cores = Vector.map CoreState.mem s.cores ∧ (State.writeKeys f s).hbm.mem = s.hbm.mem
      ∧ (State.writeKeys f s).boot.sram = s.boot.sram ∧ (State.writeKeys f s).ckpt.restoreBuf = s.ckpt.restoreBuf := by
  exact ⟨rfl, rfl, rfl, rfl⟩

@[simp] theorem setSeatKey_mems (seat : Nat) (key : Bytes) (s : State) :
    Vector.map CoreState.mem (State.setSeatKey seat key s).cores = Vector.map CoreState.mem s.cores
    ∧ (State.setSeatKey seat key s).hbm.mem = s.hbm.mem
    ∧ (State.setSeatKey seat key s).boot.sram = s.boot.sram
    ∧ (State.setSeatKey seat key s).ckpt.restoreBuf = s.ckpt.restoreBuf := by
  exact ⟨rfl, rfl, rfl, rfl⟩

@[simp] theorem writeHealth_mems (s : State) :
    Vector.map CoreState.mem (State.writeHealth s).cores = Vector.map CoreState.mem s.cores ∧ (State.writeHealth s).hbm.mem = s.hbm.mem
      ∧ (State.writeHealth s).boot.sram = s.boot.sram ∧ (State.writeHealth s).ckpt.restoreBuf = s.ckpt.restoreBuf := by
  unfold State.writeHealth
  (repeat' split) <;> simp

@[simp] theorem modSession_mems (id : Nat) (f : Session → Session) (s : State) :
    Vector.map CoreState.mem (State.modSession id f s).cores = Vector.map CoreState.mem s.cores
      ∧ (State.modSession id f s).hbm.mem = s.hbm.mem ∧ (State.modSession id f s).boot.sram = s.boot.sram
      ∧ (State.modSession id f s).ckpt.restoreBuf = s.ckpt.restoreBuf := by
  exact ⟨rfl, rfl, rfl, rfl⟩

@[simp] theorem endStream_mems (s : State) :
    Vector.map CoreState.mem (State.endStream s).cores = Vector.map CoreState.mem s.cores ∧ (State.endStream s).hbm.mem = s.hbm.mem
      ∧ (State.endStream s).boot.sram = s.boot.sram ∧ (State.endStream s).ckpt.restoreBuf = s.ckpt.restoreBuf := by
  simp [State.endStream]

@[simp] theorem dropStream_mems (s : State) :
    Vector.map CoreState.mem (State.dropStream s).cores = Vector.map CoreState.mem s.cores ∧ (State.dropStream s).hbm.mem = s.hbm.mem
      ∧ (State.dropStream s).boot.sram = s.boot.sram ∧ (State.dropStream s).ckpt.restoreBuf = s.ckpt.restoreBuf := by
  simp [State.dropStream]

@[simp] theorem endStreamOf_mems (id : Nat) (s : State) :
    Vector.map CoreState.mem (State.endStreamOf id s).cores = Vector.map CoreState.mem s.cores
      ∧ (State.endStreamOf id s).hbm.mem = s.hbm.mem ∧ (State.endStreamOf id s).boot.sram = s.boot.sram
      ∧ (State.endStreamOf id s).ckpt.restoreBuf = s.ckpt.restoreBuf := by
  simp [State.endStreamOf]

@[simp] theorem closeSession_mems (id : Nat) (s : State) :
    Vector.map CoreState.mem (State.closeSession id s).cores = Vector.map CoreState.mem s.cores
      ∧ (State.closeSession id s).hbm.mem = s.hbm.mem ∧ (State.closeSession id s).boot.sram = s.boot.sram
      ∧ (State.closeSession id s).ckpt.restoreBuf = s.ckpt.restoreBuf := by
  simp [State.closeSession]

@[simp] theorem closeSessions_mems (f : Session → Bool) (s : State) :
    Vector.map CoreState.mem (State.closeSessions f s).cores = Vector.map CoreState.mem s.cores
      ∧ (State.closeSessions f s).hbm.mem = s.hbm.mem ∧ (State.closeSessions f s).boot.sram = s.boot.sram
      ∧ (State.closeSessions f s).ckpt.restoreBuf = s.ckpt.restoreBuf := by
  simp [State.closeSessions]

@[simp] theorem dropTag_mems (port : Fin 2) (s : State) :
    Vector.map CoreState.mem (State.dropTag port s).cores = Vector.map CoreState.mem s.cores
      ∧ (State.dropTag port s).hbm.mem = s.hbm.mem ∧ (State.dropTag port s).boot.sram = s.boot.sram
      ∧ (State.dropTag port s).ckpt.restoreBuf = s.ckpt.restoreBuf := by
  exact ⟨rfl, rfl, rfl, rfl⟩

@[simp] theorem dropReplay_mems (port : Fin 2) (s : State) :
    Vector.map CoreState.mem (State.dropReplay port s).cores = Vector.map CoreState.mem s.cores
      ∧ (State.dropReplay port s).hbm.mem = s.hbm.mem ∧ (State.dropReplay port s).boot.sram = s.boot.sram
      ∧ (State.dropReplay port s).ckpt.restoreBuf = s.ckpt.restoreBuf := by
  exact ⟨rfl, rfl, rfl, rfl⟩

@[simp] theorem reply_mems (p : Packet) (opcode : Nat) (key : Option Bytes) (status : Nat) (params : Bytes) (s : State) :
    Vector.map CoreState.mem (State.reply p opcode key status params s).cores = Vector.map CoreState.mem s.cores
    ∧ (State.reply p opcode key status params s).hbm.mem = s.hbm.mem
    ∧ (State.reply p opcode key status params s).boot.sram = s.boot.sram
    ∧ (State.reply p opcode key status params s).ckpt.restoreBuf = s.ckpt.restoreBuf := by
  exact ⟨rfl, rfl, rfl, rfl⟩

@[simp] theorem enqueue_mems (d : Spec) (p : Packet) (slots : List (Nat × Nat)) (s : State) :
    Vector.map CoreState.mem (State.enqueue d p slots s).cores = Vector.map CoreState.mem s.cores
    ∧ (State.enqueue d p slots s).hbm.mem = s.hbm.mem
    ∧ (State.enqueue d p slots s).boot.sram = s.boot.sram ∧ (State.enqueue d p slots s).ckpt.restoreBuf = s.ckpt.restoreBuf := by
  exact ⟨rfl, rfl, rfl, rfl⟩

@[simp] theorem dequeue_mems (p : Packet) (s : State) :
    Vector.map CoreState.mem (State.dequeue p s).cores = Vector.map CoreState.mem s.cores
    ∧ (State.dequeue p s).hbm.mem = s.hbm.mem
    ∧ (State.dequeue p s).boot.sram = s.boot.sram ∧ (State.dequeue p s).ckpt.restoreBuf = s.ckpt.restoreBuf := by
  exact ⟨rfl, rfl, rfl, rfl⟩

@[simp] theorem hold_mems (d : Spec) (x : Session) (p : Packet) (s : State) :
    Vector.map CoreState.mem (State.hold d x p s).cores = Vector.map CoreState.mem s.cores ∧ (State.hold d x p s).hbm.mem = s.hbm.mem
      ∧ (State.hold d x p s).boot.sram = s.boot.sram ∧ (State.hold d x p s).ckpt.restoreBuf = s.ckpt.restoreBuf := by
  exact ⟨rfl, rfl, rfl, rfl⟩

@[simp] theorem unbuffer_mems (p : Packet) (s : State) :
    Vector.map CoreState.mem (State.unbuffer p s).cores = Vector.map CoreState.mem s.cores
    ∧ (State.unbuffer p s).hbm.mem = s.hbm.mem
    ∧ (State.unbuffer p s).boot.sram = s.boot.sram ∧ (State.unbuffer p s).ckpt.restoreBuf = s.ckpt.restoreBuf := by
  simp [State.unbuffer]

@[simp] theorem buffer_mems (d : Spec) (p : Packet) (s : State) :
    Vector.map CoreState.mem (State.buffer d p s).cores = Vector.map CoreState.mem s.cores
    ∧ (State.buffer d p s).hbm.mem = s.hbm.mem
    ∧ (State.buffer d p s).boot.sram = s.boot.sram ∧ (State.buffer d p s).ckpt.restoreBuf = s.ckpt.restoreBuf := by
  simp [State.buffer]

@[simp] theorem heard_mems (x : Session) (p : Packet) (s : State) :
    Vector.map CoreState.mem (State.heard x p s).cores = Vector.map CoreState.mem s.cores
    ∧ (State.heard x p s).hbm.mem = s.hbm.mem
    ∧ (State.heard x p s).boot.sram = s.boot.sram ∧ (State.heard x p s).ckpt.restoreBuf = s.ckpt.restoreBuf := by
  exact ⟨rfl, rfl, rfl, rfl⟩

@[simp] theorem modMon_mems (src : Source) (f : SourceMon → SourceMon) (s : State) :
    Vector.map CoreState.mem (State.modMon src f s).cores = Vector.map CoreState.mem s.cores
      ∧ (State.modMon src f s).hbm.mem = s.hbm.mem ∧ (State.modMon src f s).boot.sram = s.boot.sram
      ∧ (State.modMon src f s).ckpt.restoreBuf = s.ckpt.restoreBuf := by
  exact ⟨rfl, rfl, rfl, rfl⟩

@[simp] theorem railsBack_mems (s : State) :
    Vector.map CoreState.mem (State.railsBack s).cores = Vector.map CoreState.mem s.cores
    ∧ (State.railsBack s).hbm.mem = s.hbm.mem
    ∧ (State.railsBack s).boot.sram = s.boot.sram ∧ (State.railsBack s).ckpt.restoreBuf = s.ckpt.restoreBuf := by
  exact ⟨rfl, rfl, rfl, rfl⟩

@[simp] theorem discardPoint_mems (s : State) :
    Vector.map CoreState.mem (State.discardPoint s).cores = Vector.map CoreState.mem s.cores
      ∧ (State.discardPoint s).hbm.mem = s.hbm.mem ∧ (State.discardPoint s).boot.sram = s.boot.sram
      ∧ (State.discardPoint s).ckpt.restoreBuf = s.ckpt.restoreBuf := by
  unfold State.discardPoint
  (repeat' split) <;> simp

@[simp] theorem discardRising_mems (s : State) :
    Vector.map CoreState.mem (State.discardRising s).cores = Vector.map CoreState.mem s.cores
    ∧ (State.discardRising s).hbm.mem = s.hbm.mem
    ∧ (State.discardRising s).boot.sram = s.boot.sram ∧ (State.discardRising s).ckpt.restoreBuf = s.ckpt.restoreBuf := by
  unfold State.discardRising
  (repeat' split) <;> simp

@[simp] theorem loseClock_mems (src : Source) (check : Nat) (ppm : Nat) (s : State) :
    Vector.map CoreState.mem (State.loseClock src check ppm s).cores = Vector.map CoreState.mem s.cores
    ∧ (State.loseClock src check ppm s).hbm.mem = s.hbm.mem
    ∧ (State.loseClock src check ppm s).boot.sram = s.boot.sram
    ∧ (State.loseClock src check ppm s).ckpt.restoreBuf = s.ckpt.restoreBuf := by
  simp [State.loseClock]

@[simp] theorem sourceFails_mems (src : Source) (check : Nat) (ppm : Nat) (s : State) :
    Vector.map CoreState.mem (State.sourceFails src check ppm s).cores = Vector.map CoreState.mem s.cores
    ∧ (State.sourceFails src check ppm s).hbm.mem = s.hbm.mem
    ∧ (State.sourceFails src check ppm s).boot.sram = s.boot.sram
    ∧ (State.sourceFails src check ppm s).ckpt.restoreBuf = s.ckpt.restoreBuf := by
  simp [State.sourceFails]

@[simp] theorem localReturns_mems (s : State) :
    Vector.map CoreState.mem (State.localReturns s).cores = Vector.map CoreState.mem s.cores
      ∧ (State.localReturns s).hbm.mem = s.hbm.mem ∧ (State.localReturns s).boot.sram = s.boot.sram
      ∧ (State.localReturns s).ckpt.restoreBuf = s.ckpt.restoreBuf := by
  simp [State.localReturns]

@[simp] theorem sourceReady_mems (src : Source) (s : State) :
    Vector.map CoreState.mem (State.sourceReady src s).cores = Vector.map CoreState.mem s.cores
      ∧ (State.sourceReady src s).hbm.mem = s.hbm.mem ∧ (State.sourceReady src s).boot.sram = s.boot.sram
      ∧ (State.sourceReady src s).ckpt.restoreBuf = s.ckpt.restoreBuf := by
  simp [State.sourceReady]

@[simp] theorem fineGate_mems (src : Source) (ppm : Int) (s : State) :
    Vector.map CoreState.mem (State.fineGate src ppm s).cores = Vector.map CoreState.mem s.cores
    ∧ (State.fineGate src ppm s).hbm.mem = s.hbm.mem
    ∧ (State.fineGate src ppm s).boot.sram = s.boot.sram
    ∧ (State.fineGate src ppm s).ckpt.restoreBuf = s.ckpt.restoreBuf := by
  simp [State.fineGate]

@[simp] theorem compareGate_mems (src : Source) (ppm : Int) (s : State) :
    Vector.map CoreState.mem (State.compareGate src ppm s).cores = Vector.map CoreState.mem s.cores
    ∧ (State.compareGate src ppm s).hbm.mem = s.hbm.mem
    ∧ (State.compareGate src ppm s).boot.sram = s.boot.sram ∧ (State.compareGate src ppm s).ckpt.restoreBuf = s.ckpt.restoreBuf := by
  simp [State.compareGate]

@[simp] theorem ethFails_mems (s : State) :
    Vector.map CoreState.mem (State.ethFails s).cores = Vector.map CoreState.mem s.cores ∧ (State.ethFails s).hbm.mem = s.hbm.mem
      ∧ (State.ethFails s).boot.sram = s.boot.sram ∧ (State.ethFails s).ckpt.restoreBuf = s.ckpt.restoreBuf := by
  exact ⟨rfl, rfl, rfl, rfl⟩

@[simp] theorem switchRoot_mems (s : State) :
    Vector.map CoreState.mem (State.switchRoot s).cores = Vector.map CoreState.mem s.cores ∧ (State.switchRoot s).hbm.mem = s.hbm.mem
      ∧ (State.switchRoot s).boot.sram = s.boot.sram ∧ (State.switchRoot s).ckpt.restoreBuf = s.ckpt.restoreBuf := by
  simp [State.switchRoot]

@[simp] theorem setCoreMv_mems (v : Nat) (s : State) :
    Vector.map CoreState.mem (State.setCoreMv v s).cores = Vector.map CoreState.mem s.cores ∧ (State.setCoreMv v s).hbm.mem = s.hbm.mem
      ∧ (State.setCoreMv v s).boot.sram = s.boot.sram ∧ (State.setCoreMv v s).ckpt.restoreBuf = s.ckpt.restoreBuf := by
  exact ⟨rfl, rfl, rfl, rfl⟩

@[simp] theorem clipPolicy_mems (reason : Nat) (held : Nat) (s : State) :
    Vector.map CoreState.mem (State.clipPolicy reason held s).cores = Vector.map CoreState.mem s.cores
    ∧ (State.clipPolicy reason held s).hbm.mem = s.hbm.mem
    ∧ (State.clipPolicy reason held s).boot.sram = s.boot.sram
    ∧ (State.clipPolicy reason held s).ckpt.restoreBuf = s.ckpt.restoreBuf := by
  simp [State.clipPolicy]

@[simp] theorem samplePower_mems (m : PowerMeasure) (s : State) :
    Vector.map CoreState.mem (State.samplePower m s).cores = Vector.map CoreState.mem s.cores
      ∧ (State.samplePower m s).hbm.mem = s.hbm.mem ∧ (State.samplePower m s).boot.sram = s.boot.sram
      ∧ (State.samplePower m s).ckpt.restoreBuf = s.ckpt.restoreBuf := by
  simp [State.samplePower]

@[simp] theorem thermal_mems (sensor : Nat) (level : Nat) (value : Int) (threshold : Int) (s : State) :
    Vector.map CoreState.mem (State.thermal sensor level value threshold s).cores = Vector.map CoreState.mem s.cores
    ∧ (State.thermal sensor level value threshold s).hbm.mem = s.hbm.mem
    ∧ (State.thermal sensor level value threshold s).boot.sram = s.boot.sram
    ∧ (State.thermal sensor level value threshold s).ckpt.restoreBuf = s.ckpt.restoreBuf := by
  simp [State.thermal]

@[simp] theorem noticeLevel_mems (sensor : Nat) (was : Bool) (is_ : Bool) (t : Int) (level : Int) (s : State) :
    Vector.map CoreState.mem (State.noticeLevel sensor was is_ t level s).cores = Vector.map CoreState.mem s.cores
    ∧ (State.noticeLevel sensor was is_ t level s).hbm.mem = s.hbm.mem
    ∧ (State.noticeLevel sensor was is_ t level s).boot.sram = s.boot.sram
    ∧ (State.noticeLevel sensor was is_ t level s).ckpt.restoreBuf = s.ckpt.restoreBuf := by
  simp [State.noticeLevel]

@[simp] theorem soakLevel_mems (sensor : Nat) (was : Bool) (t : Int) (level : Int) (s : State) :
    Vector.map CoreState.mem (State.soakLevel sensor was t level s).cores = Vector.map CoreState.mem s.cores
    ∧ (State.soakLevel sensor was t level s).hbm.mem = s.hbm.mem
    ∧ (State.soakLevel sensor was t level s).boot.sram = s.boot.sram
    ∧ (State.soakLevel sensor was t level s).ckpt.restoreBuf = s.ckpt.restoreBuf := by
  simp [State.soakLevel]

@[simp] theorem dieReading_mems (s : State) (x : Nat × BitVec 16) :
    Vector.map CoreState.mem (State.dieReading s x).cores = Vector.map CoreState.mem s.cores
      ∧ (State.dieReading s x).hbm.mem = s.hbm.mem ∧ (State.dieReading s x).boot.sram = s.boot.sram
      ∧ (State.dieReading s x).ckpt.restoreBuf = s.ckpt.restoreBuf := by
  simp [State.dieReading]

@[simp] theorem flowReading_mems (flow : Nat) (s : State) :
    Vector.map CoreState.mem (State.flowReading flow s).cores = Vector.map CoreState.mem s.cores
    ∧ (State.flowReading flow s).hbm.mem = s.hbm.mem
    ∧ (State.flowReading flow s).boot.sram = s.boot.sram
    ∧ (State.flowReading flow s).ckpt.restoreBuf = s.ckpt.restoreBuf := by
  simp [State.flowReading]

@[simp] theorem sliceFails_mems (c : Fin 8) (slice : Nat) (mode : Nat) (detail : Nat) (s : State) :
    Vector.map CoreState.mem (State.sliceFails c slice mode detail s).cores = Vector.map CoreState.mem s.cores
    ∧ (State.sliceFails c slice mode detail s).hbm.mem = s.hbm.mem
    ∧ (State.sliceFails c slice mode detail s).boot.sram = s.boot.sram
    ∧ (State.sliceFails c slice mode detail s).ckpt.restoreBuf = s.ckpt.restoreBuf := by
  simp [State.sliceFails]

@[simp] theorem fullPass_mems (c : Fin 8) (mode : Nat) (s : State) :
    Vector.map CoreState.mem (State.fullPass c mode s).cores = Vector.map CoreState.mem s.cores
      ∧ (State.fullPass c mode s).hbm.mem = s.hbm.mem ∧ (State.fullPass c mode s).boot.sram = s.boot.sram
      ∧ (State.fullPass c mode s).ckpt.restoreBuf = s.ckpt.restoreBuf := by
  simp [State.fullPass]

@[simp] theorem assignRows_mems (s : State) :
    Vector.map CoreState.mem (State.assignRows s).cores = Vector.map CoreState.mem s.cores
    ∧ (State.assignRows s).hbm.mem = s.hbm.mem
    ∧ (State.assignRows s).boot.sram = s.boot.sram ∧ (State.assignRows s).ckpt.restoreBuf = s.ckpt.restoreBuf := by
  simp [State.assignRows]

@[simp] theorem useRows_mems (rows : List Nat) (s : State) :
    Vector.map CoreState.mem (State.useRows rows s).cores = Vector.map CoreState.mem s.cores
    ∧ (State.useRows rows s).hbm.mem = s.hbm.mem
    ∧ (State.useRows rows s).boot.sram = s.boot.sram ∧ (State.useRows rows s).ckpt.restoreBuf = s.ckpt.restoreBuf := by
  simp [State.useRows]

@[simp] theorem sliceDone_mems (c : Fin 8) (pass : Bool) (detail : Nat) (s : State) :
    Vector.map CoreState.mem (State.sliceDone c pass detail s).cores = Vector.map CoreState.mem s.cores
    ∧ (State.sliceDone c pass detail s).hbm.mem = s.hbm.mem
    ∧ (State.sliceDone c pass detail s).boot.sram = s.boot.sram
    ∧ (State.sliceDone c pass detail s).ckpt.restoreBuf = s.ckpt.restoreBuf := by
  simp [State.sliceDone]

@[simp] theorem marchErrors_mems (c : Fin 8) (a stop : Nat) (s : State) :
    Vector.map CoreState.mem (State.marchErrors c a stop s).cores = Vector.map CoreState.mem s.cores
    ∧ (State.marchErrors c a stop s).hbm.mem = s.hbm.mem
    ∧ (State.marchErrors c a stop s).boot.sram = s.boot.sram ∧ (State.marchErrors c a stop s).ckpt.restoreBuf = s.ckpt.restoreBuf := by
  simp [State.marchErrors]

@[simp] theorem modPins_mems (f : PinState → PinState) (s : State) :
    Vector.map CoreState.mem (State.modPins f s).cores = Vector.map CoreState.mem s.cores ∧ (State.modPins f s).hbm.mem = s.hbm.mem
      ∧ (State.modPins f s).boot.sram = s.boot.sram ∧ (State.modPins f s).ckpt.restoreBuf = s.ckpt.restoreBuf := by
  exact ⟨rfl, rfl, rfl, rfl⟩

@[simp] theorem toStage_mems (n : Nat) (s : State) :
    Vector.map CoreState.mem (State.toStage n s).cores = Vector.map CoreState.mem s.cores ∧ (State.toStage n s).hbm.mem = s.hbm.mem
      ∧ (State.toStage n s).boot.sram = s.boot.sram ∧ (State.toStage n s).ckpt.restoreBuf = s.ckpt.restoreBuf := by
  exact ⟨rfl, rfl, rfl, rfl⟩

@[simp] theorem applyRelease_mems (image : Bytes) (s : State) :
    Vector.map CoreState.mem (State.applyRelease image s).cores = Vector.map CoreState.mem s.cores
    ∧ (State.applyRelease image s).hbm.mem = s.hbm.mem
    ∧ (State.applyRelease image s).boot.sram = s.boot.sram
    ∧ (State.applyRelease image s).ckpt.restoreBuf = s.ckpt.restoreBuf := by
  simp [State.applyRelease]

@[simp] theorem applySaved_mems (s : State) :
    Vector.map CoreState.mem (State.applySaved s).cores = Vector.map CoreState.mem s.cores ∧ (State.applySaved s).hbm.mem = s.hbm.mem
      ∧ (State.applySaved s).boot.sram = s.boot.sram ∧ (State.applySaved s).ckpt.restoreBuf = s.ckpt.restoreBuf := by
  unfold State.applySaved
  (repeat' split) <;> simp

@[simp] theorem firmwareEntry_mems (image : Bytes) (s : State) :
    Vector.map CoreState.mem (State.firmwareEntry image s).cores = Vector.map CoreState.mem s.cores
    ∧ (State.firmwareEntry image s).hbm.mem = s.hbm.mem
    ∧ (State.firmwareEntry image s).boot.sram = s.boot.sram
    ∧ (State.firmwareEntry image s).ckpt.restoreBuf = s.ckpt.restoreBuf := by
  simp [State.firmwareEntry]

@[simp] theorem repairRows_mems (s : State) :
    Vector.map CoreState.mem (State.repairRows s).cores = Vector.map CoreState.mem s.cores
    ∧ (State.repairRows s).hbm.mem = s.hbm.mem
    ∧ (State.repairRows s).boot.sram = s.boot.sram ∧ (State.repairRows s).ckpt.restoreBuf = s.ckpt.restoreBuf := by
  simp [State.repairRows]

@[simp] theorem trainPort_mems (s : State) (x : Fin 16 × PortTraining) :
    Vector.map CoreState.mem (State.trainPort s x).cores = Vector.map CoreState.mem s.cores ∧ (State.trainPort s x).hbm.mem = s.hbm.mem
      ∧ (State.trainPort s x).boot.sram = s.boot.sram ∧ (State.trainPort s x).ckpt.restoreBuf = s.ckpt.restoreBuf := by
  simp [State.trainPort]

@[simp] theorem pendingLinks_mems (s : State) :
    Vector.map CoreState.mem (State.pendingLinks s).cores = Vector.map CoreState.mem s.cores
      ∧ (State.pendingLinks s).hbm.mem = s.hbm.mem ∧ (State.pendingLinks s).boot.sram = s.boot.sram
      ∧ (State.pendingLinks s).ckpt.restoreBuf = s.ckpt.restoreBuf := by
  exact ⟨rfl, rfl, rfl, rfl⟩

@[simp] theorem reportLocked_mems (s : State) :
    Vector.map CoreState.mem (State.reportLocked s).cores = Vector.map CoreState.mem s.cores
      ∧ (State.reportLocked s).hbm.mem = s.hbm.mem ∧ (State.reportLocked s).boot.sram = s.boot.sram
      ∧ (State.reportLocked s).ckpt.restoreBuf = s.ckpt.restoreBuf := by
  exact ⟨rfl, rfl, rfl, rfl⟩

@[simp] theorem refreshNeighbours_mems (s : State) :
    Vector.map CoreState.mem (State.refreshNeighbours s).cores = Vector.map CoreState.mem s.cores
    ∧ (State.refreshNeighbours s).hbm.mem = s.hbm.mem
    ∧ (State.refreshNeighbours s).boot.sram = s.boot.sram
    ∧ (State.refreshNeighbours s).ckpt.restoreBuf = s.ckpt.restoreBuf := by
  simp [State.refreshNeighbours]

@[simp] theorem issueMatrix_mems (i : Issue) (plan : State → Origin → MatPlan) (s : State) :
    Vector.map CoreState.mem (State.issueMatrix i plan s).cores = Vector.map CoreState.mem s.cores
    ∧ (State.issueMatrix i plan s).hbm.mem = s.hbm.mem
    ∧ (State.issueMatrix i plan s).boot.sram = s.boot.sram
    ∧ (State.issueMatrix i plan s).ckpt.restoreBuf = s.ckpt.restoreBuf := by
  unfold State.issueMatrix
  dsimp only
  (repeat' split) <;> simp_all

@[simp] theorem freshJob_mems (s : State) :
    Vector.map CoreState.mem (State.freshJob s).cores = Vector.map CoreState.mem s.cores ∧ (State.freshJob s).hbm.mem = s.hbm.mem
      ∧ (State.freshJob s).boot.sram = s.boot.sram ∧ (State.freshJob s).ckpt.restoreBuf = s.ckpt.restoreBuf := by
  simp [State.freshJob]

@[simp] theorem startJob_mems (mode : Nat) (s : State) :
    Vector.map CoreState.mem (State.startJob mode s).cores = Vector.map CoreState.mem s.cores
      ∧ (State.startJob mode s).hbm.mem = s.hbm.mem ∧ (State.startJob mode s).boot.sram = s.boot.sram
      ∧ (State.startJob mode s).ckpt.restoreBuf = s.ckpt.restoreBuf := by
  simp [State.startJob]

@[simp] theorem haltJob_mems (seq : Nat) (s : State) :
    Vector.map CoreState.mem (State.haltJob seq s).2.cores = Vector.map CoreState.mem s.cores
      ∧ (State.haltJob seq s).2.hbm.mem = s.hbm.mem ∧ (State.haltJob seq s).2.boot.sram = s.boot.sram
      ∧ (State.haltJob seq s).2.ckpt.restoreBuf = s.ckpt.restoreBuf := by
  unfold State.haltJob
  (repeat' split) <;> simp

@[simp] theorem pointNow_mems (point : Nat) (s : State) :
    Vector.map CoreState.mem (State.pointNow point s).cores = Vector.map CoreState.mem s.cores
      ∧ (State.pointNow point s).hbm.mem = s.hbm.mem ∧ (State.pointNow point s).boot.sram = s.boot.sram
      ∧ (State.pointNow point s).ckpt.restoreBuf = s.ckpt.restoreBuf := by
  simp [State.pointNow]

@[simp] theorem pointLater_mems (point : Nat) (seq : Nat) (s : State) :
    Vector.map CoreState.mem (State.pointLater point seq s).cores = Vector.map CoreState.mem s.cores
    ∧ (State.pointLater point seq s).hbm.mem = s.hbm.mem
    ∧ (State.pointLater point seq s).boot.sram = s.boot.sram
    ∧ (State.pointLater point seq s).ckpt.restoreBuf = s.ckpt.restoreBuf := by
  simp [State.pointLater]

@[simp] theorem holdFault_mems (s : State) :
    Vector.map CoreState.mem (s.holdFault).cores = Vector.map CoreState.mem s.cores ∧ (s.holdFault).hbm.mem = s.hbm.mem
      ∧ (s.holdFault).boot.sram = s.boot.sram ∧ (s.holdFault).ckpt.restoreBuf = s.ckpt.restoreBuf := by
  unfold State.holdFault
  dsimp only
  simp [-Vector.map_map]

@[simp] theorem readBanks_mems (h : HostPlace) (a len : Nat) (s : State) :
    Vector.map CoreState.mem (State.readBanks h a len s).cores = Vector.map CoreState.mem s.cores
    ∧ (State.readBanks h a len s).hbm.mem = s.hbm.mem
    ∧ (State.readBanks h a len s).boot.sram = s.boot.sram ∧ (State.readBanks h a len s).ckpt.restoreBuf = s.ckpt.restoreBuf := by
  simp [State.readBanks]

@[simp] theorem logHostFault_mems (r : FaultRec) (s : State) :
    Vector.map CoreState.mem (State.logHostFault r s).cores = Vector.map CoreState.mem s.cores
      ∧ (State.logHostFault r s).hbm.mem = s.hbm.mem ∧ (State.logHostFault r s).boot.sram = s.boot.sram
      ∧ (State.logHostFault r s).ckpt.restoreBuf = s.ckpt.restoreBuf := by
  exact ⟨rfl, rfl, rfl, rfl⟩

@[simp] theorem hostUncorrected_mems (h : HostPlace) (a : Nat) (x : Session) (p : Packet) (opcode : Nat) (s : State) :
    Vector.map CoreState.mem (State.hostUncorrected h a x p opcode s).cores = Vector.map CoreState.mem s.cores
    ∧ (State.hostUncorrected h a x p opcode s).hbm.mem = s.hbm.mem
    ∧ (State.hostUncorrected h a x p opcode s).boot.sram = s.boot.sram ∧ (State.hostUncorrected h a x p opcode s).ckpt.restoreBuf = s.ckpt.restoreBuf := by
  simp [State.hostUncorrected]

@[simp] theorem publish_mems (t : Take) (id : Nat) (s : State) :
    Vector.map CoreState.mem (State.publish t id s).cores = Vector.map CoreState.mem s.cores
      ∧ (State.publish t id s).hbm.mem = s.hbm.mem ∧ (State.publish t id s).boot.sram = s.boot.sram
      ∧ (State.publish t id s).ckpt.restoreBuf = s.ckpt.restoreBuf := by
  exact ⟨rfl, rfl, rfl, rfl⟩

theorem replayShadow_mems (b : Bytes) (s t : State) (h : s.replayShadow b = some t) :
    Vector.map CoreState.mem t.cores = Vector.map CoreState.mem s.cores ∧ t.hbm.mem = s.hbm.mem ∧ t.boot.sram = s.boot.sram
      ∧ t.ckpt.restoreBuf = s.ckpt.restoreBuf := by
  unfold State.replayShadow at h
  dsimp only at h
  split at h
  · cases h
  · cases h; simp

@[simp] theorem loadReplay_mems (k : Nat) (s : State) (l : List Bytes) :
    Vector.map CoreState.mem (loadReplay k s l).2.2.cores = Vector.map CoreState.mem s.cores
      ∧ (loadReplay k s l).2.2.hbm.mem = s.hbm.mem ∧ (loadReplay k s l).2.2.boot.sram = s.boot.sram
      ∧ (loadReplay k s l).2.2.ckpt.restoreBuf = s.ckpt.restoreBuf := by
  induction l generalizing k s with
  | nil => exact ⟨rfl, rfl, rfl, rfl⟩
  | cons b l ih =>
    unfold loadReplay
    dsimp only
    split
    · split <;> simp [ih]
    · split
      · split
        · simp
        · split
          · simp
          · next t h => simpa [ih] using replayShadow_mems _ _ _ h
      · simp

@[simp] theorem completeStream_mems (s : State) :
    Vector.map CoreState.mem (State.completeStream s).cores = Vector.map CoreState.mem s.cores
      ∧ (State.completeStream s).hbm.mem = s.hbm.mem ∧ (State.completeStream s).boot.sram = s.boot.sram
      ∧ (State.completeStream s).ckpt.restoreBuf = s.ckpt.restoreBuf := by
  simp [State.completeStream]

@[simp] theorem crcEvidence_mems (r : Region) (core : Fin 8) (j : Nat) (prov : Byte) (u s : State) :
    Vector.map CoreState.mem ((crcEvidence u r core j prov).foldl (fun s e => s.apply e) s).cores = Vector.map CoreState.mem s.cores
      ∧ ((crcEvidence u r core j prov).foldl (fun s e => s.apply e) s).hbm.mem = s.hbm.mem
      ∧ ((crcEvidence u r core j prov).foldl (fun s e => s.apply e) s).boot.sram = s.boot.sram
      ∧ ((crcEvidence u r core j prov).foldl (fun s e => s.apply e) s).ckpt.restoreBuf = s.ckpt.restoreBuf := by
  unfold crcEvidence
  (repeat' split) <;> simp [State.apply]

@[simp] theorem ckptEvidence_mems (f : FaultRec) (s : State) :
    Vector.map CoreState.mem (State.ckptEvidence f s).cores = Vector.map CoreState.mem s.cores
      ∧ (State.ckptEvidence f s).hbm.mem = s.hbm.mem
      ∧ (State.ckptEvidence f s).boot.sram = s.boot.sram ∧ (State.ckptEvidence f s).ckpt.restoreBuf = s.ckpt.restoreBuf := by
  unfold State.ckptEvidence
  dsimp only
  split
  · exact ⟨rfl, rfl, rfl, rfl⟩
  · split
    · simp
    · split
      · split <;> exact crcEvidence_mems ..
      · exact ⟨rfl, rfl, rfl, rfl⟩

@[simp] theorem readPart_mems (n : Nat) (s : State) :
    Vector.map CoreState.mem (State.readPart n s).2.cores = Vector.map CoreState.mem s.cores
      ∧ (State.readPart n s).2.hbm.mem = s.hbm.mem ∧ (State.readPart n s).2.boot.sram = s.boot.sram
      ∧ (State.readPart n s).2.ckpt.restoreBuf = s.ckpt.restoreBuf := by
  unfold State.readPart
  dsimp only
  (repeat' split) <;> simp_all

@[simp] theorem restoreTables_mems (im : Image) (t : Nat) (s : State) :
    Vector.map CoreState.mem (State.restoreTables im t s).cores = Vector.map CoreState.mem s.cores
    ∧ (State.restoreTables im t s).hbm.mem = s.hbm.mem
    ∧ (State.restoreTables im t s).boot.sram = s.boot.sram
    ∧ (State.restoreTables im t s).ckpt.restoreBuf = s.ckpt.restoreBuf := by
  simp [State.restoreTables]

@[simp] theorem restoreClassB_mems (b : Bytes) (s : State) :
    Vector.map CoreState.mem (s.restoreClassB b).cores = Vector.map CoreState.mem s.cores ∧ (s.restoreClassB b).hbm.mem = s.hbm.mem
      ∧ (s.restoreClassB b).boot.sram = s.boot.sram ∧ (s.restoreClassB b).ckpt.restoreBuf = s.ckpt.restoreBuf := by
  unfold State.restoreClassB
  exact foldl_mems _ (fun s x => by dsimp only; split <;> simp) _ _

@[simp] theorem restoreRings_mems (im : Image) (s : State) :
    Vector.map CoreState.mem (s.restoreRings im).cores = Vector.map CoreState.mem s.cores ∧ (s.restoreRings im).hbm.mem = s.hbm.mem
      ∧ (s.restoreRings im).boot.sram = s.boot.sram ∧ (s.restoreRings im).ckpt.restoreBuf = s.ckpt.restoreBuf := by
  unfold State.restoreRings
  exact foldl_mems _ (fun s x => by dsimp only; split <;> simp) _ _

@[simp] theorem restoreCounts_mems (im : Image) (r : RestoreStream) (s : State) :
    Vector.map CoreState.mem (State.restoreCounts im r s).cores = Vector.map CoreState.mem s.cores
    ∧ (State.restoreCounts im r s).hbm.mem = s.hbm.mem
    ∧ (State.restoreCounts im r s).boot.sram = s.boot.sram
    ∧ (State.restoreCounts im r s).ckpt.restoreBuf = s.ckpt.restoreBuf := by
  simp [State.restoreCounts]

@[simp] theorem counterMismatch_mems (i : Issue) (s : State) :
    Vector.map CoreState.mem (State.counterMismatch i s).cores = Vector.map CoreState.mem s.cores ∧ (State.counterMismatch i s).hbm.mem = s.hbm.mem
      ∧ (State.counterMismatch i s).boot.sram = s.boot.sram ∧ (State.counterMismatch i s).ckpt.restoreBuf = s.ckpt.restoreBuf := by
  simp [State.counterMismatch, State.apply]

@[simp] theorem counterChange_mems (i : Issue) (e : Effect) (s : State) :
    Vector.map CoreState.mem (counterChange i e s).cores = Vector.map CoreState.mem s.cores ∧ (counterChange i e s).hbm.mem = s.hbm.mem
      ∧ (counterChange i e s).boot.sram = s.boot.sram ∧ (counterChange i e s).ckpt.restoreBuf = s.ckpt.restoreBuf := by
  simp [counterChange]

@[simp] theorem expectCheck_mems (i : Issue) (s : State) :
    Vector.map CoreState.mem (expectCheck i s).cores = Vector.map CoreState.mem s.cores ∧ (expectCheck i s).hbm.mem = s.hbm.mem
      ∧ (expectCheck i s).boot.sram = s.boot.sram ∧ (expectCheck i s).ckpt.restoreBuf = s.ckpt.restoreBuf := by
  simp [expectCheck]

@[simp] theorem authenticate_mems (x : Session) (p : Packet) (s : State) :
    Vector.map CoreState.mem (authenticate x p s).cores = Vector.map CoreState.mem s.cores ∧ (authenticate x p s).hbm.mem = s.hbm.mem
      ∧ (authenticate x p s).boot.sram = s.boot.sram ∧ (authenticate x p s).ckpt.restoreBuf = s.ckpt.restoreBuf := by
  unfold authenticate
  (repeat' split) <;> simp

@[simp] theorem drainNotice_mems (s : State) :
    Vector.map CoreState.mem (State.drainNotice s).cores = Vector.map CoreState.mem s.cores ∧ (State.drainNotice s).hbm.mem = s.hbm.mem
      ∧ (State.drainNotice s).boot.sram = s.boot.sram ∧ (State.drainNotice s).ckpt.restoreBuf = s.ckpt.restoreBuf := by
  unfold State.drainNotice
  (repeat' split) <;> simp

@[simp] theorem writeCfg_mems (w : CfgOp) (s : State) :
    Vector.map CoreState.mem (State.writeCfg w s).cores = Vector.map CoreState.mem s.cores ∧ (State.writeCfg w s).hbm.mem = s.hbm.mem
      ∧ (State.writeCfg w s).boot.sram = s.boot.sram ∧ (State.writeCfg w s).ckpt.restoreBuf = s.ckpt.restoreBuf := by
  simp [State.writeCfg]

@[simp] theorem answer_mems (port : Fin 2) (kind : Nat) (target : Nat) (dst : Nat) (data : Bytes) (s : State) :
    Vector.map CoreState.mem (State.answer port kind target dst data s).cores = Vector.map CoreState.mem s.cores
    ∧ (State.answer port kind target dst data s).hbm.mem = s.hbm.mem
    ∧ (State.answer port kind target dst data s).boot.sram = s.boot.sram
    ∧ (State.answer port kind target dst data s).ckpt.restoreBuf = s.ckpt.restoreBuf := by
  exact ⟨rfl, rfl, rfl, rfl⟩

@[simp] theorem setPtp_mems (port : Fin 2) (waits locked : Bool) (s : State) :
    Vector.map CoreState.mem (State.setPtp port waits locked s).cores = Vector.map CoreState.mem s.cores
    ∧ (State.setPtp port waits locked s).hbm.mem = s.hbm.mem
    ∧ (State.setPtp port waits locked s).boot.sram = s.boot.sram ∧ (State.setPtp port waits locked s).ckpt.restoreBuf = s.ckpt.restoreBuf := by
  exact ⟨rfl, rfl, rfl, rfl⟩

@[simp] theorem ptpMessage_mems (port : Fin 2) (kind : PtpKind) (locked : Bool) (taiNs : Nat) (s : State) :
    Vector.map CoreState.mem (State.ptpMessage port kind locked taiNs s).cores = Vector.map CoreState.mem s.cores
    ∧ (State.ptpMessage port kind locked taiNs s).hbm.mem = s.hbm.mem
    ∧ (State.ptpMessage port kind locked taiNs s).boot.sram = s.boot.sram ∧ (State.ptpMessage port kind locked taiNs s).ckpt.restoreBuf = s.ckpt.restoreBuf := by
  unfold State.ptpMessage
  (repeat' split) <;> simp

@[simp] theorem hbmAdvance_mems (h : HbmIssue) (s : State) :
    Vector.map CoreState.mem (State.hbmAdvance h s).cores = Vector.map CoreState.mem s.cores
      ∧ (State.hbmAdvance h s).hbm.mem = s.hbm.mem ∧ (State.hbmAdvance h s).boot.sram = s.boot.sram
      ∧ (State.hbmAdvance h s).ckpt.restoreBuf = s.ckpt.restoreBuf := by
  exact ⟨rfl, rfl, rfl, rfl⟩

@[simp] theorem setBank_mems (h : HbmIssue) (b : Bank) (s : State) :
    Vector.map CoreState.mem (State.setBank h b s).cores = Vector.map CoreState.mem s.cores ∧ (State.setBank h b s).hbm.mem = s.hbm.mem
      ∧ (State.setBank h b s).boot.sram = s.boot.sram ∧ (State.setBank h b s).ckpt.restoreBuf = s.ckpt.restoreBuf := by
  exact ⟨rfl, rfl, rfl, rfl⟩

@[simp] theorem trackLoop_mems (s : State) :
    Vector.map CoreState.mem (State.trackLoop s).cores = Vector.map CoreState.mem s.cores
    ∧ (State.trackLoop s).hbm.mem = s.hbm.mem
    ∧ (State.trackLoop s).boot.sram = s.boot.sram ∧ (State.trackLoop s).ckpt.restoreBuf = s.ckpt.restoreBuf := by
  exact ⟨rfl, rfl, rfl, rfl⟩

@[simp] theorem uncorrectedBurst_mems (pc : Nat) (bank : Nat) (row : Nat) (xfer : Nat) (addr : Nat) (s : State) :
    Vector.map CoreState.mem (State.uncorrectedBurst pc bank row xfer addr s).cores = Vector.map CoreState.mem s.cores
    ∧ (State.uncorrectedBurst pc bank row xfer addr s).hbm.mem = s.hbm.mem
    ∧ (State.uncorrectedBurst pc bank row xfer addr s).boot.sram = s.boot.sram
    ∧ (State.uncorrectedBurst pc bank row xfer addr s).ckpt.restoreBuf = s.ckpt.restoreBuf := by
  unfold State.uncorrectedBurst
  dsimp only
  (repeat' split) <;> simp_all

@[simp] theorem freeBurst_mems (s : State) :
    Vector.map CoreState.mem (State.freeBurst s).2.cores = Vector.map CoreState.mem s.cores
    ∧ (State.freeBurst s).2.hbm.mem = s.hbm.mem
    ∧ (State.freeBurst s).2.boot.sram = s.boot.sram ∧ (State.freeBurst s).2.ckpt.restoreBuf = s.ckpt.restoreBuf := by
  exact ⟨rfl, rfl, rfl, rfl⟩

@[simp] theorem readBurst_mems (h : HbmIssue) (sev : Severity) (row : Nat) (s : State) :
    Vector.map CoreState.mem (State.readBurst h sev row s).cores = Vector.map CoreState.mem s.cores
    ∧ (State.readBurst h sev row s).hbm.mem = s.hbm.mem
    ∧ (State.readBurst h sev row s).boot.sram = s.boot.sram ∧ (State.readBurst h sev row s).ckpt.restoreBuf = s.ckpt.restoreBuf := by
  unfold State.readBurst
  (repeat' split) <;> simp

@[simp] theorem reservedSlot_mems (kind : Nat) (channel : Nat) (s : State) :
    Vector.map CoreState.mem (State.reservedSlot kind channel s).cores = Vector.map CoreState.mem s.cores
    ∧ (State.reservedSlot kind channel s).hbm.mem = s.hbm.mem
    ∧ (State.reservedSlot kind channel s).boot.sram = s.boot.sram ∧ (State.reservedSlot kind channel s).ckpt.restoreBuf = s.ckpt.restoreBuf := by
  unfold State.reservedSlot
  (repeat' split) <;> simp

@[simp] theorem tap_mems (sel : JtagSel) (s : State) :
    Vector.map CoreState.mem (State.tap sel s).cores = Vector.map CoreState.mem s.cores ∧ (State.tap sel s).hbm.mem = s.hbm.mem
      ∧ (State.tap sel s).boot.sram = s.boot.sram ∧ (State.tap sel s).ckpt.restoreBuf = s.ckpt.restoreBuf := by
  simp [State.tap]

@[simp] theorem tapEmpty_mems (sel : JtagSel) (s : State) :
    Vector.map CoreState.mem (State.tapEmpty sel s).cores = Vector.map CoreState.mem s.cores
      ∧ (State.tapEmpty sel s).hbm.mem = s.hbm.mem ∧ (State.tapEmpty sel s).boot.sram = s.boot.sram
      ∧ (State.tapEmpty sel s).ckpt.restoreBuf = s.ckpt.restoreBuf := by
  simp [State.tapEmpty]

@[simp] theorem spyCtrl_mems (op : Nat) (core : Nat) (unit : Nat) (addr : Nat) (allowed : Bool) (s : State) :
    Vector.map CoreState.mem (State.spyCtrl op core unit addr allowed s).cores = Vector.map CoreState.mem s.cores
    ∧ (State.spyCtrl op core unit addr allowed s).hbm.mem = s.hbm.mem
    ∧ (State.spyCtrl op core unit addr allowed s).boot.sram = s.boot.sram
    ∧ (State.spyCtrl op core unit addr allowed s).ckpt.restoreBuf = s.ckpt.restoreBuf := by
  simp [State.spyCtrl]

@[simp] theorem spyWordOf_mems (s : State) (a : SpyAccess) :
    Vector.map CoreState.mem (State.spyWordOf s a).2.cores = Vector.map CoreState.mem s.cores
      ∧ (State.spyWordOf s a).2.hbm.mem = s.hbm.mem ∧ (State.spyWordOf s a).2.boot.sram = s.boot.sram
      ∧ (State.spyWordOf s a).2.ckpt.restoreBuf = s.ckpt.restoreBuf := by
  unfold State.spyWordOf
  dsimp only
  (repeat' split) <;> simp_all

@[simp] theorem ckptFlit_mems (slot : Nat) (s : State) :
    Vector.map CoreState.mem (s.ckptFlit slot).2.cores = Vector.map CoreState.mem s.cores ∧ (s.ckptFlit slot).2.hbm.mem = s.hbm.mem
      ∧ (s.ckptFlit slot).2.boot.sram = s.boot.sram ∧ (s.ckptFlit slot).2.ckpt.restoreBuf = s.ckpt.restoreBuf := by
  unfold State.ckptFlit
  have k := readPart_mems 256 s
  split <;> (rename_i h; rw [h] at k)
  · exact k
  · dsimp only; split <;> simpa using k

@[simp] theorem sendControl_mems (p : Fin 16) (slot : Nat) (c : Control) (s : State) :
    Vector.map CoreState.mem (State.sendControl p slot c s).2.cores = Vector.map CoreState.mem s.cores
    ∧ (State.sendControl p slot c s).2.hbm.mem = s.hbm.mem
    ∧ (State.sendControl p slot c s).2.boot.sram = s.boot.sram
    ∧ (State.sendControl p slot c s).2.ckpt.restoreBuf = s.ckpt.restoreBuf := by
  unfold State.sendControl
  (repeat' split) <;> simp

@[simp] theorem freeFlit_mems (p : Fin 16) (slot : Nat) (s : State) :
    Vector.map CoreState.mem (s.freeFlit p slot).2.cores = Vector.map CoreState.mem s.cores ∧ (s.freeFlit p slot).2.hbm.mem = s.hbm.mem
      ∧ (s.freeFlit p slot).2.boot.sram = s.boot.sram ∧ (s.freeFlit p slot).2.ckpt.restoreBuf = s.ckpt.restoreBuf := by
  unfold State.freeFlit
  dsimp only
  split
  · simp
  · simp
  · split
    · next n _ =>
      have k := ckptFlit_mems n s
      split
      · simp
      · split <;> (rename_i h; rw [h] at k; exact k)
    · simp

@[simp] theorem displaceCkpt_mems (p : Fin 16) (slot : Nat) (s : State) :
    Vector.map CoreState.mem (s.displaceCkpt p slot).cores = Vector.map CoreState.mem s.cores
      ∧ (s.displaceCkpt p slot).hbm.mem = s.hbm.mem ∧ (s.displaceCkpt p slot).boot.sram = s.boot.sram
      ∧ (s.displaceCkpt p slot).ckpt.restoreBuf = s.ckpt.restoreBuf := by
  unfold State.displaceCkpt
  have k := ckptFlit_mems slot s
  split <;> (rename_i h; rw [h] at k; simpa using k)

@[simp] theorem replyFlit_mems (x : ReplyPart) (s : State) :
    Vector.map CoreState.mem (State.replyFlit x s).2.cores = Vector.map CoreState.mem s.cores
    ∧ (State.replyFlit x s).2.hbm.mem = s.hbm.mem
    ∧ (State.replyFlit x s).2.boot.sram = s.boot.sram ∧ (State.replyFlit x s).2.ckpt.restoreBuf = s.ckpt.restoreBuf := by
  unfold State.replyFlit
  dsimp only
  (repeat' split) <;> simp

theorem foldlPair_mems {α β : Type} (f : β × State → α → β × State)
    (h : ∀ b x, Vector.map CoreState.mem (f b x).2.cores = Vector.map CoreState.mem b.2.cores ∧ (f b x).2.hbm.mem = b.2.hbm.mem
      ∧ (f b x).2.boot.sram = b.2.boot.sram ∧ (f b x).2.ckpt.restoreBuf = b.2.ckpt.restoreBuf) (l : List α) (b : β × State) :
    Vector.map CoreState.mem (l.foldl f b).2.cores = Vector.map CoreState.mem b.2.cores ∧ (l.foldl f b).2.hbm.mem = b.2.hbm.mem
      ∧ (l.foldl f b).2.boot.sram = b.2.boot.sram ∧ (l.foldl f b).2.ckpt.restoreBuf = b.2.ckpt.restoreBuf := by
  induction l generalizing b with
  | nil => exact ⟨rfl, rfl, rfl, rfl⟩
  | cons a t ih =>
    have k := h b a
    have j := ih (f b a)
    exact ⟨j.1.trans k.1, j.2.1.trans k.2.1, j.2.2.1.trans k.2.2.1, j.2.2.2.trans k.2.2.2⟩

@[simp] theorem bookedFlits_mems (p : Fin 16) (slot : Nat) (s : State) :
    Vector.map CoreState.mem (State.bookedFlits p slot s).2.cores = Vector.map CoreState.mem s.cores ∧ (State.bookedFlits p slot s).2.hbm.mem = s.hbm.mem
      ∧ (State.bookedFlits p slot s).2.boot.sram = s.boot.sram ∧ (State.bookedFlits p slot s).2.ckpt.restoreBuf = s.ckpt.restoreBuf := by
  unfold State.bookedFlits; dsimp only
  have e := foldlPair_mems (fun (acc : List Outgoing × State) r => (acc.1 ++ [⟨slot, s.now, 0, 0, (acc.2.replyFlit r).1⟩], (acc.2.replyFlit r).2))
    (fun b x => by simp) ((s.port p).replies.filter (fun r => r.start == s.now))
    (((s.port p).booked.filter (fun b => b.1 == s.now)).map (fun b => ⟨slot, s.now, 0, 0, b.2⟩), s.modPort p (fun x => { x with
      booked := x.booked.filter (fun b => b.1 != s.now), replies := x.replies.filter (fun r => r.start != s.now) }))
  exact ⟨e.1.trans (by simp), e.2.1.trans (by simp), e.2.2.1.trans (by simp), e.2.2.2.trans (by simp)⟩

@[simp] theorem positionFlit_mems (p : Fin 16) (slot : Nat) (kind : Nat) (s : State) :
    Vector.map CoreState.mem (State.positionFlit p slot kind s).2.cores = Vector.map CoreState.mem s.cores ∧ (State.positionFlit p slot kind s).2.hbm.mem = s.hbm.mem
      ∧ (State.positionFlit p slot kind s).2.boot.sram = s.boot.sram ∧ (State.positionFlit p slot kind s).2.ckpt.restoreBuf = s.ckpt.restoreBuf := by
  unfold State.positionFlit
  split
  · simp
  · dsimp only
    have kb : Vector.map CoreState.mem (if s.scheduleRuns then s.bookedFlits p slot else ([], s)).2.cores = Vector.map CoreState.mem s.cores ∧ (if s.scheduleRuns then s.bookedFlits p slot else ([], s)).2.hbm.mem = s.hbm.mem ∧ (if s.scheduleRuns then s.bookedFlits p slot else ([], s)).2.boot.sram = s.boot.sram ∧ (if s.scheduleRuns then s.bookedFlits p slot else ([], s)).2.ckpt.restoreBuf = s.ckpt.restoreBuf := by
      split <;> simp
    generalize (if s.scheduleRuns then s.bookedFlits p slot else ([], s)) = y at kb ⊢
    split
    · split <;> simp [kb]
    · split <;> simp [kb]
    · split
      · exact kb
      · split
        · have k := ckptFlit_mems slot y.2
          split <;> (rename_i h; rw [h] at k; simpa [kb] using k)
        · simp [kb]

@[simp] theorem failPort_mems (p : Fin 16) (s : State) :
    Vector.map CoreState.mem (State.failPort p s).cores = Vector.map CoreState.mem s.cores ∧ (State.failPort p s).hbm.mem = s.hbm.mem
      ∧ (State.failPort p s).boot.sram = s.boot.sram ∧ (State.failPort p s).ckpt.restoreBuf = s.ckpt.restoreBuf := by
  simp [State.failPort]

@[simp] theorem linkPoison_mems (p : Fin 16) (core : Nat) (cause : Nat) (position : Nat) (s : State) :
    Vector.map CoreState.mem (State.linkPoison p core cause position s).cores = Vector.map CoreState.mem s.cores
    ∧ (State.linkPoison p core cause position s).hbm.mem = s.hbm.mem
    ∧ (State.linkPoison p core cause position s).boot.sram = s.boot.sram
    ∧ (State.linkPoison p core cause position s).ckpt.restoreBuf = s.ckpt.restoreBuf := by
  simp [State.linkPoison]

@[simp] theorem askFor_mems (p : Fin 16) (d : Damaged) (s : State) :
    Vector.map CoreState.mem (State.askFor p d s).cores = Vector.map CoreState.mem s.cores
    ∧ (State.askFor p d s).hbm.mem = s.hbm.mem
    ∧ (State.askFor p d s).boot.sram = s.boot.sram ∧ (State.askFor p d s).ckpt.restoreBuf = s.ckpt.restoreBuf := by
  simp [State.askFor]

@[simp] theorem takeDamaged_mems (p : Fin 16) (f : Flit) (s : State) :
    Vector.map CoreState.mem (State.takeDamaged p f s).cores = Vector.map CoreState.mem s.cores
      ∧ (State.takeDamaged p f s).hbm.mem = s.hbm.mem ∧ (State.takeDamaged p f s).boot.sram = s.boot.sram
      ∧ (State.takeDamaged p f s).ckpt.restoreBuf = s.ckpt.restoreBuf := by
  unfold State.takeDamaged
  dsimp only
  (repeat' split) <;> simp_all

@[simp] theorem askAgain_mems (p : Fin 16) (s : State) :
    Vector.map CoreState.mem (State.askAgain p s).cores = Vector.map CoreState.mem s.cores
    ∧ (State.askAgain p s).hbm.mem = s.hbm.mem
    ∧ (State.askAgain p s).boot.sram = s.boot.sram ∧ (State.askAgain p s).ckpt.restoreBuf = s.ckpt.restoreBuf := by
  simp [State.askAgain]

@[simp] theorem resolveCopy_mems (p : Fin 16) (f : Flit) (s : State) :
    Vector.map CoreState.mem (State.resolveCopy p f s).cores = Vector.map CoreState.mem s.cores
      ∧ (State.resolveCopy p f s).hbm.mem = s.hbm.mem ∧ (State.resolveCopy p f s).boot.sram = s.boot.sram
      ∧ (State.resolveCopy p f s).ckpt.restoreBuf = s.ckpt.restoreBuf := by
  simp [State.resolveCopy]

@[simp] theorem arrivalFault_mems (x : RxEntry) (kind : Nat) (region : Nat) (op : Nat) (off : Nat) (tile : Nat) (detail : Nat) (s : State) :
    Vector.map CoreState.mem (State.arrivalFault x kind region op off tile detail s).cores = Vector.map CoreState.mem s.cores
    ∧ (State.arrivalFault x kind region op off tile detail s).hbm.mem = s.hbm.mem
    ∧ (State.arrivalFault x kind region op off tile detail s).boot.sram = s.boot.sram
    ∧ (State.arrivalFault x kind region op off tile detail s).ckpt.restoreBuf = s.ckpt.restoreBuf := by
  simp [State.arrivalFault]

@[simp] theorem arrivalData_mems (p : Fin 16) (x : RxEntry) (region : Nat) (payload : Bytes) (s : State) :
    Vector.map CoreState.mem (State.arrivalData p x region payload s).2.2.cores = Vector.map CoreState.mem s.cores
    ∧ (State.arrivalData p x region payload s).2.2.hbm.mem = s.hbm.mem
    ∧ (State.arrivalData p x region payload s).2.2.boot.sram = s.boot.sram
    ∧ (State.arrivalData p x region payload s).2.2.ckpt.restoreBuf = s.ckpt.restoreBuf := by
  unfold State.arrivalData
  (repeat' split) <;> simp

@[simp] theorem serveGet_mems (p : Fin 16) (x : RxEntry) (payload : Bytes) (s : State) :
    Vector.map CoreState.mem (State.serveGet p x payload s).cores = Vector.map CoreState.mem s.cores
    ∧ (State.serveGet p x payload s).hbm.mem = s.hbm.mem
    ∧ (State.serveGet p x payload s).boot.sram = s.boot.sram
    ∧ (State.serveGet p x payload s).ckpt.restoreBuf = s.ckpt.restoreBuf := by
  unfold State.serveGet
  (repeat' split) <;> simp

@[simp] theorem takeCheckFlit_mems (p : Fin 16) (x : RxEntry) (payload : Bytes) (s : State) :
    Vector.map CoreState.mem (State.takeCheckFlit p x payload s).cores = Vector.map CoreState.mem s.cores
    ∧ (State.takeCheckFlit p x payload s).hbm.mem = s.hbm.mem
    ∧ (State.takeCheckFlit p x payload s).boot.sram = s.boot.sram
    ∧ (State.takeCheckFlit p x payload s).ckpt.restoreBuf = s.ckpt.restoreBuf := by
  unfold State.takeCheckFlit
  (repeat' split) <;> simp

@[simp] theorem endRun_mems (p : Fin 16) (x : RxEntry) (s : State) :
    Vector.map CoreState.mem (State.endRun p x s).cores = Vector.map CoreState.mem s.cores ∧ (State.endRun p x s).hbm.mem = s.hbm.mem
      ∧ (State.endRun p x s).boot.sram = s.boot.sram ∧ (State.endRun p x s).ckpt.restoreBuf = s.ckpt.restoreBuf := by
  unfold State.endRun
  (repeat' split) <;> simp

@[simp] theorem recordLane_mems (p : Fin 16) (lane : Nat) (s : State) :
    Vector.map CoreState.mem (State.recordLane p lane s).cores = Vector.map CoreState.mem s.cores
    ∧ (State.recordLane p lane s).hbm.mem = s.hbm.mem
    ∧ (State.recordLane p lane s).boot.sram = s.boot.sram
    ∧ (State.recordLane p lane s).ckpt.restoreBuf = s.ckpt.restoreBuf := by
  simp [State.recordLane]

@[simp] theorem checkLinkClock_mems (s : State) :
    Vector.map CoreState.mem (State.checkLinkClock s).cores = Vector.map CoreState.mem s.cores
    ∧ (State.checkLinkClock s).hbm.mem = s.hbm.mem
    ∧ (State.checkLinkClock s).boot.sram = s.boot.sram ∧ (State.checkLinkClock s).ckpt.restoreBuf = s.ckpt.restoreBuf := by
  simp [State.checkLinkClock]

@[simp] theorem loseLane_mems (p : Fin 16) (rx : Bool) (lane : Nat) (s : State) :
    Vector.map CoreState.mem (State.loseLane p rx lane s).cores = Vector.map CoreState.mem s.cores
    ∧ (State.loseLane p rx lane s).hbm.mem = s.hbm.mem
    ∧ (State.loseLane p rx lane s).boot.sram = s.boot.sram ∧ (State.loseLane p rx lane s).ckpt.restoreBuf = s.ckpt.restoreBuf := by
  simp [State.loseLane]

@[simp] theorem holdReport_mems (x : Session) (r : Bytes) (s : State) :
    Vector.map CoreState.mem (State.holdReport x r s).cores = Vector.map CoreState.mem s.cores
      ∧ (State.holdReport x r s).hbm.mem = s.hbm.mem ∧ (State.holdReport x r s).boot.sram = s.boot.sram
      ∧ (State.holdReport x r s).ckpt.restoreBuf = s.ckpt.restoreBuf := by
  simp [State.holdReport]

@[simp] theorem reportFor_mems (x : Session) (nonce : Bytes) (s : State) :
    Vector.map CoreState.mem (State.reportFor x nonce s).2.cores = Vector.map CoreState.mem s.cores
    ∧ (State.reportFor x nonce s).2.hbm.mem = s.hbm.mem
    ∧ (State.reportFor x nonce s).2.boot.sram = s.boot.sram
    ∧ (State.reportFor x nonce s).2.ckpt.restoreBuf = s.ckpt.restoreBuf := by
  unfold State.reportFor
  (repeat' split) <;> simp

@[simp] theorem openPort_mems (s : State) :
    Vector.map CoreState.mem (State.openPort s).cores = Vector.map CoreState.mem s.cores ∧ (State.openPort s).hbm.mem = s.hbm.mem
      ∧ (State.openPort s).boot.sram = s.boot.sram ∧ (State.openPort s).ckpt.restoreBuf = s.ckpt.restoreBuf := by
  simp [State.openPort]

@[simp] theorem retire_mems (s : State) :
    Vector.map CoreState.mem (State.retire s).cores = Vector.map CoreState.mem s.cores
    ∧ (State.retire s).hbm.mem = s.hbm.mem
    ∧ (State.retire s).boot.sram = s.boot.sram ∧ (State.retire s).ckpt.restoreBuf = s.ckpt.restoreBuf := by
  exact ⟨rfl, rfl, rfl, rfl⟩

@[simp] theorem refreshBusy_mems (s : State) :
    Vector.map CoreState.mem (State.refreshBusy s).cores = Vector.map CoreState.mem s.cores ∧ (State.refreshBusy s).hbm.mem = s.hbm.mem
      ∧ (State.refreshBusy s).boot.sram = s.boot.sram ∧ (State.refreshBusy s).ckpt.restoreBuf = s.ckpt.restoreBuf := by
  unfold State.refreshBusy
  refine foldl_mems _ (fun t r => ?_) _ _
  split
  · exact ⟨rfl, rfl, rfl, rfl⟩
  · split <;> simp

@[simp] theorem prune_mems (s : State) :
    Vector.map CoreState.mem (State.prune s).cores = Vector.map CoreState.mem s.cores
    ∧ (State.prune s).hbm.mem = s.hbm.mem
    ∧ (State.prune s).boot.sram = s.boot.sram ∧ (State.prune s).ckpt.restoreBuf = s.ckpt.restoreBuf := by
  exact ⟨rfl, rfl, rfl, rfl⟩

@[simp] theorem drainNotices_mems (n : Nat) (s : State) :
    Vector.map CoreState.mem (State.drainNotices n s).cores = Vector.map CoreState.mem s.cores
      ∧ (State.drainNotices n s).hbm.mem = s.hbm.mem ∧ (State.drainNotices n s).boot.sram = s.boot.sram
      ∧ (State.drainNotices n s).ckpt.restoreBuf = s.ckpt.restoreBuf := by
  induction n generalizing s with
  | zero => exact ⟨rfl, rfl, rfl, rfl⟩
  | succ n ih => simp [State.drainNotices, ih]

@[simp] theorem count_mems (s : State) :
    Vector.map CoreState.mem (State.count s).cores = Vector.map CoreState.mem s.cores ∧ (State.count s).hbm.mem = s.hbm.mem
      ∧ (State.count s).boot.sram = s.boot.sram ∧ (State.count s).ckpt.restoreBuf = s.ckpt.restoreBuf := by
  simp [State.count]

@[simp] theorem suspectHold_mems (s : State) :
    Vector.map CoreState.mem (State.suspectHold s).cores = Vector.map CoreState.mem s.cores ∧ (State.suspectHold s).hbm.mem = s.hbm.mem
      ∧ (State.suspectHold s).boot.sram = s.boot.sram ∧ (State.suspectHold s).ckpt.restoreBuf = s.ckpt.restoreBuf := by
  simp [State.suspectHold]

@[simp] theorem withFetchWord_mems (s : State) (nbits : Nat) (w : Nat) :
    Vector.map CoreState.mem (State.withFetchWord s nbits w).cores = Vector.map CoreState.mem s.cores
    ∧ (State.withFetchWord s nbits w).hbm.mem = s.hbm.mem
    ∧ (State.withFetchWord s nbits w).boot.sram = s.boot.sram
    ∧ (State.withFetchWord s nbits w).ckpt.restoreBuf = s.ckpt.restoreBuf := by
  exact ⟨rfl, rfl, rfl, rfl⟩

end Sys2Proof.Machine
end

