-- ==== Sys2Proof/Laws/Canonical.lean ====
section
/-! SUPPORT. The operations that write memory keep its canonical form: one lemma for each, cited instead of unfolding it. -/
namespace Sys2Proof.Machine

/-- A state whose memories are another's has them canonical where the other has. -/
theorem State.Canonical.of_mems {s t : State} (h : s.Canonical) (e : Vector.map CoreState.mem t.cores = Vector.map CoreState.mem s.cores
    ∧ t.hbm.mem = s.hbm.mem ∧ t.boot.sram = s.boot.sram ∧ t.ckpt.restoreBuf = s.ckpt.restoreBuf) : t.Canonical := by
  refine ⟨fun c => ?_, by rw [e.2.1]; exact h.2.1, by rw [e.2.2.1]; exact h.2.2.1, by rw [e.2.2.2]; exact h.2.2.2⟩
  have k : (t.core c).mem = (s.core c).mem := by
    have := congrArg (fun v : Vector Memory 8 => v[c]) e.1
    simpa [State.core] using this
  rw [k]; exact h.1 c

theorem State.Canonical.foldl {α : Type} {f : State → α → State} (hf : ∀ s x, s.Canonical → (f s x).Canonical) (l : List α) {s : State}
    (h : s.Canonical) : (l.foldl f s).Canonical := by
  induction l generalizing s with
  | nil => exact h
  | cons a t ih => exact ih (hf s a h)

theorem State.Canonical.ite {p : Prop} [Decidable p] {s t : State} (h : s.Canonical) (k : t.Canonical) :
    (if p then s else t).Canonical := by split <;> assumption

/-- A change of one core that keeps its slice canonical. -/
theorem State.Canonical.modCore {s : State} (h : s.Canonical) (c : Fin 8) (f : CoreState → CoreState)
    (hf : (s.core c).mem.wf = true → (f (s.core c)).mem.wf = true) : (s.modCore c f).Canonical := by
  refine ⟨fun d => ?_, h.2.1, h.2.2.1, h.2.2.2⟩
  show ((s.setCore c (f (s.core c))).core d).mem.wf = true
  have : (s.setCore c (f (s.core c))).core d = if c = d then f (s.core c) else s.core d := by
    simp only [State.core, State.setCore, Fin.getElem_fin, Vector.getElem_set, Fin.ext_iff]
  rw [this]; split
  · exact hf (h.1 c)
  · exact h.1 d

/-- A change of HBM that keeps it canonical. -/
theorem State.Canonical.withHbm {s : State} (h : s.Canonical) (x : HbmState) (hx : x.mem.wf = true) : ({ s with hbm := x } : State).Canonical :=
  ⟨h.1, hx, h.2.2.1, h.2.2.2⟩

/-- A change of the boot ROM's state that keeps its SRAM canonical. -/
theorem State.Canonical.withBoot {s : State} (h : s.Canonical) (x : BootState) (hx : x.sram.wf = true) :
    ({ s with boot := x } : State).Canonical :=
  ⟨h.1, h.2.1, hx, h.2.2.2⟩

theorem Memory.wf_nil : Memory.wf [] = true := rfl

theorem State.Canonical.apply {s : State} (h : s.Canonical) (e : Effect) : (s.apply e).Canonical := by
  cases e with
  | sp c a w k l =>
    have k : (s.remember (some c) (spOffset a) l.length).Canonical := h
    exact k.modCore c _ (fun hm => wf_spStore w hm a l)
  | hbm a l => exact State.Canonical.withHbm (s := s.remember none a l.length) h _ (Memory.wf_writeBytes h.2.1 a l)
  | i48 c a k i x =>
    simp only [State.apply]
    have h2 : ((s.remember (some c) (spOffset a) 8).remember (some c) (s.cfg.workBase.toNat + 16 * i) 16).Canonical := h
    refine h2.modCore c _ (fun hm => ?_)
    replace hm : (s.core c).mem.wf = true := hm
    have hk : (spAdd48 (s.core c).mem a x).1.wf = true := by rw [spAdd48_mem]; exact wf_spStore _ hm _ _
    dsimp only
    rw [show ((s.remember (some c) (spOffset a) 8).remember (some c) (s.cfg.workBase.toNat + 16 * i) 16).core c = s.core c from rfl]
    generalize spAdd48 (s.core c).mem a x = y at hk ⊢
    split
    · exact wf_spWrite _ hk _ _
    · exact hk
  | slotOr c i g =>
    have k : (s.remember (some c) (s.cfg.workBase.toNat + 16 * i) 16).Canonical := h
    simp only [State.apply]
    refine k.modCore c _ (fun hm => ?_)
    dsimp only
    exact wf_spWrite _ hm _ _
  | crossed c a => exact h.modCore c _ id
  | rowCorrected a => exact h.of_mems (by simp [State.apply])
  | vecDone c f => exact h.modCore c _ id
  | tables c i a q => exact h.modCore c _ id
  | normAdd c g x n => exact h.modCore c _ id
  | groupSet c g e =>
    simp only [State.apply]
    apply State.Canonical.modCore
    · exact h
    · exact id
  | lanesAdd c g d w => exact h.modCore c _ id
  | stepCalc c x => exact h.modCore c _ id
  | shaSlot c n x => exact h.modCore c _ id
  | gnorm x => exact h.of_mems ⟨map_mem_map _ _ (fun _ => rfl), rfl, rfl, rfl⟩
  | ratioBand e g => exact h.of_mems (by simp [State.apply])
  | fault r => exact h.of_mems (by simp [State.apply])
  | corrected b n => exact h.of_mems (by simp [State.apply])
  | suspect r c => exact h.of_mems (by simp [State.apply])
  | repair e => exact h.of_mems (by simp [State.apply])
  | book p t x => exact h.of_mems (by simp [State.apply])
  | _ => exact h

theorem landOne_canonical (a : State × List BankUse) (t : Timed) (h : a.1.Canonical) : (landOne a t).1.Canonical := by
  obtain ⟨s, u⟩ := a
  replace h : s.Canonical := h
  unfold landOne; dsimp only
  split
  · exact h.apply _
  · split
    · exact h.of_mems (by simp)
    · split
      · exact h.of_mems (by simp)
      · dsimp only
        exact (State.Canonical.ite h (h.of_mems (by simp))).apply _

theorem landAll_canonical (l : List Timed) (a : State × List BankUse) (h : a.1.Canonical) : (l.foldl landOne a).1.Canonical := by
  induction l generalizing a with
  | nil => exact h
  | cons t l ih => exact ih _ (landOne_canonical a t h)

theorem State.Canonical.settle {s : State} (h : s.Canonical) (t : Timed) : (s.settle t).Canonical := by
  unfold State.settle; split
  · split
    · exact h
    · exact h.apply _
  · exact h.apply _

theorem State.Canonical.land {s : State} (h : s.Canonical) : s.land.Canonical := by
  unfold State.land; dsimp only
  have h1 : s.landEarly.Canonical := landAll_canonical (dueOrder (s.effectsNow.filter Timed.early)) (s, []) h
  generalize s.landEarly = s1 at h1 ⊢
  generalize (_ ++ _ : List Timed) = l
  have h2 : (l.foldl State.settle s1).Canonical := State.Canonical.foldl (fun s t hs => hs.settle t) _ h1
  generalize l.foldl State.settle s1 = s2 at h2 ⊢
  have h3 : ({ s2 with inflight := s2.inflight.filter (fun t => decide (s2.now < t.at_)) } : State).Canonical := h2
  generalize ({ s2 with inflight := s2.inflight.filter (fun t => decide (s2.now < t.at_)) } : State) = s3 at h3 ⊢
  exact State.Canonical.ite (h3.of_mems (by simp)) h3

theorem State.Canonical.accessNow {s : State} (h : s.Canonical) (l : List Timed) : (s.accessNow l).Canonical := by
  unfold State.accessNow; split
  · exact h
  · exact landAll_canonical _ _ h

theorem State.Canonical.advance {s : State} (h : s.Canonical) (i : Issue) (n : Nat) : (s.advance i n).Canonical := h.modCore _ _ id

theorem State.Canonical.commit {s : State} (h : s.Canonical) : s.commit.Canonical := by
  unfold State.commit; dsimp only
  generalize ht : State.apply _ s = t
  have k : t.Canonical := by rw [← ht]; exact h.apply _
  exact k.of_mems (by simp [-Vector.map_map])

theorem State.Canonical.barrierActions {s : State} (h : s.Canonical) (r : BarrierRec) : (s.barrierActions r).Canonical := by
  have h1 : (if r.commit then s.commit else s).Canonical := h.commit.ite h
  unfold State.barrierActions; dsimp only
  generalize (if r.commit then s.commit else s) = u at h1
  split
  · split <;> exact h1.of_mems (by simp)
  · exact h1.of_mems (by simp)

theorem State.Canonical.evaluate {s : State} (h : s.Canonical) (r : BarrierRec) : (s.evaluate r).Canonical := by
  have h1 : s.watchBarrier.Canonical := h.of_mems (by simp)
  unfold State.evaluate; dsimp only
  split
  · exact h1.of_mems (by simp)
  · split
    · exact h1.of_mems (by simp)
    · split
      · exact h1.of_mems (by simp)
      · exact h1.barrierActions r

theorem State.Canonical.resumeStart {s : State} (h : s.Canonical) : s.resumeStart.Canonical := by
  have h1 : ({ s with job := { s.job with starting := false } } : State).Canonical := h
  unfold State.resumeStart; dsimp only
  split
  · exact h1.of_mems (by simp)
  · exact h1.evaluate _
  · exact h1
  · exact h1.of_mems (by simp)

/-! ### Loading and restoring -/

theorem State.Canonical.writePlace {s : State} (h : s.Canonical) (r : Region) (ext : List (Nat × Nat)) (f : Nat → Memory → Memory)
    (hf : ∀ n m, m.wf = true → (f n m).wf = true) : (writePlace r ext f s).Canonical := by
  unfold Machine.writePlace; split
  · exact h.withHbm _ (hf _ _ h.2.1)
  · refine State.Canonical.foldl (fun s c hs => ?_) _ h
    split
    · exact hs.modCore c _ (hf _ _)
    · exact hs

theorem foldl_wf {α : Type} {f : Memory → α → Memory} (hf : ∀ m x, m.wf = true → (f m x).wf = true) (l : List α) {m : Memory}
    (h : m.wf = true) : (l.foldl f m).wf = true := by
  induction l generalizing m with
  | nil => exact h
  | cons a t ih => exact ih (hf m a h)

theorem Memory.wfFrom_filter (p : Host.Cell → Bool) : ∀ {lo : Nat} {m : Memory}, wfFrom lo m = true → wfFrom lo (m.filter p) = true
  | _, [], _ => rfl
  | lo, (a, b) :: t, h => by
    simp only [Memory.wfFrom, Bool.and_eq_true, decide_eq_true_eq] at h
    simp only [List.filter_cons]; split
    · simp only [Memory.wfFrom, Bool.and_eq_true, decide_eq_true_eq]
      exact ⟨h.1, Memory.wfFrom_filter p h.2⟩
    · exact Memory.wfFrom_mono (by omega) (Memory.wfFrom_filter p h.2)

theorem State.Canonical.sealTiles {s : State} (h : s.Canonical) (rs : List Region) (r : Region) (pv : Nat → Byte) (e : List (Nat × Nat)) :
    (sealTiles rs r pv e s).Canonical := by
  unfold Machine.sealTiles; split
  · exact h
  · exact h.writePlace r _ _ (fun n m hm => foldl_wf (fun m j hm => Memory.wf_write (Memory.wf_writeBytes hm _ _) _ _) _ hm)

theorem State.Canonical.writeInit {s : State} (h : s.Canonical) (rs : List Region) (d : InitData) : (writeInit rs s d).Canonical :=
  (h.writePlace _ _ _ (fun _ _ hm => Memory.wf_writeBytes hm _ _)).sealTiles _ _ _ _

theorem State.Canonical.writeShelf {s : State} (h : s.Canonical) (im : Image) (rs : List Region) (i : Nat) : (writeShelf im rs s i).Canonical :=
  (h.writePlace _ _ _ (fun _ _ hm => Memory.wf_writeBytes (Memory.wfFrom_filter _ hm) _ _)).sealTiles _ _ _ _

theorem State.Canonical.writeLedger {s : State} (h : s.Canonical) (im : Image) (rs : List Region) : (writeLedger im rs s).Canonical :=
  State.Canonical.foldl (fun _ i hs => hs.writeShelf im rs i) _ h

theorem State.Canonical.installImage {s : State} (h : s.Canonical) (b : Bytes) : (installImage b s).Canonical := by
  unfold Machine.installImage; dsimp only
  refine State.Canonical.of_mems (State.Canonical.writeLedger (State.Canonical.foldl (fun s d hs => hs.writeInit _ d) _ ?_) _ _) (by simp; exact ⟨rfl, rfl, rfl, rfl⟩)
  exact h.of_mems ⟨map_mem_map _ _ (fun _ => rfl), rfl, rfl, rfl⟩

theorem State.Canonical.loadImage {s : State} (h : s.Canonical) (o n : Nat) : (loadImage o n s).2.Canonical := by
  unfold Machine.loadImage; dsimp only
  split; · exact h
  split; · exact h
  split; · exact h
  split
  · have k := h.installImage (s.hbm.mem.readBytes (s.staging.1 + o) n)
    dsimp only; exact k
  · dsimp only; exact h.of_mems (by simp)

theorem State.Canonical.unloadJob {s : State} (h : s.Canonical) : s.unloadJob.Canonical := by
  unfold State.unloadJob; dsimp only
  have h1 : ({ s with ckpt := { s.ckpt with restoreBuf := [] } } : State).Canonical := ⟨h.1, h.2.1, h.2.2.1, rfl⟩
  refine h1.of_mems ?_
  simp [-Vector.map_map, CoreState.atLoad]

theorem State.Canonical.restoreTile {s : State} (h : s.Canonical) (i j : Nat) (d : Bytes) : (s.restoreTile i j d).Canonical := by
  unfold State.restoreTile; dsimp only
  refine h.writePlace _ _ _ (fun n m hm => ?_)
  have k := foldl_wf (f := fun m (x : Nat × Bytes) => m.writeBytes x.1 x.2) (fun m x hm => Memory.wf_writeBytes hm _ _)
    ((((s.region i).segments j).mapIdx (fun k o => ((s.region i).base + o, slice (k * (s.region i).segment) (s.region i).segment d)))) hm
  split
  · exact Memory.wf_write (Memory.wf_writeBytes k _ _) _ _
  · exact k

theorem State.Canonical.restoreTensor {s : State} (h : s.Canonical) (x : StreamSection) (p : TensorPlace) : (s.restoreTensor x p).Canonical := by
  unfold State.restoreTensor; dsimp only
  refine State.Canonical.foldl (fun s t hs => ?_) _ h
  split
  · exact State.Canonical.foldl (fun s i hs => hs.restoreTile i _ _) _ hs
  · exact hs

theorem State.Canonical.spoilShelf {s : State} (h : s.Canonical) (shelf : Bool) : (s.spoilShelf shelf).Canonical := by
  unfold State.spoilShelf; simp only [State.drawFree]
  refine State.Canonical.foldl (fun s p hs => ?_) _ ?_
  · split
    · exact hs
    · exact State.Canonical.foldl (fun s t hs => hs.writePlace _ _ _ (fun n _ hm =>
        foldl_wf (fun m o hm => Memory.wf_writeBytes hm _ _) _ hm)) _ hs
  · exact h

theorem State.Canonical.spoilSlot {s : State} (h : s.Canonical) (shelf : Bool) : (s.spoilSlot shelf).Canonical := by
  unfold State.spoilSlot; simp only [State.drawFree]
  exact State.Canonical.apply (s := { s with free := s.free + 1 }) h _

theorem State.Canonical.restore {s : State} (h : s.Canonical) (im : Image) (r : RestoreStream) : (s.restore im r).Canonical := by
  unfold State.restore; dsimp only
  generalize hu : List.foldl _ s s.heldTensors = u
  have h1 : u.Canonical := by
    rw [← hu]
    refine State.Canonical.foldl (fun s p hs => ?_) _ h
    split
    · exact hs.restoreTensor _ p
    · exact hs
  generalize hv : State.apply _ _ = v
  have h2 : v.Canonical := by rw [← hv]; exact ((h1.spoilShelf true).spoilSlot true).apply _
  have h3 : ({ v with ckpt := { v.ckpt with restoreBuf := [] } } : State).Canonical := ⟨h2.1, h2.2.1, h2.2.2.1, rfl⟩
  exact h3.of_mems (by simp)

/-! ### The host's writes and the link's arrivals -/

theorem State.Canonical.writeAt {s : State} (h : s.Canonical) (p : HostPlace) (a : Nat) (d : Bytes) : (s.writeAt p a d).Canonical := by
  unfold State.writeAt; dsimp only
  (repeat' split) <;> first | exact h.apply _ | exact h

theorem State.Canonical.hostWrite {s : State} (h : s.Canonical) (p : HostPlace) (o : Nat) (d : Bytes) : (s.hostWrite p o d).Canonical := by
  unfold State.hostWrite; dsimp only; split
  · exact h.writeAt _ _ _
  · split
    · exact h.writeAt _ _ _
    · exact State.Canonical.foldl (fun s j hs => (hs.writeAt _ _ _).writeAt _ _ _) _ (h.writeAt _ _ _)

theorem State.Canonical.arriveBytes {s : State} (h : s.Canonical) (x : RxEntry) (r : Region) (w : WriteOp) (o : Nat) (d : Bytes) :
    (s.arriveBytes x r w o d).Canonical := by
  unfold State.arriveBytes; dsimp only; split
  · exact h.apply _
  · exact h.accessNow _

theorem State.Canonical.arriveAdds {s : State} (h : s.Canonical) (x : RxEntry) (r o : Nat) (d : Bytes) : (s.arriveAdds x r o d).Canonical := by
  unfold State.arriveAdds; dsimp only; split
  · refine State.Canonical.foldl (fun s y hs => ?_) _ h
    split
    · exact (hs.apply _).apply _
    · exact hs.apply _
  · exact h.accessNow _

theorem State.Canonical.arriveEntry {s : State} (h : s.Canonical) (x : RxEntry) (r : Region) (t c : Nat) (p : Byte) :
    (s.arriveEntry x r t c p).Canonical := by
  unfold State.arriveEntry; split
  · exact h
  · dsimp only; split
    · exact State.Canonical.foldl (fun s t hs => hs.apply _) _ h
    · exact h.accessNow _

theorem State.Canonical.wholeTile {s : State} (h : s.Canonical) (p : Fin 16) (x : RxEntry) (r t : Nat) : (s.wholeTile p x r t).Canonical := by
  unfold State.wholeTile; split
  · exact h
  · dsimp only; split
    · have h1 : (s.modPort p (PortState.useEntry x.core r)).Canonical := h
      split
      · exact h1.of_mems (by simp)
      · exact State.Canonical.arriveEntry (State.Canonical.foldl (fun s y hs => hs.arriveBytes _ _ _ _ _) _ h1) _ _ _ _ _
    · exact h.arriveEntry _ _ _ _ _

theorem State.Canonical.arrivePut {s : State} (h : s.Canonical) (p : Fin 16) (x : RxEntry) (r o : Nat) (d : Bytes) :
    (s.arrivePut p x r o d).Canonical := by
  unfold State.arrivePut; dsimp only
  have h1 : (if ((s.port p).runFor x.core r).isSome = true then s else s.arriveBytes x (s.region r) .plain o d).Canonical :=
    h.ite (h.arriveBytes _ _ _ _ _)
  generalize (if ((s.port p).runFor x.core r).isSome = true then s else s.arriveBytes x (s.region r) .plain o d) = u at h1 ⊢
  split
  · exact h1
  · have hm : ∀ (u : State) (g : PortState → PortState), u.Canonical → (u.modPort p g).Canonical := fun u g hu =>
      hu.of_mems ⟨rfl, rfl, rfl, rfl⟩
    apply hm
    apply State.Canonical.foldl (fun s j hs => hs.wholeTile p x r j)
    exact hm _ _ h1

theorem State.Canonical.deliverData {s : State} (h : s.Canonical) (p : Fin 16) (x : RxEntry) (d : Bytes) : (s.deliverData p x d).Canonical := by
  unfold State.deliverData; dsimp only; split
  · exact h.of_mems (by simp)
  · split
    · exact h.of_mems (by simp)
    · next j _ _ =>
      have k : (s.arrivalData p x j d).2.2.Canonical := h.of_mems (by simp)
      generalize s.arrivalData p x j d = y at k
      obtain ⟨o, b, u⟩ := y
      dsimp only at k ⊢
      split
      · exact k
      · split
        · exact k.arriveAdds _ _ _ _
        · exact k.arriveBytes _ _ _ _ _
        · exact k.arriveBytes _ _ _ _ _
        · exact k.arrivePut _ _ _ _ _

theorem State.Canonical.takeCheckpoint {s : State} (h : s.Canonical) (x : RxEntry) (d : Bytes) : (s.takeCheckpoint x d).Canonical := by
  unfold State.takeCheckpoint; split
  · exact h.of_mems (by simp)
  · dsimp only; split
    · exact h.of_mems (by simp)
    · exact h.arriveBytes _ _ _ _ _

theorem State.Canonical.deliver {s : State} (h : s.Canonical) (p : Fin 16) (a : Arrival) : (s.deliver p a).Canonical := by
  unfold State.deliver; dsimp only; split
  · exact h
  · split
    · exact h.of_mems (by simp)
    · have h9 := h.takeCheckpoint (rxEntry a.entry) a.payload
      have hd : ((s.deliverData p (rxEntry a.entry) a.payload).endRun p (rxEntry a.entry)).Canonical :=
        (h.deliverData p (rxEntry a.entry) a.payload).of_mems (by simp)
      have hk : ∀ (u : State) (q : Bool) (l : List Timed), u.Canonical →
          (if q = true then u else { u with inflight := u.inflight ++ l }).Canonical := fun u q l hu => by split <;> exact hu
      apply hk
      split
      · exact h
      · exact h.of_mems (by simp)
      · exact h
      · exact h.of_mems (by simp)
      · exact h9
      · exact hd

theorem State.Canonical.takeData {s : State} (h : s.Canonical) (p : Fin 16) (f : Flit) (n : Nat) : (s.takeData p f n).Canonical := by
  unfold State.takeData; dsimp only
  (repeat' split) <;> first | exact h | exact h.deliver _ _ | exact h.of_mems (by simp)

/-! ### Loss of power, tests, recovery, the tick -/

theorem State.Canonical.lose (pins : PinState) (s : State) : (s.lose pins).Canonical := by
  refine ⟨fun c => ?_, rfl, rfl, rfl⟩
  simp [State.lose, State.volatileReset, State.core, CoreState.initial]; rfl

theorem State.Canonical.extendedPass {s : State} (h : s.Canonical) (n : Nat) (l : List (Fin 8 × Fin 40)) : (s.extendedPass n l).Canonical := by
  unfold State.extendedPass; dsimp only
  have h1 : ({ s with cores := s.cores.map (fun k : CoreState => { k with mem := ([] : Memory), ecc := hardMarks k.ecc }) } : State).Canonical :=
    ⟨fun c => by simp [State.core]; rfl, h.2.1, h.2.2.1, h.2.2.2⟩
  generalize hu : List.foldl _ _ allCores = u
  have h2 : u.Canonical := by
    rw [← hu]
    refine State.Canonical.foldl (fun s c hs => ?_) _ (h1.of_mems (by simp))
    split
    · exact hs.of_mems (by simp)
    · exact State.Canonical.foldl (fun s n hs => hs.of_mems (by simp)) _ hs
  split <;> exact h2

theorem State.Canonical.recoveryBlock {s : State} (h : s.Canonical) (p : Packet) : (s.recoveryBlock p).Canonical := by
  unfold State.recoveryBlock; dsimp only
  split
  · exact h.of_mems (by simp)
  · have h1 : ({ s with boot := { s.boot with sram := s.boot.sram.writeBytes (beAt p.params 0 8) (p.params.drop 8), sramGot := s.boot.sramGot ++ [(beAt p.params 0 8, (p.params.drop 8).length)] } } : State).Canonical :=
      ⟨h.1, h.2.1, Memory.wf_writeBytes h.2.2.1 _ _, h.2.2.2⟩
    have hr : ∀ (u : State) (k : Nat), u.Canonical → (u.reply p 0x0905 none k []).Canonical := fun u k hu => hu.of_mems (by simp)
    split
    · exact hr _ _ h1
    · split
      · exact (hr _ _ h1).withBoot _ rfl
      · next image _ _ => exact (hr _ (recoveryStatus (fwCheck s.fuses.svn image)) h1).of_mems (by simp)

theorem State.Canonical.settleToken {s : State} (h : s.Canonical) : s.settleToken.Canonical := by
  unfold State.settleToken; split
  · exact h
  · have h1 : ({ s with job := { s.job with tokenDue := false } } : State).Canonical := h
    dsimp only; split
    · exact h1
    · split
      · exact h1.of_mems (by simp)
      · split
        · exact h1.barrierActions _
        · exact h1.of_mems (by simp)

theorem State.Canonical.landAc {s : State} (h : s.Canonical) : s.landAc.Canonical := by
  unfold State.landAc; dsimp only
  have h1 : (if (s.settleToken.scheduleRuns || s.settleToken.job.st == .hold) = true then s.settleToken.land else s.settleToken).Canonical :=
    State.Canonical.ite h.settleToken.land h.settleToken
  exact h1.of_mems (by simp)

theorem State.Canonical.passAc {s : State} (h : s.Canonical) : s.passAc.Canonical := by
  unfold State.passAc; dsimp only
  have h1 : (if s.landAc.jobOn = true then allPorts.foldl (fun s p => s.askAgain p) s.landAc else s.landAc).Canonical :=
    State.Canonical.ite (State.Canonical.foldl (fun s p hs => hs.of_mems (by simp)) _ h.landAc) h.landAc
  generalize (if s.landAc.jobOn = true then allPorts.foldl (fun s p => s.askAgain p) s.landAc else s.landAc) = u at h1 ⊢
  exact h1.of_mems (by simp)

theorem State.Canonical.endAc {s : State} (h : s.Canonical) : s.endAc.Canonical := by
  unfold State.endAc; dsimp only
  have h1 : (if s.clock.relocking = true then s else s.passAc).Canonical := State.Canonical.ite h h.passAc
  generalize (if s.clock.relocking = true then s else s.passAc) = u at h1 ⊢
  exact h1.of_mems (by simp)

theorem State.Canonical.tick {s : State} (h : s.Canonical) : s.tick.Canonical := by
  unfold State.tick; split
  · exact h
  · split
    · exact h.endAc
    · exact h

end Sys2Proof.Machine
end

