-- ==== Sys2Proof/Laws/State.lean ====
section
/-! SUPPORT. What each plain update of the state leaves alone: every field but the one that it changes, and what is read back of that
one. Later proofs rewrite by these and unfold no record update. -/
namespace Sys2Proof.Machine

@[simp] theorem State.setCore_keeps (s : State) (c : Fin 8) (k : CoreState) :
    (s.setCore c k).wall = s.wall ∧ (s.setCore c k).sched = s.sched ∧ (s.setCore c k).hbm = s.hbm
    ∧ (s.setCore c k).fabric = s.fabric ∧ (s.setCore c k).counters = s.counters ∧ (s.setCore c k).image = s.image
    ∧ (s.setCore c k).regions = s.regions ∧ (s.setCore c k).job = s.job ∧ (s.setCore c k).cfg = s.cfg
    ∧ (s.setCore c k).links = s.links ∧ (s.setCore c k).ports = s.ports ∧ (s.setCore c k).faults = s.faults
    ∧ (s.setCore c k).log = s.log ∧ (s.setCore c k).fcp = s.fcp ∧ (s.setCore c k).eth = s.eth ∧ (s.setCore c k).ckpt = s.ckpt
    ∧ (s.setCore c k).clock = s.clock ∧ (s.setCore c k).power = s.power ∧ (s.setCore c k).therm = s.therm
    ∧ (s.setCore c k).test = s.test ∧ (s.setCore c k).flash = s.flash ∧ (s.setCore c k).fuses = s.fuses
    ∧ (s.setCore c k).boot = s.boot ∧ (s.setCore c k).sec = s.sec ∧ (s.setCore c k).jtag = s.jtag ∧ (s.setCore c k).pins = s.pins
    ∧ (s.setCore c k).inflight = s.inflight ∧ (s.setCore c k).running = s.running ∧ (s.setCore c k).past = s.past
    ∧ (s.setCore c k).stopped = s.stopped ∧ (s.setCore c k).ckptMaster = s.ckptMaster ∧ (s.setCore c k).testMaster = s.testMaster
    ∧ (s.setCore c k).free = s.free ∧ (s.setCore c k).offered = s.offered ∧ (s.setCore c k).pending = s.pending := by
  and_intros <;> rfl

@[simp] theorem State.modCore_keeps (s : State) (c : Fin 8) (f : CoreState → CoreState) :
    (s.modCore c f).wall = s.wall ∧ (s.modCore c f).sched = s.sched ∧ (s.modCore c f).hbm = s.hbm
    ∧ (s.modCore c f).fabric = s.fabric ∧ (s.modCore c f).counters = s.counters ∧ (s.modCore c f).image = s.image
    ∧ (s.modCore c f).regions = s.regions ∧ (s.modCore c f).job = s.job ∧ (s.modCore c f).cfg = s.cfg
    ∧ (s.modCore c f).links = s.links ∧ (s.modCore c f).ports = s.ports ∧ (s.modCore c f).faults = s.faults
    ∧ (s.modCore c f).log = s.log ∧ (s.modCore c f).fcp = s.fcp ∧ (s.modCore c f).eth = s.eth ∧ (s.modCore c f).ckpt = s.ckpt
    ∧ (s.modCore c f).clock = s.clock ∧ (s.modCore c f).power = s.power ∧ (s.modCore c f).therm = s.therm
    ∧ (s.modCore c f).test = s.test ∧ (s.modCore c f).flash = s.flash ∧ (s.modCore c f).fuses = s.fuses
    ∧ (s.modCore c f).boot = s.boot ∧ (s.modCore c f).sec = s.sec ∧ (s.modCore c f).jtag = s.jtag ∧ (s.modCore c f).pins = s.pins
    ∧ (s.modCore c f).inflight = s.inflight ∧ (s.modCore c f).running = s.running ∧ (s.modCore c f).past = s.past
    ∧ (s.modCore c f).stopped = s.stopped ∧ (s.modCore c f).ckptMaster = s.ckptMaster ∧ (s.modCore c f).testMaster = s.testMaster
    ∧ (s.modCore c f).free = s.free ∧ (s.modCore c f).offered = s.offered ∧ (s.modCore c f).pending = s.pending := by
  and_intros <;> rfl

@[simp] theorem State.setCounter_keeps (s : State) (c v : Nat) :
    (s.setCounter c v).wall = s.wall ∧ (s.setCounter c v).sched = s.sched ∧ (s.setCounter c v).cores = s.cores
    ∧ (s.setCounter c v).hbm = s.hbm ∧ (s.setCounter c v).fabric = s.fabric ∧ (s.setCounter c v).image = s.image
    ∧ (s.setCounter c v).regions = s.regions ∧ (s.setCounter c v).job = s.job ∧ (s.setCounter c v).cfg = s.cfg
    ∧ (s.setCounter c v).links = s.links ∧ (s.setCounter c v).ports = s.ports ∧ (s.setCounter c v).faults = s.faults
    ∧ (s.setCounter c v).log = s.log ∧ (s.setCounter c v).fcp = s.fcp ∧ (s.setCounter c v).eth = s.eth
    ∧ (s.setCounter c v).ckpt = s.ckpt ∧ (s.setCounter c v).clock = s.clock ∧ (s.setCounter c v).power = s.power
    ∧ (s.setCounter c v).therm = s.therm ∧ (s.setCounter c v).test = s.test ∧ (s.setCounter c v).flash = s.flash
    ∧ (s.setCounter c v).fuses = s.fuses ∧ (s.setCounter c v).boot = s.boot ∧ (s.setCounter c v).sec = s.sec
    ∧ (s.setCounter c v).jtag = s.jtag ∧ (s.setCounter c v).pins = s.pins ∧ (s.setCounter c v).inflight = s.inflight
    ∧ (s.setCounter c v).running = s.running ∧ (s.setCounter c v).past = s.past ∧ (s.setCounter c v).stopped = s.stopped
    ∧ (s.setCounter c v).ckptMaster = s.ckptMaster ∧ (s.setCounter c v).testMaster = s.testMaster ∧ (s.setCounter c v).free = s.free
    ∧ (s.setCounter c v).offered = s.offered ∧ (s.setCounter c v).pending = s.pending := by
  and_intros <;> rfl

@[simp] theorem State.setPort_keeps (s : State) (p : Fin 16) (x : PortState) :
    (s.setPort p x).wall = s.wall ∧ (s.setPort p x).sched = s.sched ∧ (s.setPort p x).cores = s.cores ∧ (s.setPort p x).hbm = s.hbm
    ∧ (s.setPort p x).fabric = s.fabric ∧ (s.setPort p x).counters = s.counters ∧ (s.setPort p x).image = s.image
    ∧ (s.setPort p x).regions = s.regions ∧ (s.setPort p x).job = s.job ∧ (s.setPort p x).cfg = s.cfg
    ∧ (s.setPort p x).links = s.links ∧ (s.setPort p x).faults = s.faults ∧ (s.setPort p x).log = s.log
    ∧ (s.setPort p x).fcp = s.fcp ∧ (s.setPort p x).eth = s.eth ∧ (s.setPort p x).ckpt = s.ckpt ∧ (s.setPort p x).clock = s.clock
    ∧ (s.setPort p x).power = s.power ∧ (s.setPort p x).therm = s.therm ∧ (s.setPort p x).test = s.test
    ∧ (s.setPort p x).flash = s.flash ∧ (s.setPort p x).fuses = s.fuses ∧ (s.setPort p x).boot = s.boot
    ∧ (s.setPort p x).sec = s.sec ∧ (s.setPort p x).jtag = s.jtag ∧ (s.setPort p x).pins = s.pins
    ∧ (s.setPort p x).inflight = s.inflight ∧ (s.setPort p x).running = s.running ∧ (s.setPort p x).past = s.past
    ∧ (s.setPort p x).stopped = s.stopped ∧ (s.setPort p x).ckptMaster = s.ckptMaster ∧ (s.setPort p x).testMaster = s.testMaster
    ∧ (s.setPort p x).free = s.free ∧ (s.setPort p x).offered = s.offered ∧ (s.setPort p x).pending = s.pending := by
  and_intros <;> rfl

@[simp] theorem State.modPort_keeps (s : State) (p : Fin 16) (f : PortState → PortState) :
    (s.modPort p f).wall = s.wall ∧ (s.modPort p f).sched = s.sched ∧ (s.modPort p f).cores = s.cores ∧ (s.modPort p f).hbm = s.hbm
    ∧ (s.modPort p f).fabric = s.fabric ∧ (s.modPort p f).counters = s.counters ∧ (s.modPort p f).image = s.image
    ∧ (s.modPort p f).regions = s.regions ∧ (s.modPort p f).job = s.job ∧ (s.modPort p f).cfg = s.cfg
    ∧ (s.modPort p f).links = s.links ∧ (s.modPort p f).faults = s.faults ∧ (s.modPort p f).log = s.log
    ∧ (s.modPort p f).fcp = s.fcp ∧ (s.modPort p f).eth = s.eth ∧ (s.modPort p f).ckpt = s.ckpt ∧ (s.modPort p f).clock = s.clock
    ∧ (s.modPort p f).power = s.power ∧ (s.modPort p f).therm = s.therm ∧ (s.modPort p f).test = s.test
    ∧ (s.modPort p f).flash = s.flash ∧ (s.modPort p f).fuses = s.fuses ∧ (s.modPort p f).boot = s.boot
    ∧ (s.modPort p f).sec = s.sec ∧ (s.modPort p f).jtag = s.jtag ∧ (s.modPort p f).pins = s.pins
    ∧ (s.modPort p f).inflight = s.inflight ∧ (s.modPort p f).running = s.running ∧ (s.modPort p f).past = s.past
    ∧ (s.modPort p f).stopped = s.stopped ∧ (s.modPort p f).ckptMaster = s.ckptMaster ∧ (s.modPort p f).testMaster = s.testMaster
    ∧ (s.modPort p f).free = s.free ∧ (s.modPort p f).offered = s.offered ∧ (s.modPort p f).pending = s.pending := by
  and_intros <;> rfl

@[simp] theorem State.setRing_keeps (s : State) (r : Ring) :
    (s.setRing r).wall = s.wall ∧ (s.setRing r).sched = s.sched ∧ (s.setRing r).cores = s.cores ∧ (s.setRing r).hbm = s.hbm
    ∧ (s.setRing r).fabric = s.fabric ∧ (s.setRing r).counters = s.counters ∧ (s.setRing r).image = s.image
    ∧ (s.setRing r).regions = s.regions ∧ (s.setRing r).job = s.job ∧ (s.setRing r).cfg = s.cfg ∧ (s.setRing r).links = s.links
    ∧ (s.setRing r).ports = s.ports ∧ (s.setRing r).faults = s.faults ∧ (s.setRing r).log = s.log ∧ (s.setRing r).eth = s.eth
    ∧ (s.setRing r).ckpt = s.ckpt ∧ (s.setRing r).clock = s.clock ∧ (s.setRing r).power = s.power ∧ (s.setRing r).therm = s.therm
    ∧ (s.setRing r).test = s.test ∧ (s.setRing r).flash = s.flash ∧ (s.setRing r).fuses = s.fuses ∧ (s.setRing r).boot = s.boot
    ∧ (s.setRing r).sec = s.sec ∧ (s.setRing r).jtag = s.jtag ∧ (s.setRing r).pins = s.pins ∧ (s.setRing r).inflight = s.inflight
    ∧ (s.setRing r).running = s.running ∧ (s.setRing r).past = s.past ∧ (s.setRing r).stopped = s.stopped
    ∧ (s.setRing r).ckptMaster = s.ckptMaster ∧ (s.setRing r).testMaster = s.testMaster ∧ (s.setRing r).free = s.free
    ∧ (s.setRing r).offered = s.offered ∧ (s.setRing r).pending = s.pending := by
  and_intros <;> rfl

@[simp] theorem State.modSession_keeps (s : State) (id : Nat) (f : Session → Session) :
    (s.modSession id f).wall = s.wall ∧ (s.modSession id f).sched = s.sched ∧ (s.modSession id f).cores = s.cores
    ∧ (s.modSession id f).hbm = s.hbm ∧ (s.modSession id f).fabric = s.fabric ∧ (s.modSession id f).counters = s.counters
    ∧ (s.modSession id f).image = s.image ∧ (s.modSession id f).regions = s.regions ∧ (s.modSession id f).job = s.job
    ∧ (s.modSession id f).cfg = s.cfg ∧ (s.modSession id f).links = s.links ∧ (s.modSession id f).ports = s.ports
    ∧ (s.modSession id f).faults = s.faults ∧ (s.modSession id f).log = s.log ∧ (s.modSession id f).eth = s.eth
    ∧ (s.modSession id f).ckpt = s.ckpt ∧ (s.modSession id f).clock = s.clock ∧ (s.modSession id f).power = s.power
    ∧ (s.modSession id f).therm = s.therm ∧ (s.modSession id f).test = s.test ∧ (s.modSession id f).flash = s.flash
    ∧ (s.modSession id f).fuses = s.fuses ∧ (s.modSession id f).boot = s.boot ∧ (s.modSession id f).sec = s.sec
    ∧ (s.modSession id f).jtag = s.jtag ∧ (s.modSession id f).pins = s.pins ∧ (s.modSession id f).inflight = s.inflight
    ∧ (s.modSession id f).running = s.running ∧ (s.modSession id f).past = s.past ∧ (s.modSession id f).stopped = s.stopped
    ∧ (s.modSession id f).ckptMaster = s.ckptMaster ∧ (s.modSession id f).testMaster = s.testMaster
    ∧ (s.modSession id f).free = s.free ∧ (s.modSession id f).offered = s.offered ∧ (s.modSession id f).pending = s.pending := by
  and_intros <;> rfl

@[simp] theorem State.dropTag_keeps (s : State) (p : Fin 2) :
    (s.dropTag p).wall = s.wall ∧ (s.dropTag p).sched = s.sched ∧ (s.dropTag p).cores = s.cores ∧ (s.dropTag p).hbm = s.hbm
    ∧ (s.dropTag p).fabric = s.fabric ∧ (s.dropTag p).counters = s.counters ∧ (s.dropTag p).image = s.image
    ∧ (s.dropTag p).regions = s.regions ∧ (s.dropTag p).job = s.job ∧ (s.dropTag p).cfg = s.cfg ∧ (s.dropTag p).links = s.links
    ∧ (s.dropTag p).ports = s.ports ∧ (s.dropTag p).faults = s.faults ∧ (s.dropTag p).log = s.log ∧ (s.dropTag p).fcp = s.fcp
    ∧ (s.dropTag p).ckpt = s.ckpt ∧ (s.dropTag p).clock = s.clock ∧ (s.dropTag p).power = s.power ∧ (s.dropTag p).therm = s.therm
    ∧ (s.dropTag p).test = s.test ∧ (s.dropTag p).flash = s.flash ∧ (s.dropTag p).fuses = s.fuses ∧ (s.dropTag p).boot = s.boot
    ∧ (s.dropTag p).sec = s.sec ∧ (s.dropTag p).jtag = s.jtag ∧ (s.dropTag p).pins = s.pins ∧ (s.dropTag p).inflight = s.inflight
    ∧ (s.dropTag p).running = s.running ∧ (s.dropTag p).past = s.past ∧ (s.dropTag p).stopped = s.stopped
    ∧ (s.dropTag p).ckptMaster = s.ckptMaster ∧ (s.dropTag p).testMaster = s.testMaster ∧ (s.dropTag p).free = s.free
    ∧ (s.dropTag p).offered = s.offered ∧ (s.dropTag p).pending = s.pending := by
  and_intros <;> rfl

@[simp] theorem State.dropReplay_keeps (s : State) (p : Fin 2) :
    (s.dropReplay p).wall = s.wall ∧ (s.dropReplay p).sched = s.sched ∧ (s.dropReplay p).cores = s.cores
    ∧ (s.dropReplay p).hbm = s.hbm ∧ (s.dropReplay p).fabric = s.fabric ∧ (s.dropReplay p).counters = s.counters
    ∧ (s.dropReplay p).image = s.image ∧ (s.dropReplay p).regions = s.regions ∧ (s.dropReplay p).job = s.job
    ∧ (s.dropReplay p).cfg = s.cfg ∧ (s.dropReplay p).links = s.links ∧ (s.dropReplay p).ports = s.ports
    ∧ (s.dropReplay p).faults = s.faults ∧ (s.dropReplay p).log = s.log ∧ (s.dropReplay p).fcp = s.fcp
    ∧ (s.dropReplay p).ckpt = s.ckpt ∧ (s.dropReplay p).clock = s.clock ∧ (s.dropReplay p).power = s.power
    ∧ (s.dropReplay p).therm = s.therm ∧ (s.dropReplay p).test = s.test ∧ (s.dropReplay p).flash = s.flash
    ∧ (s.dropReplay p).fuses = s.fuses ∧ (s.dropReplay p).boot = s.boot ∧ (s.dropReplay p).sec = s.sec
    ∧ (s.dropReplay p).jtag = s.jtag ∧ (s.dropReplay p).pins = s.pins ∧ (s.dropReplay p).inflight = s.inflight
    ∧ (s.dropReplay p).running = s.running ∧ (s.dropReplay p).past = s.past ∧ (s.dropReplay p).stopped = s.stopped
    ∧ (s.dropReplay p).ckptMaster = s.ckptMaster ∧ (s.dropReplay p).testMaster = s.testMaster ∧ (s.dropReplay p).free = s.free
    ∧ (s.dropReplay p).offered = s.offered ∧ (s.dropReplay p).pending = s.pending := by
  and_intros <;> rfl

@[simp] theorem State.send_keeps (s : State) (p : OutPacket) :
    (s.send p).wall = s.wall ∧ (s.send p).sched = s.sched ∧ (s.send p).cores = s.cores ∧ (s.send p).hbm = s.hbm
    ∧ (s.send p).fabric = s.fabric ∧ (s.send p).counters = s.counters ∧ (s.send p).image = s.image ∧ (s.send p).regions = s.regions
    ∧ (s.send p).job = s.job ∧ (s.send p).cfg = s.cfg ∧ (s.send p).links = s.links ∧ (s.send p).ports = s.ports
    ∧ (s.send p).faults = s.faults ∧ (s.send p).log = s.log ∧ (s.send p).fcp = s.fcp ∧ (s.send p).ckpt = s.ckpt
    ∧ (s.send p).clock = s.clock ∧ (s.send p).power = s.power ∧ (s.send p).therm = s.therm ∧ (s.send p).test = s.test
    ∧ (s.send p).flash = s.flash ∧ (s.send p).fuses = s.fuses ∧ (s.send p).boot = s.boot ∧ (s.send p).sec = s.sec
    ∧ (s.send p).jtag = s.jtag ∧ (s.send p).pins = s.pins ∧ (s.send p).inflight = s.inflight ∧ (s.send p).running = s.running
    ∧ (s.send p).past = s.past ∧ (s.send p).stopped = s.stopped ∧ (s.send p).ckptMaster = s.ckptMaster
    ∧ (s.send p).testMaster = s.testMaster ∧ (s.send p).free = s.free ∧ (s.send p).offered = s.offered
    ∧ (s.send p).pending = s.pending := by
  and_intros <;> rfl

@[simp] theorem State.modMon_keeps (s : State) (x : Source) (f : SourceMon → SourceMon) :
    (s.modMon x f).wall = s.wall ∧ (s.modMon x f).sched = s.sched ∧ (s.modMon x f).cores = s.cores ∧ (s.modMon x f).hbm = s.hbm
    ∧ (s.modMon x f).fabric = s.fabric ∧ (s.modMon x f).counters = s.counters ∧ (s.modMon x f).image = s.image
    ∧ (s.modMon x f).regions = s.regions ∧ (s.modMon x f).job = s.job ∧ (s.modMon x f).cfg = s.cfg ∧ (s.modMon x f).links = s.links
    ∧ (s.modMon x f).ports = s.ports ∧ (s.modMon x f).faults = s.faults ∧ (s.modMon x f).log = s.log ∧ (s.modMon x f).fcp = s.fcp
    ∧ (s.modMon x f).eth = s.eth ∧ (s.modMon x f).ckpt = s.ckpt ∧ (s.modMon x f).power = s.power ∧ (s.modMon x f).therm = s.therm
    ∧ (s.modMon x f).test = s.test ∧ (s.modMon x f).flash = s.flash ∧ (s.modMon x f).fuses = s.fuses ∧ (s.modMon x f).boot = s.boot
    ∧ (s.modMon x f).sec = s.sec ∧ (s.modMon x f).jtag = s.jtag ∧ (s.modMon x f).pins = s.pins
    ∧ (s.modMon x f).inflight = s.inflight ∧ (s.modMon x f).running = s.running ∧ (s.modMon x f).past = s.past
    ∧ (s.modMon x f).stopped = s.stopped ∧ (s.modMon x f).ckptMaster = s.ckptMaster ∧ (s.modMon x f).testMaster = s.testMaster
    ∧ (s.modMon x f).free = s.free ∧ (s.modMon x f).offered = s.offered ∧ (s.modMon x f).pending = s.pending := by
  and_intros <;> rfl

@[simp] theorem State.modPins_keeps (s : State) (f : PinState → PinState) :
    (s.modPins f).wall = s.wall ∧ (s.modPins f).sched = s.sched ∧ (s.modPins f).cores = s.cores ∧ (s.modPins f).hbm = s.hbm
    ∧ (s.modPins f).fabric = s.fabric ∧ (s.modPins f).counters = s.counters ∧ (s.modPins f).image = s.image
    ∧ (s.modPins f).regions = s.regions ∧ (s.modPins f).job = s.job ∧ (s.modPins f).cfg = s.cfg ∧ (s.modPins f).links = s.links
    ∧ (s.modPins f).ports = s.ports ∧ (s.modPins f).faults = s.faults ∧ (s.modPins f).log = s.log ∧ (s.modPins f).fcp = s.fcp
    ∧ (s.modPins f).eth = s.eth ∧ (s.modPins f).ckpt = s.ckpt ∧ (s.modPins f).clock = s.clock ∧ (s.modPins f).power = s.power
    ∧ (s.modPins f).therm = s.therm ∧ (s.modPins f).test = s.test ∧ (s.modPins f).flash = s.flash ∧ (s.modPins f).fuses = s.fuses
    ∧ (s.modPins f).boot = s.boot ∧ (s.modPins f).sec = s.sec ∧ (s.modPins f).jtag = s.jtag ∧ (s.modPins f).inflight = s.inflight
    ∧ (s.modPins f).running = s.running ∧ (s.modPins f).past = s.past ∧ (s.modPins f).stopped = s.stopped
    ∧ (s.modPins f).ckptMaster = s.ckptMaster ∧ (s.modPins f).testMaster = s.testMaster ∧ (s.modPins f).free = s.free
    ∧ (s.modPins f).offered = s.offered ∧ (s.modPins f).pending = s.pending := by
  and_intros <;> rfl

@[simp] theorem State.toStage_keeps (s : State) (n : Nat) :
    (s.toStage n).wall = s.wall ∧ (s.toStage n).sched = s.sched ∧ (s.toStage n).cores = s.cores ∧ (s.toStage n).hbm = s.hbm
    ∧ (s.toStage n).fabric = s.fabric ∧ (s.toStage n).counters = s.counters ∧ (s.toStage n).image = s.image
    ∧ (s.toStage n).regions = s.regions ∧ (s.toStage n).job = s.job ∧ (s.toStage n).cfg = s.cfg ∧ (s.toStage n).links = s.links
    ∧ (s.toStage n).ports = s.ports ∧ (s.toStage n).faults = s.faults ∧ (s.toStage n).log = s.log ∧ (s.toStage n).fcp = s.fcp
    ∧ (s.toStage n).eth = s.eth ∧ (s.toStage n).ckpt = s.ckpt ∧ (s.toStage n).clock = s.clock ∧ (s.toStage n).power = s.power
    ∧ (s.toStage n).therm = s.therm ∧ (s.toStage n).test = s.test ∧ (s.toStage n).flash = s.flash ∧ (s.toStage n).fuses = s.fuses
    ∧ (s.toStage n).sec = s.sec ∧ (s.toStage n).jtag = s.jtag ∧ (s.toStage n).pins = s.pins ∧ (s.toStage n).inflight = s.inflight
    ∧ (s.toStage n).running = s.running ∧ (s.toStage n).past = s.past ∧ (s.toStage n).stopped = s.stopped
    ∧ (s.toStage n).ckptMaster = s.ckptMaster ∧ (s.toStage n).testMaster = s.testMaster ∧ (s.toStage n).free = s.free
    ∧ (s.toStage n).offered = s.offered ∧ (s.toStage n).pending = s.pending := by
  and_intros <;> rfl

@[simp] theorem State.advance_keeps (s : State) (i : Issue) (n : Nat) :
    (s.advance i n).wall = s.wall ∧ (s.advance i n).sched = s.sched ∧ (s.advance i n).hbm = s.hbm
    ∧ (s.advance i n).fabric = s.fabric ∧ (s.advance i n).counters = s.counters ∧ (s.advance i n).image = s.image
    ∧ (s.advance i n).regions = s.regions ∧ (s.advance i n).job = s.job ∧ (s.advance i n).cfg = s.cfg
    ∧ (s.advance i n).links = s.links ∧ (s.advance i n).ports = s.ports ∧ (s.advance i n).faults = s.faults
    ∧ (s.advance i n).log = s.log ∧ (s.advance i n).fcp = s.fcp ∧ (s.advance i n).eth = s.eth ∧ (s.advance i n).ckpt = s.ckpt
    ∧ (s.advance i n).clock = s.clock ∧ (s.advance i n).power = s.power ∧ (s.advance i n).therm = s.therm
    ∧ (s.advance i n).test = s.test ∧ (s.advance i n).flash = s.flash ∧ (s.advance i n).fuses = s.fuses
    ∧ (s.advance i n).boot = s.boot ∧ (s.advance i n).sec = s.sec ∧ (s.advance i n).jtag = s.jtag ∧ (s.advance i n).pins = s.pins
    ∧ (s.advance i n).inflight = s.inflight ∧ (s.advance i n).running = s.running ∧ (s.advance i n).past = s.past
    ∧ (s.advance i n).stopped = s.stopped ∧ (s.advance i n).ckptMaster = s.ckptMaster ∧ (s.advance i n).testMaster = s.testMaster
    ∧ (s.advance i n).free = s.free ∧ (s.advance i n).offered = s.offered ∧ (s.advance i n).pending = s.pending := by
  and_intros <;> rfl

@[simp] theorem State.issued_keeps (s : State) (i : Issue) (n : Nat) :
    (s.issued i n).wall = s.wall ∧ (s.issued i n).sched = s.sched ∧ (s.issued i n).hbm = s.hbm ∧ (s.issued i n).fabric = s.fabric
    ∧ (s.issued i n).counters = s.counters ∧ (s.issued i n).image = s.image ∧ (s.issued i n).regions = s.regions
    ∧ (s.issued i n).job = s.job ∧ (s.issued i n).cfg = s.cfg ∧ (s.issued i n).links = s.links ∧ (s.issued i n).ports = s.ports
    ∧ (s.issued i n).faults = s.faults ∧ (s.issued i n).log = s.log ∧ (s.issued i n).fcp = s.fcp ∧ (s.issued i n).eth = s.eth
    ∧ (s.issued i n).ckpt = s.ckpt ∧ (s.issued i n).clock = s.clock ∧ (s.issued i n).power = s.power
    ∧ (s.issued i n).therm = s.therm ∧ (s.issued i n).test = s.test ∧ (s.issued i n).flash = s.flash
    ∧ (s.issued i n).fuses = s.fuses ∧ (s.issued i n).boot = s.boot ∧ (s.issued i n).sec = s.sec ∧ (s.issued i n).jtag = s.jtag
    ∧ (s.issued i n).pins = s.pins ∧ (s.issued i n).inflight = s.inflight ∧ (s.issued i n).past = s.past
    ∧ (s.issued i n).stopped = s.stopped ∧ (s.issued i n).ckptMaster = s.ckptMaster ∧ (s.issued i n).testMaster = s.testMaster
    ∧ (s.issued i n).free = s.free ∧ (s.issued i n).offered = s.offered ∧ (s.issued i n).pending = s.pending := by
  and_intros <;> rfl

@[simp] theorem State.launch_keeps (s : State) (i : Issue) (u : State) :
    (s.launch i u).wall = s.wall ∧ (s.launch i u).sched = s.sched ∧ (s.launch i u).cores = s.cores ∧ (s.launch i u).hbm = s.hbm
    ∧ (s.launch i u).fabric = s.fabric ∧ (s.launch i u).counters = s.counters ∧ (s.launch i u).image = s.image
    ∧ (s.launch i u).regions = s.regions ∧ (s.launch i u).job = s.job ∧ (s.launch i u).cfg = s.cfg ∧ (s.launch i u).links = s.links
    ∧ (s.launch i u).ports = s.ports ∧ (s.launch i u).faults = s.faults ∧ (s.launch i u).log = s.log ∧ (s.launch i u).fcp = s.fcp
    ∧ (s.launch i u).eth = s.eth ∧ (s.launch i u).ckpt = s.ckpt ∧ (s.launch i u).clock = s.clock ∧ (s.launch i u).power = s.power
    ∧ (s.launch i u).therm = s.therm ∧ (s.launch i u).test = s.test ∧ (s.launch i u).flash = s.flash
    ∧ (s.launch i u).fuses = s.fuses ∧ (s.launch i u).boot = s.boot ∧ (s.launch i u).sec = s.sec ∧ (s.launch i u).jtag = s.jtag
    ∧ (s.launch i u).pins = s.pins ∧ (s.launch i u).inflight = s.inflight ∧ (s.launch i u).past = s.past
    ∧ (s.launch i u).stopped = s.stopped ∧ (s.launch i u).ckptMaster = s.ckptMaster ∧ (s.launch i u).testMaster = s.testMaster
    ∧ (s.launch i u).free = s.free ∧ (s.launch i u).offered = s.offered ∧ (s.launch i u).pending = s.pending := by
  and_intros <;> rfl

/-- What issue adds to the instructions in progress. -/
theorem State.issued_running (s : State) (i : Issue) (n : Nat) :
    (s.issued i n).running = s.running ++ [s.newRunning i] := rfl

@[simp] theorem State.remember_keeps (s : State) (sl : Option (Fin 8)) (a n : Nat) :
    (s.remember sl a n).wall = s.wall ∧ (s.remember sl a n).sched = s.sched ∧ (s.remember sl a n).cores = s.cores
    ∧ (s.remember sl a n).hbm = s.hbm ∧ (s.remember sl a n).fabric = s.fabric ∧ (s.remember sl a n).counters = s.counters
    ∧ (s.remember sl a n).image = s.image ∧ (s.remember sl a n).regions = s.regions ∧ (s.remember sl a n).job = s.job
    ∧ (s.remember sl a n).cfg = s.cfg ∧ (s.remember sl a n).links = s.links ∧ (s.remember sl a n).ports = s.ports
    ∧ (s.remember sl a n).faults = s.faults ∧ (s.remember sl a n).log = s.log ∧ (s.remember sl a n).fcp = s.fcp
    ∧ (s.remember sl a n).eth = s.eth ∧ (s.remember sl a n).ckpt = s.ckpt ∧ (s.remember sl a n).clock = s.clock
    ∧ (s.remember sl a n).power = s.power ∧ (s.remember sl a n).therm = s.therm ∧ (s.remember sl a n).test = s.test
    ∧ (s.remember sl a n).flash = s.flash ∧ (s.remember sl a n).fuses = s.fuses ∧ (s.remember sl a n).boot = s.boot
    ∧ (s.remember sl a n).sec = s.sec ∧ (s.remember sl a n).jtag = s.jtag ∧ (s.remember sl a n).pins = s.pins
    ∧ (s.remember sl a n).inflight = s.inflight ∧ (s.remember sl a n).running = s.running ∧ (s.remember sl a n).stopped = s.stopped
    ∧ (s.remember sl a n).ckptMaster = s.ckptMaster ∧ (s.remember sl a n).testMaster = s.testMaster
    ∧ (s.remember sl a n).free = s.free ∧ (s.remember sl a n).offered = s.offered ∧ (s.remember sl a n).pending = s.pending := by
  and_intros <;> rfl

@[simp] theorem State.dequeue_keeps (s : State) (p : Packet) :
    (s.dequeue p).wall = s.wall ∧ (s.dequeue p).sched = s.sched ∧ (s.dequeue p).cores = s.cores ∧ (s.dequeue p).hbm = s.hbm
    ∧ (s.dequeue p).fabric = s.fabric ∧ (s.dequeue p).counters = s.counters ∧ (s.dequeue p).image = s.image
    ∧ (s.dequeue p).regions = s.regions ∧ (s.dequeue p).job = s.job ∧ (s.dequeue p).cfg = s.cfg ∧ (s.dequeue p).links = s.links
    ∧ (s.dequeue p).ports = s.ports ∧ (s.dequeue p).faults = s.faults ∧ (s.dequeue p).log = s.log ∧ (s.dequeue p).eth = s.eth
    ∧ (s.dequeue p).ckpt = s.ckpt ∧ (s.dequeue p).clock = s.clock ∧ (s.dequeue p).power = s.power ∧ (s.dequeue p).therm = s.therm
    ∧ (s.dequeue p).test = s.test ∧ (s.dequeue p).flash = s.flash ∧ (s.dequeue p).fuses = s.fuses ∧ (s.dequeue p).boot = s.boot
    ∧ (s.dequeue p).sec = s.sec ∧ (s.dequeue p).jtag = s.jtag ∧ (s.dequeue p).pins = s.pins ∧ (s.dequeue p).inflight = s.inflight
    ∧ (s.dequeue p).running = s.running ∧ (s.dequeue p).past = s.past ∧ (s.dequeue p).stopped = s.stopped
    ∧ (s.dequeue p).ckptMaster = s.ckptMaster ∧ (s.dequeue p).testMaster = s.testMaster ∧ (s.dequeue p).free = s.free
    ∧ (s.dequeue p).offered = s.offered ∧ (s.dequeue p).pending = s.pending := by
  and_intros <;> rfl

@[simp] theorem State.unbuffer_keeps (s : State) (p : Packet) :
    (s.unbuffer p).wall = s.wall ∧ (s.unbuffer p).sched = s.sched ∧ (s.unbuffer p).cores = s.cores ∧ (s.unbuffer p).hbm = s.hbm
    ∧ (s.unbuffer p).fabric = s.fabric ∧ (s.unbuffer p).counters = s.counters ∧ (s.unbuffer p).image = s.image
    ∧ (s.unbuffer p).regions = s.regions ∧ (s.unbuffer p).job = s.job ∧ (s.unbuffer p).cfg = s.cfg ∧ (s.unbuffer p).links = s.links
    ∧ (s.unbuffer p).ports = s.ports ∧ (s.unbuffer p).faults = s.faults ∧ (s.unbuffer p).log = s.log ∧ (s.unbuffer p).fcp = s.fcp
    ∧ (s.unbuffer p).ckpt = s.ckpt ∧ (s.unbuffer p).clock = s.clock ∧ (s.unbuffer p).power = s.power
    ∧ (s.unbuffer p).therm = s.therm ∧ (s.unbuffer p).test = s.test ∧ (s.unbuffer p).flash = s.flash
    ∧ (s.unbuffer p).fuses = s.fuses ∧ (s.unbuffer p).boot = s.boot ∧ (s.unbuffer p).sec = s.sec ∧ (s.unbuffer p).jtag = s.jtag
    ∧ (s.unbuffer p).pins = s.pins ∧ (s.unbuffer p).inflight = s.inflight ∧ (s.unbuffer p).running = s.running
    ∧ (s.unbuffer p).past = s.past ∧ (s.unbuffer p).stopped = s.stopped ∧ (s.unbuffer p).ckptMaster = s.ckptMaster
    ∧ (s.unbuffer p).testMaster = s.testMaster ∧ (s.unbuffer p).free = s.free ∧ (s.unbuffer p).offered = s.offered
    ∧ (s.unbuffer p).pending = s.pending := by
  unfold State.unbuffer; split <;> (and_intros <;> rfl)

@[simp] theorem State.enqueue_keeps (s : State) (d : Spec) (p : Packet) (l : List (Nat × Nat)) :
    (s.enqueue d p l).wall = s.wall ∧ (s.enqueue d p l).sched = s.sched ∧ (s.enqueue d p l).cores = s.cores
    ∧ (s.enqueue d p l).hbm = s.hbm ∧ (s.enqueue d p l).fabric = s.fabric ∧ (s.enqueue d p l).counters = s.counters
    ∧ (s.enqueue d p l).image = s.image ∧ (s.enqueue d p l).regions = s.regions ∧ (s.enqueue d p l).job = s.job
    ∧ (s.enqueue d p l).cfg = s.cfg ∧ (s.enqueue d p l).links = s.links ∧ (s.enqueue d p l).ports = s.ports
    ∧ (s.enqueue d p l).faults = s.faults ∧ (s.enqueue d p l).log = s.log ∧ (s.enqueue d p l).eth = s.eth
    ∧ (s.enqueue d p l).ckpt = s.ckpt ∧ (s.enqueue d p l).clock = s.clock ∧ (s.enqueue d p l).power = s.power
    ∧ (s.enqueue d p l).therm = s.therm ∧ (s.enqueue d p l).test = s.test ∧ (s.enqueue d p l).flash = s.flash
    ∧ (s.enqueue d p l).fuses = s.fuses ∧ (s.enqueue d p l).boot = s.boot ∧ (s.enqueue d p l).sec = s.sec
    ∧ (s.enqueue d p l).jtag = s.jtag ∧ (s.enqueue d p l).pins = s.pins ∧ (s.enqueue d p l).inflight = s.inflight
    ∧ (s.enqueue d p l).running = s.running ∧ (s.enqueue d p l).past = s.past ∧ (s.enqueue d p l).stopped = s.stopped
    ∧ (s.enqueue d p l).ckptMaster = s.ckptMaster ∧ (s.enqueue d p l).testMaster = s.testMaster ∧ (s.enqueue d p l).free = s.free
    ∧ (s.enqueue d p l).offered = s.offered ∧ (s.enqueue d p l).pending = s.pending := by
  and_intros <;> rfl

@[simp] theorem State.core_setCore (s : State) (c : Fin 8) (k : CoreState) (d : Fin 8) :
    (s.setCore c k).core d = if c = d then k else s.core d := by
  simp only [State.core, State.setCore, Vector.getElem_set, Fin.getElem_fin, Fin.ext_iff]

@[simp] theorem State.core_modCore (s : State) (c : Fin 8) (f : CoreState → CoreState) (d : Fin 8) :
    (s.modCore c f).core d = if c = d then f (s.core d) else s.core d := by
  simp only [State.modCore, State.core_setCore]; split <;> simp_all

@[simp] theorem State.port_setPort (s : State) (p : Fin 16) (x : PortState) (q : Fin 16) :
    (s.setPort p x).port q = if p = q then x else s.port q := by
  simp only [State.port, State.setPort, Vector.getElem_set, Fin.getElem_fin, Fin.ext_iff]

@[simp] theorem State.port_modPort (s : State) (p : Fin 16) (f : PortState → PortState) (q : Fin 16) :
    (s.modPort p f).port q = if p = q then f (s.port q) else s.port q := by
  simp only [State.modPort, State.port_setPort]; split <;> simp_all

/-- A sparse table reads back what was set, and every other key as before. -/
theorem tabGet_tabSet {α : Type} (d : α) (k : Nat) (v : α) (j : Nat) (t : List (Nat × α)) :
    tabGet d j (tabSet k v t) = if k = j then v else tabGet d j t := by
  induction t with
  | nil => rfl
  | cons p t ih =>
    obtain ⟨a, b⟩ := p
    simp only [tabSet]
    split
    · next h => subst h; simp only [tabGet]; split <;> rfl
    · next h => split <;> simp only [tabGet, ih] <;> (repeat' split) <;> simp_all

@[simp] theorem State.counter_setCounter (s : State) (c v d : Nat) :
    (s.setCounter c v).counter d = if c = d then v % 2 ^ 32 else s.counter d := by
  unfold State.counter State.setCounter; rw [tabGet_tabSet]; split <;> simp

end Sys2Proof.Machine
end

