-- ==== Sys2Proof/Laws/Events.lean ====
section
/-! SUPPORT. What an event, its notices, a fault and a suspicion can change, said once: everything else stays as it was. -/
namespace Sys2Proof.Machine

/-- An operation that changes at most the Ethernet queues, the sessions and the event log. -/
def OnlyLogs (s t : State) : Prop := ∃ e f l, t = { s with eth := e, fcp := f, log := l }

theorem OnlyLogs.rfl {s : State} : OnlyLogs s s := ⟨s.eth, s.fcp, s.log, by cases s; exact Eq.refl _⟩

theorem OnlyLogs.trans {s t u : State} : OnlyLogs s t → OnlyLogs t u → OnlyLogs s u := by
  rintro ⟨e, f, l, rfl⟩ ⟨e', f', l', rfl⟩; exact ⟨e', f', l', Eq.refl _⟩

theorem log_onlyLogs (l : LogState) (s : State) : OnlyLogs s { s with log := l } := ⟨s.eth, s.fcp, l, Eq.refl _⟩

theorem send_onlyLogs (p : OutPacket) (s : State) : OnlyLogs s (s.send p) := ⟨_, s.fcp, s.log, Eq.refl _⟩

theorem noticesTo_onlyLogs (r : EventRec) (l : List Session) (s : State) :
    OnlyLogs s (l.foldl (fun s x => noticeTo r x s) s) := by
  induction l generalizing s with
  | nil => exact .rfl
  | cons x l ih => exact (send_onlyLogs _ _).trans (ih _)

theorem notify_onlyLogs (r : EventRec) (s : State) : OnlyLogs s (s.notify r) :=
  (noticesTo_onlyLogs r _ s).trans ⟨_, _, _, Eq.refl _⟩

theorem raiseNotice_onlyLogs (r : EventRec) (s : State) : OnlyLogs s (s.raiseNotice r) := by
  unfold State.raiseNotice; split
  · exact notify_onlyLogs r s
  · exact ⟨_, _, _, Eq.refl _⟩

theorem addEvent_onlyLogs (k f a b : Nat) (d x : Bytes) (s : State) : OnlyLogs s (s.addEvent k f a b d x) := by
  unfold State.addEvent; split
  · exact ⟨_, _, _, Eq.refl _⟩
  · exact (log_onlyLogs _ s).trans (raiseNotice_onlyLogs _ _)

theorem eventLow_onlyLogs (s : State) : OnlyLogs s s.eventLow := by
  unfold State.eventLow; dsimp only; split
  · exact (log_onlyLogs _ s).trans (addEvent_onlyLogs _ _ _ _ _ _ _)
  · split
    · exact ⟨_, _, _, Eq.refl _⟩
    · exact .rfl

/-- An event changes the Ethernet queues, the sessions and the event log, and nothing else (R318 to R320). -/
theorem eventAt_onlyLogs (k f a b : Nat) (d x : Bytes) (s : State) : OnlyLogs s (s.eventAt k f a b d x) :=
  (addEvent_onlyLogs _ _ _ _ _ _ _).trans (eventLow_onlyLogs _)

theorem event_onlyLogs (k : Nat) (d x : Bytes) (s : State) : OnlyLogs s (s.event k d x) := eventAt_onlyLogs _ _ _ _ _ _ _

/-- A change of the job state changes it, the selected test register and the logs (R82, R400). -/
theorem setJobState_only (st : JobState) (k : Nat) (s : State) :
    ∃ sel, OnlyLogs { s with job := { s.job with st := st }, jtag := { s.jtag with sel := sel } } (s.setJobState st k) := by
  refine ⟨if st != .empty && s.jtag.sel.drives then JtagSel.bypass else s.jtag.sel, ?_⟩
  unfold State.setJobState; dsimp only
  by_cases h : (s.job.st == st && k == 0) = true
  · rw [if_pos h]; exact .rfl
  · rw [if_neg h]; exact event_onlyLogs _ _ _ _

/-- A suspicion changes the due health record, the status bit, the stop at the next barrier and the logs (R363, R364). -/
theorem makeSuspect_only (a b c : Nat) (d : Bytes) (s : State) : ∃ h x j,
    OnlyLogs { s with sec := { s.sec with healthDue := h }, test := { s.test with suspect := x }, job := { s.job with suspectStop := j } }
      (s.makeSuspect a b c d) ∧ x = true := by
  unfold State.makeSuspect; split
  · next h => exact ⟨s.sec.healthDue, true, s.job.suspectStop, by rw [← h]; exact .rfl, Eq.refl _⟩
  · exact ⟨_, true, _, event_onlyLogs _ _ _ _, Eq.refl _⟩

/-- Freezing a master changes no more than the positions of the streams, the ports of the cores and the two masters' marks (R249). -/
theorem freezeMaster_only (m : Nat) (s : State) : ∃ k a b, s.freezeMaster m = { s with cores := k, ckptMaster := a, testMaster := b } := by
  unfold State.freezeMaster; dsimp only
  have h : ∀ f : CoreState → CoreState, ∀ c, s.modCore c f = { s with cores := (s.modCore c f).cores } := fun _ _ => Eq.refl _
  repeat' split
  all_goals first
    | exact ⟨_, s.ckptMaster, s.testMaster, h _ _⟩
    | exact ⟨s.cores, _, _, Eq.refl _⟩

/-- A fault changes the fault log, the frozen master, its stop and the hold that is due (R249, R253). -/
theorem raiseFault_only (r : FaultRec) (s : State) : ∃ k a b f st j,
    s.raiseFault r = { s with cores := k, ckptMaster := a, testMaster := b, faults := f, stopped := st, job := j }
      ∧ j.st = s.job.st ∧ j.starting = s.job.starting := by
  unfold State.raiseFault; dsimp only
  split
  all_goals
    obtain ⟨k, a, b, h⟩ := freezeMaster_only _ _
    rw [h]
    refine ⟨k, a, b, _, _, _, Eq.refl _, ?_⟩
    simp only [State.countUncorrected]
    split <;> exact ⟨Eq.refl _, Eq.refl _⟩

end Sys2Proof.Machine
end

