-- ==== Sys2Proof/Laws/Fcp.lean ====
section
/-! SUPPORT. What the arrival of a packet can do, said once: a packet that the module accepts runs its command and its answer is
finished; what session 0 accepts is answered without a session. -/
namespace Sys2Proof.Machine

/-- A change of one session that keeps its number is found under it. -/
theorem find_map_session (l : List Session) (id : Nat) (f : Session → Session) (hf : ∀ y, (f y).id = y.id) (n : Nat) :
    (l.map (fun x => if x.id = id then f x else x)).find? (fun x => x.id == n)
      = (l.find? (fun x => x.id == n)).map (fun x => if x.id = id then f x else x) := by
  have e : ∀ x : Session, (if x.id = id then f x else x).id = x.id := fun x => by split <;> simp [hf]
  induction l with
  | nil => rfl
  | cons a t ih =>
    simp only [List.map_cons, List.find?_cons, e]
    cases a.id == n <;> simp [ih]

theorem State.session_modSession (s : State) (id : Nat) (f : Session → Session) (hf : ∀ y, (f y).id = y.id) (n : Nat) :
    (s.modSession id f).session n = (s.session n).map (fun x => if x.id = id then f x else x) :=
  find_map_session s.fcp.sessions id f hf n

@[simp] theorem State.heard_queueOf (x : Session) (p : Packet) (s : State) (n : Nat) : (s.heard x p).queueOf n = s.queueOf n := rfl
@[simp] theorem State.heard_executing (x : Session) (p : Packet) (s : State) (n : Nat) : (s.heard x p).executing n = s.executing n := rfl
@[simp] theorem State.heard_roomOf (x : Session) (p : Packet) (s : State) (n : Fin 2) : (s.heard x p).roomOf n = s.roomOf n := rfl

@[simp] theorem State.heard_scheduleRuns (x : Session) (p : Packet) (s : State) : (s.heard x p).scheduleRuns = s.scheduleRuns := rfl

/-- A packet that is taken at once goes on as it came. -/
theorem arrive_taken {d : Spec} {p : Packet} {s : State} (go : State → State) (h : TakenAtOnce p s) : arrive d p go s = go s := by
  have hb : s.buffered p = false := by unfold State.buffered; rw [h.ingress]; rfl
  have hc : s.crowded p = false := by unfold State.crowded; rw [h.ingress, h.egress, decide_eq_false (Nat.not_le.mpr h.queue)]; rfl
  have hu : s.unbuffer p = s := by simp [State.unbuffer, hb]
  unfold arrive; simp only [h.intake, hc, hu]; rfl

/-- A packet of a session that is found, in intake, of the right magic and tag, goes to its session. -/
theorem receive_known {d : Spec} {x : Session} {p : Packet} {s : State} (h : s.session p.session.toNat = some x)
    (ht : TakenAtOnce p s) (hm : p.magic = 0x46454C54) (hs : x.st ≠ .pending)
    (hu : packetUnauth p = false) (htag : (hmac x.key (packetBody p d.opcode)).take 16 = p.tag) :
    receive d p s = openPacket d x p s := by
  unfold receive; simp only [ht.arrives, h]; rw [arrive_taken _ ht]; simp [hm, hu, hs, htag]

theorem Spec.answer_ok {d : Spec} {x : Session} {p : Packet} {s : State} (hh : packetHeaderOk p = true)
    (hs : d.seats.contains x.seat = true) (hst : s.boot.stage = 9 ∨ d.early = true) (hp : d.paramsOk p.params = true) :
    d.answer x p s = if s.roomOf p.port < (d.run x p s).params.length then Reply.refuse 2 s else d.run x p s := by
  have h : ¬(¬s.boot.stage = 9#4 ∧ d.early = false) := by rcases hst with e | e <;> simp [e]
  unfold Spec.answer; simp only [hh, hs, hp]
  by_cases hl : s.roomOf p.port < (d.run x p s).params.length <;> simp [h, hl]

/-- The command of an accepted packet runs, and its answer is finished. -/
theorem receive_accepted {d : Spec} {x : Session} {p : Packet} {s : State} (h : Accepted d x p s) :
    receive d p s = finish d.opcode x p
      (if s.roomOf p.port < (d.run x p (s.heard x p)).params.length then Reply.refuse 2 (s.heard x p)
       else d.run x p (s.heard x p)) := by
  rw [receive_known h.known h.taken h.magic (by rw [h.isOpen]; decide) h.auth h.tag]
  have ha := Spec.answer_ok (s := s.heard x p) h.header h.seat h.stage h.params
  have hf := h.fits
  rw [ha] at hf
  have hs : (s.scheduleRuns && !(d.slots x p (s.heard x p)).isEmpty) = false := by
    rcases h.slots with e | e <;> simp [e]
  unfold openPacket
  simp only [h.version, h.isOpen, State.heard_queueOf, h.noQueue, h.window]
  simp only [start, State.heard_executing, h.idle, State.heard_queueOf, h.noQueue, State.heard_scheduleRuns, hs, runOrHold, ha]
  simp only [State.heard_roomOf] at hf ⊢
  simp [hf]
  rfl

/-- An answer that fits its port's MTU. -/
theorem receive_fits {d : Spec} {x : Session} {p : Packet} {s : State} (h : Accepted d x p s)
    (hl : (d.run x p (s.heard x p)).params.length ≤ s.roomOf p.port) :
    receive d p s = finish d.opcode x p (d.run x p (s.heard x p)) := by
  rw [receive_accepted h, if_neg (Nat.not_lt.mpr hl)]

/-- What session 0 accepts runs, and its answer is sent. -/
theorem receiveZero_accepted {d : Spec} {ok : State → Bool} {p : Packet} {s : State} (h : AcceptedZero d ok p s) :
    receiveZero d ok p s = (d.answerZero p s).state.reply p d.opcode none (d.answerZero p s).status (d.answerZero p s).params := by
  unfold receiveZero
  rw [h.taken.arrives, if_neg Bool.false_ne_true, arrive_taken _ h.taken]
  simp [h.magic, h.session, h.unauth, h.tag, h.served, h.version, runZero, h.fits]

theorem answerZero_ok {d : Spec} {ok : State → Bool} {p : Packet} {s : State} (h : AcceptedZero d ok p s) :
    d.answerZero p s = if s.roomOf p.port < (d.run sessionZero p s).params.length then Reply.refuse 2 s else d.run sessionZero p s := by
  unfold Spec.answerZero; simp [h.header, h.params]

theorem receiveBoth_zero {d : Spec} {ok : State → Bool} {p : Packet} {s : State} (h : AcceptedZero d ok p s) :
    receiveBoth d ok p s = (d.answerZero p s).state.reply p d.opcode none (d.answerZero p s).status (d.answerZero p s).params := by
  unfold receiveBoth; rw [h.session]; simpa using receiveZero_accepted h

/-! ### What no packet changes -/

/-- A property of states that the carriers of packets and replies keep: sessions, ports, waiting replies, frozen sessions, the end of a
stream. -/
structure CarriersKeep (P : State → Prop) : Prop where
  fcp : ∀ s f, P s → P { s with fcp := f }
  eth : ∀ s e, P s → P { s with eth := e }
  power : ∀ s x, P s → P { s with power := x }
  freeze : ∀ s id st seq f, P s → P (s.freezeSession id st seq f)
  stream : ∀ s id, P s → P (s.endStreamOf id)

theorem CarriersKeep.reply {P : State → Prop} (k : CarriersKeep P) {s : State} (h : P s) (p : Packet) (op : Nat) (key : Option Bytes)
    (st : Nat) (b : Bytes) : P (s.reply p op key st b) := k.eth s _ h

theorem CarriersKeep.modSession {P : State → Prop} (k : CarriersKeep P) {s : State} (h : P s) (id : Nat) (f : Session → Session) :
    P (s.modSession id f) := k.fcp s _ h

theorem CarriersKeep.finish {P : State → Prop} (k : CarriersKeep P) (op : Nat) (x : Session) (p : Packet) {r : Reply} (h : P r.state) :
    P (Machine.finish op x p r) := by
  have h1 : P (r.send op x p) := by
    unfold Reply.send; dsimp only; split
    · exact k.power _ _ h
    · exact k.reply h _ _ _ _ _
  have h2 := k.modSession h1 x.id (fun y => y.record p.seq.toNat (p.tag.take 4) r.status r.params)
  unfold Machine.finish; dsimp only; split
  · exact k.stream _ _ (k.freeze _ _ _ _ _ h2)
  · exact h2

theorem CarriersKeep.answer {P : State → Prop} {d : Spec} (hr : ∀ x p s, P s → P (d.run x p s).state) (x : Session) (p : Packet)
    {s : State} (h : P s) : P (d.answer x p s).state := by
  unfold Spec.answer; dsimp only
  split; · exact h
  split; · exact h
  split; · exact h
  split; · exact h
  split; · exact h
  exact hr x p s h

theorem CarriersKeep.answerZero {P : State → Prop} {d : Spec} (hr : ∀ x p s, P s → P (d.run x p s).state) (p : Packet)
    {s : State} (h : P s) : P (d.answerZero p s).state := by
  unfold Spec.answerZero; dsimp only
  split
  · split
    · exact h
    · exact hr _ _ _ h
  · exact h

theorem CarriersKeep.unbuffer {P : State → Prop} (k : CarriersKeep P) {s : State} (h : P s) (p : Packet) : P (s.unbuffer p) := by
  unfold State.unbuffer; split
  · exact k.eth s _ h
  · exact h

/-- The way in through a port keeps what the carriers and the packet's own way keep. -/
theorem CarriersKeep.arrive {P : State → Prop} (k : CarriersKeep P) {d : Spec} {p : Packet} {go : State → State}
    (hg : ∀ s, P s → P (go s)) {s : State} (h : P s) : P (Machine.arrive d p go s) := by
  have hu := k.unbuffer h p
  unfold Machine.arrive; split
  · exact hu
  · exact k.eth _ _ hu
  · split
    · unfold State.buffer; dsimp only; split
      · exact h
      · split <;> exact k.eth s _ h
    · exact hg _ hu

theorem CarriersKeep.hold {P : State → Prop} (k : CarriersKeep P) {s : State} (h : P s) (d : Spec) (x : Session) (p : Packet) :
    P (s.hold d x p) := k.fcp _ _ (k.modSession h _ _)

/-- The arrival of a packet keeps what its command and the carriers keep. -/
theorem CarriersKeep.receive {P : State → Prop} (k : CarriersKeep P) {d : Spec} (hr : ∀ x p s, P s → P (d.run x p s).state) (p : Packet)
    {s : State} (h : P s) : P (Machine.receive d p s) := by
  have run : ∀ (x : Session) (u : State), P u → P (Machine.runOrHold d x p u) := fun x u hu => by
    unfold Machine.runOrHold; dsimp only; split
    · exact k.finish _ _ _ (CarriersKeep.answer hr x p hu)
    · exact k.hold hu _ _ _
  have start : ∀ (x : Session) (u : State), P u → P (Machine.start d x p u) := fun x u hu => by
    unfold Machine.start; split
    · exact k.hold hu _ _ _
    · exact run x u hu
  have op : ∀ x u, P u → P (openPacket d x p u) := by
    intro x u hu
    have h1 : P (u.heard x p) := k.modSession hu _ _
    unfold openPacket; dsimp only
    split; · exact k.reply h1 _ _ _ _ _
    split; · exact k.reply h1 _ _ _ _ _
    split
    · split; · exact h1
      exact k.eth _ _ h1
    · split
      · exact k.eth _ _ h1
      · split; · exact h1
        split; · exact start x _ h1
        exact k.reply h1 _ _ _ _ _
      · exact start x _ h1
  unfold Machine.receive
  split
  · unfold runHeld; dsimp only
    have hd : P (s.dequeue p) := k.fcp s _ h
    split <;> split
    · exact k.finish _ _ _ hd
    · exact h
    · exact k.finish _ _ _ (CarriersKeep.answer hr _ _ hd)
    · exact h
  · refine k.arrive (fun u hu => ?_) h
    split; · exact k.eth u _ hu
    split; · exact k.eth u _ hu
    split; · exact k.eth u _ hu
    exact op _ _ hu

theorem CarriersKeep.receiveBoth {P : State → Prop} (k : CarriersKeep P) {d : Spec} {ok : State → Bool}
    (hr : ∀ x p s, P s → P (d.run x p s).state) (p : Packet) {s : State} (h : P s) : P (Machine.receiveBoth d ok p s) := by
  have run : ∀ q u : State, P q → P u → P (runZero d p q u) := fun q u hq hu => by
    unfold runZero; dsimp only; split
    · exact k.reply (CarriersKeep.answerZero hr p hu) _ _ _ _ _
    · exact hq
  unfold Machine.receiveBoth; split
  · unfold receiveZero; split
    · exact run _ _ h (k.fcp s _ h)
    · refine k.arrive (fun u hu => ?_) h
      split; · exact k.eth u _ hu
      split; · exact k.reply hu _ _ _ _ _
      exact run _ _ (k.fcp u _ hu) hu
  · exact k.receive hr p h

end Sys2Proof.Machine
end

