-- ==== Sys2Proof/Laws/Frames.lean ====
section
/-! SUPPORT. Frames of the shared operations: none of them touches the queue of waiting commands, and none changes a fuse but the opening
of the spy-hole port and READY. One lemma for each operation, cited instead of unfolding it. -/
namespace Sys2Proof.Machine

theorem foldl_kept {α : Type} (f : State → α → State) (h : ∀ s x, (f s x).pending = s.pending ∧ (f s x).fuses = s.fuses) (l : List α) (s : State) :
    (l.foldl f s).pending = s.pending ∧ (l.foldl f s).fuses = s.fuses := by
  induction l generalizing s with
  | nil => exact ⟨rfl, rfl⟩
  | cons a t ih => exact ⟨(ih (f s a)).1.trans (h s a).1, (ih (f s a)).2.trans (h s a).2⟩

@[simp] theorem ite_pending (c : Prop) [Decidable c] (a b : State) : (if c then a else b).pending = if c then a.pending else b.pending := by split <;> rfl

@[simp] theorem ite_fuses (c : Prop) [Decidable c] (a b : State) : (if c then a else b).fuses = if c then a.fuses else b.fuses := by split <;> rfl

@[simp] theorem foldl_pending {α : Type} (f : State → α → State) (h : ∀ s x, (f s x).pending = s.pending) (l : List α) (s : State) :
    (l.foldl f s).pending = s.pending := by
  induction l generalizing s with
  | nil => rfl
  | cons a t ih => exact (ih (f s a)).trans (h s a)

@[simp] theorem foldl_fuses {α : Type} (f : State → α → State) (h : ∀ s x, (f s x).fuses = s.fuses) (l : List α) (s : State) :
    (l.foldl f s).fuses = s.fuses := by
  induction l generalizing s with
  | nil => rfl
  | cons a t ih => exact (ih (f s a)).trans (h s a)

@[simp] theorem send_kept (p : OutPacket) (s : State) :
    (State.send p s).pending = s.pending ∧ (State.send p s).fuses = s.fuses := by
  simp [State.send]

@[simp] theorem noticeTo_kept (r : EventRec) (x : Session) (s : State) :
    (noticeTo r x s).pending = s.pending ∧ (noticeTo r x s).fuses = s.fuses := by
  simp [noticeTo]

@[simp] theorem notify_kept (r : EventRec) (s : State) :
    (State.notify r s).pending = s.pending ∧ (State.notify r s).fuses = s.fuses := by
  simp [State.notify]

@[simp] theorem raiseNotice_kept (r : EventRec) (s : State) :
    (State.raiseNotice r s).pending = s.pending ∧ (State.raiseNotice r s).fuses = s.fuses := by
  simp [State.raiseNotice]

@[simp] theorem addEvent_kept (kind : Nat) (flags : Nat) (sched : Nat) (wall : Nat) (data : Bytes) (attach : Bytes) (s : State) :
    (State.addEvent kind flags sched wall data attach s).pending = s.pending ∧ (State.addEvent kind flags sched wall data attach s).fuses = s.fuses := by
  simp [State.addEvent]

@[simp] theorem eventLow_kept (s : State) :
    (State.eventLow s).pending = s.pending ∧ (State.eventLow s).fuses = s.fuses := by
  simp [State.eventLow]

@[simp] theorem eventAt_kept (kind : Nat) (flags : Nat) (sched : Nat) (wall : Nat) (data : Bytes) (attach : Bytes) (s : State) :
    (State.eventAt kind flags sched wall data attach s).pending = s.pending ∧ (State.eventAt kind flags sched wall data attach s).fuses = s.fuses := by
  simp [State.eventAt]

@[simp] theorem event_kept (kind : Nat) (data : Bytes) (attach : Bytes) (s : State) :
    (State.event kind data attach s).pending = s.pending ∧ (State.event kind data attach s).fuses = s.fuses := by
  simp [State.event]

@[simp] theorem inputLow_kept (s : State) :
    (State.inputLow s).pending = s.pending ∧ (State.inputLow s).fuses = s.fuses := by
  simp [State.inputLow]

@[simp] theorem setJobState_kept (st : JobState) (status : Nat) (s : State) :
    (State.setJobState st status s).pending = s.pending ∧ (State.setJobState st status s).fuses = s.fuses := by
  simp [State.setJobState]

@[simp] theorem freezeSession_kept (id : Nat) (status : Nat) (seq : Nat) (r : FaultRec) (s : State) :
    (State.freezeSession id status seq r s).pending = s.pending ∧ (State.freezeSession id status seq r s).fuses = s.fuses := by
  simp [State.freezeSession]

@[simp] theorem changeHealth_kept (f : Health → Health) (s : State) :
    (State.changeHealth f s).pending = s.pending ∧ (State.changeHealth f s).fuses = s.fuses := by
  simp [State.changeHealth]

@[simp] theorem addRepair_kept (entry : Nat) (s : State) :
    (State.addRepair entry s).pending = s.pending ∧ (State.addRepair entry s).fuses = s.fuses := by
  simp [State.addRepair]

@[simp] theorem makeSuspect_kept (reason : Nat) (core : Nat) (slice : Nat) (evidence : Bytes) (s : State) :
    (State.makeSuspect reason core slice evidence s).pending = s.pending ∧ (State.makeSuspect reason core slice evidence s).fuses = s.fuses := by
  simp [State.makeSuspect]

@[simp] theorem setCore_kept (c : Fin 8) (k : CoreState) (s : State) :
    (State.setCore c k s).pending = s.pending ∧ (State.setCore c k s).fuses = s.fuses := by
  simp [State.setCore]

@[simp] theorem modCore_kept (c : Fin 8) (f : CoreState → CoreState) (s : State) :
    (State.modCore c f s).pending = s.pending ∧ (State.modCore c f s).fuses = s.fuses := by
  simp [State.modCore]

@[simp] theorem setPort_kept (p : Fin 16) (x : PortState) (s : State) :
    (State.setPort p x s).pending = s.pending ∧ (State.setPort p x s).fuses = s.fuses := by
  simp [State.setPort]

@[simp] theorem modPort_kept (p : Fin 16) (f : PortState → PortState) (s : State) :
    (State.modPort p f s).pending = s.pending ∧ (State.modPort p f s).fuses = s.fuses := by
  simp [State.modPort]

@[simp] theorem drawFree_kept (s : State) :
    (State.drawFree s).2.pending = s.pending ∧ (State.drawFree s).2.fuses = s.fuses := by
  simp [State.drawFree]

@[simp] theorem setCounter_kept (c : Nat) (v : Nat) (s : State) :
    (State.setCounter c v s).pending = s.pending ∧ (State.setCounter c v s).fuses = s.fuses := by
  simp [State.setCounter]

@[simp] theorem countCorrected_kept (hbm : Bool) (n : Nat) (s : State) :
    (State.countCorrected hbm n s).pending = s.pending ∧ (State.countCorrected hbm n s).fuses = s.fuses := by
  simp [State.countCorrected]

@[simp] theorem correctedRow_kept (row : Nat) (s : State) :
    (State.correctedRow row s).pending = s.pending ∧ (State.correctedRow row s).fuses = s.fuses := by
  simp [State.correctedRow]

@[simp] theorem correct_kept (hbm : Bool) (marks : List Nat) (s : State) :
    (State.correct hbm marks s).pending = s.pending ∧ (State.correct hbm marks s).fuses = s.fuses := by
  simp [State.correct]

@[simp] theorem freezeMaster_kept (m : Nat) (s : State) :
    (State.freezeMaster m s).pending = s.pending ∧ (State.freezeMaster m s).fuses = s.fuses := by
  unfold State.freezeMaster
  dsimp only
  (repeat' split) <;> simp_all

@[simp] theorem countUncorrected_kept (hbm : Bool) (s : State) :
    (State.countUncorrected hbm s).pending = s.pending ∧ (State.countUncorrected hbm s).fuses = s.fuses := by
  simp [State.countUncorrected]

@[simp] theorem raiseFault_kept (r : FaultRec) (s : State) :
    (State.raiseFault r s).pending = s.pending ∧ (State.raiseFault r s).fuses = s.fuses := by
  simp [State.raiseFault]

@[simp] theorem raiseFaultEvent_kept (s : State) :
    (State.raiseFaultEvent s).pending = s.pending ∧ (State.raiseFaultEvent s).fuses = s.fuses := by
  simp [State.raiseFaultEvent]

@[simp] theorem remember_kept (sl : Option (Fin 8)) (a n : Nat) (s : State) :
    (State.remember sl a n s).pending = s.pending ∧ (State.remember sl a n s).fuses = s.fuses := by
  simp [State.remember]

@[simp] theorem apply_kept (e : Effect) (s : State) :
    (State.apply e s).pending = s.pending ∧ (State.apply e s).fuses = s.fuses := by
  unfold State.apply
  (repeat' split) <;> simp

@[simp] theorem spoilRead_kept (x u : BankUse) (s : State) :
    (State.spoilRead x u s).pending = s.pending ∧ (State.spoilRead x u s).fuses = s.fuses := by
  simp [State.spoilRead]

@[simp] theorem spoilReads_kept (used : List BankUse) (u : BankUse) (s : State) :
    (State.spoilReads used u s).pending = s.pending ∧ (State.spoilReads used u s).fuses = s.fuses := by
  simp [State.spoilReads]

theorem landOne_kept (a : State × List BankUse) (t : Timed) :
    (landOne a t).1.pending = a.1.pending ∧ (landOne a t).1.fuses = a.1.fuses := by
  obtain ⟨s, u⟩ := a
  unfold landOne
  (repeat' split) <;> simp_all <;> (repeat' split) <;> simp_all

@[simp] theorem landAll_kept (l : List Timed) (a : State × List BankUse) :
    (l.foldl landOne a).1.pending = a.1.pending ∧ (l.foldl landOne a).1.fuses = a.1.fuses := by
  induction l generalizing a with
  | nil => exact ⟨rfl, rfl⟩
  | cons t l ih => exact ⟨(ih _).1.trans (landOne_kept a t).1, (ih _).2.trans (landOne_kept a t).2⟩

@[simp] theorem advance_kept (i : Issue) (extra : Nat) (s : State) :
    (State.advance i extra s).pending = s.pending ∧ (State.advance i extra s).fuses = s.fuses := by
  simp [State.advance]

@[simp] theorem launch_kept (i : Issue) (s u : State) :
    (State.launch i s u).pending = s.pending ∧ (State.launch i s u).fuses = s.fuses := by
  simp [State.launch]

@[simp] theorem issueUnit_kept (i : Issue) (plan : State → Origin → Plan) (s : State) :
    (State.issueUnit i plan s).pending = s.pending ∧ (State.issueUnit i plan s).fuses = s.fuses := by
  unfold State.issueUnit
  dsimp only
  (repeat' split) <;> simp_all

@[simp] theorem clearFaultLog_kept (s : State) :
    (State.clearFaultLog s).pending = s.pending ∧ (State.clearFaultLog s).fuses = s.fuses := by
  simp [State.clearFaultLog]

@[simp] theorem clearPolicyClipped_kept (s : State) :
    (State.clearPolicyClipped s).pending = s.pending ∧ (State.clearPolicyClipped s).fuses = s.fuses := by
  simp [State.clearPolicyClipped]

@[simp] theorem declareSuspect_kept (v : Nat) (s : State) :
    (State.declareSuspect v s).pending = s.pending ∧ (State.declareSuspect v s).fuses = s.fuses := by
  simp [State.declareSuspect]

@[simp] theorem follow_kept (origin : Bool) (port lane : BitVec 4) (s : State) :
    (State.follow origin port lane s).pending = s.pending ∧ (State.follow origin port lane s).fuses = s.fuses := by
  simp [State.follow]

@[simp] theorem setReg_kept (n : Nat) (inst : Nat) (v : Nat) (bits : Nat) (s : State) :
    (State.setReg n inst v bits s).pending = s.pending ∧ (State.setReg n inst v bits s).fuses = s.fuses := by
  unfold State.setReg
  (repeat' split) <;> simp

@[simp] theorem addShadow_kept (x : Shadow) (s : State) :
    (State.addShadow x s).pending = s.pending ∧ (State.addShadow x s).fuses = s.fuses := by
  simp [State.addShadow]

@[simp] theorem activateReg_kept (seq : Nat) (due : List Shadow) (reg : Nat) (s : State) :
    (activateReg seq due reg s).pending = s.pending ∧ (activateReg seq due reg s).fuses = s.fuses := by
  unfold activateReg
  dsimp only
  (repeat' split) <;> simp_all

@[simp] theorem activate_kept (seq : Nat) (exact : Bool) (s : State) :
    (State.activate seq exact s).pending = s.pending ∧ (State.activate seq exact s).fuses = s.fuses := by
  simp [State.activate]

@[simp] theorem capture_kept (r : BarrierRec) (s : State) :
    (State.capture r s).pending = s.pending ∧ (State.capture r s).fuses = s.fuses := by
  simp [State.capture]

@[simp] theorem startStream_kept (s : State) :
    (State.startStream s).pending = s.pending ∧ (State.startStream s).fuses = s.fuses := by
  unfold State.startStream
  (repeat' split) <;> simp

@[simp] theorem captureCommit_kept (r : BarrierRec) (s : State) :
    (State.captureCommit r s).pending = s.pending ∧ (State.captureCommit r s).fuses = s.fuses := by
  simp [State.captureCommit]

@[simp] theorem noteWaits_kept (r : BarrierRec) (s : State) :
    (State.noteWaits r s).pending = s.pending ∧ (State.noteWaits r s).fuses = s.fuses := by
  simp [State.noteWaits]

@[simp] theorem barrierTokens_kept (r : BarrierRec) (b : Nat) (s : State) :
    (State.barrierTokens r b s).pending = s.pending ∧ (State.barrierTokens r b s).fuses = s.fuses := by
  simp [State.barrierTokens]

@[simp] theorem watchBarrier_kept (s : State) :
    (State.watchBarrier s).pending = s.pending ∧ (State.watchBarrier s).fuses = s.fuses := by
  unfold State.watchBarrier
  (repeat' split) <;> simp

@[simp] theorem clearTokens_kept (s : State) :
    (State.clearTokens s).pending = s.pending ∧ (State.clearTokens s).fuses = s.fuses := by
  simp [State.clearTokens]

@[simp] theorem clearRestart_kept (s : State) :
    (State.clearRestart s).pending = s.pending ∧ (State.clearRestart s).fuses = s.fuses := by
  simp [State.clearRestart]

@[simp] theorem stepNotice_kept (ab : Bool) (t : Nat) (group : Nat) (rcd : Bytes) (s : State) :
    (stepNotice ab t group rcd s).pending = s.pending ∧ (stepNotice ab t group rcd s).fuses = s.fuses := by
  simp [stepNotice]

@[simp] theorem commit_kept (s : State) :
    (State.commit s).pending = s.pending ∧ (State.commit s).fuses = s.fuses := by
  simp [State.commit]

@[simp] theorem switchPoint_kept (p : Nat) (s : State) :
    (State.switchPoint p s).pending = s.pending ∧ (State.switchPoint p s).fuses = s.fuses := by
  simp [State.switchPoint]

@[simp] theorem opPointAction_kept (seq : Nat) (s : State) :
    (State.opPointAction seq s).pending = s.pending ∧ (State.opPointAction seq s).fuses = s.fuses := by
  unfold State.opPointAction
  (repeat' split) <;> simp

@[simp] theorem setRing_kept (x : Ring) (s : State) :
    (State.setRing x s).pending = s.pending ∧ (State.setRing x s).fuses = s.fuses := by
  simp [State.setRing]

@[simp] theorem takeRing_kept (s : State) (t : Take) :
    (takeRing s t).pending = s.pending ∧ (takeRing s t).fuses = s.fuses := by
  simp [takeRing]

@[simp] theorem endSoak_kept (s : State) :
    (State.endSoak s).pending = s.pending ∧ (State.endSoak s).fuses = s.fuses := by
  simp [State.endSoak]

@[simp] theorem recordHold_kept (r : BarrierRec) (s : State) :
    (State.recordHold r s).pending = s.pending ∧ (State.recordHold r s).fuses = s.fuses := by
  simp [State.recordHold]

@[simp] theorem endStand_kept (s : State) :
    (State.endStand s).pending = s.pending ∧ (State.endStand s).fuses = s.fuses := by
  unfold State.endStand
  dsimp only
  (repeat' split) <;> simp

@[simp] theorem haltAt_kept (how : Resume) (s : State) :
    (State.haltAt how s).pending = s.pending ∧ (State.haltAt how s).fuses = s.fuses := by
  simp [State.haltAt]

@[simp] theorem actionsFrom4_kept (r : BarrierRec) (s : State) :
    (State.actionsFrom4 r s).pending = s.pending ∧ (State.actionsFrom4 r s).fuses = s.fuses := by
  simp [State.actionsFrom4]

@[simp] theorem barrierActions_kept (r : BarrierRec) (s : State) :
    (State.barrierActions r s).pending = s.pending ∧ (State.barrierActions r s).fuses = s.fuses := by
  unfold State.barrierActions
  dsimp only
  (repeat' split) <;> simp_all

@[simp] theorem takeStop_kept (cause : Nat) (loc : Bool) (port : Nat) (x : Nat) (s : State) :
    (State.takeStop cause loc port x s).pending = s.pending ∧ (State.takeStop cause loc port x s).fuses = s.fuses := by
  unfold State.takeStop
  (repeat' split) <;> simp

@[simp] theorem raiseSoak_kept (cause : Nat) (tag : Nat) (held : Bool) (s : State) :
    (State.raiseSoak cause tag held s).pending = s.pending ∧ (State.raiseSoak cause tag held s).fuses = s.fuses := by
  simp [State.raiseSoak]

@[simp] theorem clearCause_kept (cause : Nat) (tag : Nat) (s : State) :
    (State.clearCause cause tag s).pending = s.pending ∧ (State.clearCause cause tag s).fuses = s.fuses := by
  simp [State.clearCause]

@[simp] theorem releaseCkpt_kept (s : State) :
    (State.releaseCkpt s).pending = s.pending ∧ (State.releaseCkpt s).fuses = s.fuses := by
  simp [State.releaseCkpt]

@[simp] theorem reraise_kept (s : State) :
    (State.reraise s).pending = s.pending ∧ (State.reraise s).fuses = s.fuses := by
  unfold State.reraise
  (repeat' split) <;> simp

@[simp] theorem beginHold_kept (r : BarrierRec) (cause : Nat) (s : State) :
    (State.beginHold r cause s).pending = s.pending ∧ (State.beginHold r cause s).fuses = s.fuses := by
  unfold State.beginHold
  dsimp only
  (repeat' split) <;> simp_all

@[simp] theorem evaluate_kept (r : BarrierRec) (s : State) :
    (State.evaluate r s).pending = s.pending ∧ (State.evaluate r s).fuses = s.fuses := by
  simp [State.evaluate]

@[simp] theorem settleToken_kept (s : State) :
    (State.settleToken s).pending = s.pending ∧ (State.settleToken s).fuses = s.fuses := by
  unfold State.settleToken
  dsimp only
  (repeat' split) <;> simp

@[simp] theorem passBarrierWords_kept (s : State) :
    (State.passBarrierWords s).pending = s.pending ∧ (State.passBarrierWords s).fuses = s.fuses := by
  simp [State.passBarrierWords]

@[simp] theorem takeToken_kept (p : Fin 16) (grid : Nat) (s : State) :
    (State.takeToken p grid s).pending = s.pending ∧ (State.takeToken p grid s).fuses = s.fuses := by
  simp [State.takeToken]

@[simp] theorem haltStanding_kept (s : State) :
    (State.haltStanding s).pending = s.pending ∧ (State.haltStanding s).fuses = s.fuses := by
  simp [State.haltStanding]

@[simp] theorem watchRestart_kept (s : State) :
    (State.watchRestart s).pending = s.pending ∧ (State.watchRestart s).fuses = s.fuses := by
  simp [State.watchRestart]

@[simp] theorem beginStep_kept (t : Nat) (s : State) :
    (State.beginStep t s).pending = s.pending ∧ (State.beginStep t s).fuses = s.fuses := by
  simp [State.beginStep]

@[simp] theorem resumeStart_kept (s : State) :
    (State.resumeStart s).pending = s.pending ∧ (State.resumeStart s).fuses = s.fuses := by
  unfold State.resumeStart
  dsimp only
  (repeat' split) <;> simp_all

@[simp] theorem writeKeys_kept (f : KeyStore → KeyStore) (s : State) :
    (State.writeKeys f s).pending = s.pending ∧ (State.writeKeys f s).fuses = s.fuses := by
  simp [State.writeKeys]

@[simp] theorem setSeatKey_kept (seat : Nat) (key : Bytes) (s : State) :
    (State.setSeatKey seat key s).pending = s.pending ∧ (State.setSeatKey seat key s).fuses = s.fuses := by
  simp [State.setSeatKey]

@[simp] theorem writeHealth_kept (s : State) :
    (State.writeHealth s).pending = s.pending ∧ (State.writeHealth s).fuses = s.fuses := by
  unfold State.writeHealth
  (repeat' split) <;> simp

@[simp] theorem modSession_kept (id : Nat) (f : Session → Session) (s : State) :
    (State.modSession id f s).pending = s.pending ∧ (State.modSession id f s).fuses = s.fuses := by
  simp [State.modSession]

@[simp] theorem endStream_kept (s : State) :
    (State.endStream s).pending = s.pending ∧ (State.endStream s).fuses = s.fuses := by
  simp [State.endStream]

@[simp] theorem dropStream_kept (s : State) :
    (State.dropStream s).pending = s.pending ∧ (State.dropStream s).fuses = s.fuses := by
  simp [State.dropStream]

@[simp] theorem endStreamOf_kept (id : Nat) (s : State) :
    (State.endStreamOf id s).pending = s.pending ∧ (State.endStreamOf id s).fuses = s.fuses := by
  simp [State.endStreamOf]

@[simp] theorem closeSession_kept (id : Nat) (s : State) :
    (State.closeSession id s).pending = s.pending ∧ (State.closeSession id s).fuses = s.fuses := by
  simp [State.closeSession]

@[simp] theorem closeSessions_kept (f : Session → Bool) (s : State) :
    (State.closeSessions f s).pending = s.pending ∧ (State.closeSessions f s).fuses = s.fuses := by
  simp [State.closeSessions]

@[simp] theorem dropTag_kept (port : Fin 2) (s : State) :
    (State.dropTag port s).pending = s.pending ∧ (State.dropTag port s).fuses = s.fuses := by
  simp [State.dropTag]

@[simp] theorem dropReplay_kept (port : Fin 2) (s : State) :
    (State.dropReplay port s).pending = s.pending ∧ (State.dropReplay port s).fuses = s.fuses := by
  simp [State.dropReplay]

@[simp] theorem reply_kept (p : Packet) (opcode : Nat) (key : Option Bytes) (status : Nat) (params : Bytes) (s : State) :
    (State.reply p opcode key status params s).pending = s.pending ∧ (State.reply p opcode key status params s).fuses = s.fuses := by
  simp [State.reply]

theorem finish_kept (opcode : Nat) (x : Session) (p : Packet) (r : Reply) :
    (finish opcode x p r).pending = r.state.pending ∧ (finish opcode x p r).fuses = r.state.fuses := by
  have k : (r.send opcode x p).pending = r.state.pending ∧ (r.send opcode x p).fuses = r.state.fuses := by
    unfold Reply.send; dsimp only; split <;> simp
  unfold finish
  dsimp only
  split <;> simpa using k

@[simp] theorem enqueue_kept (d : Spec) (p : Packet) (slots : List (Nat × Nat)) (s : State) :
    (State.enqueue d p slots s).pending = s.pending ∧ (State.enqueue d p slots s).fuses = s.fuses := by
  simp [State.enqueue]

@[simp] theorem dequeue_kept (p : Packet) (s : State) :
    (State.dequeue p s).pending = s.pending ∧ (State.dequeue p s).fuses = s.fuses := by
  simp [State.dequeue]

@[simp] theorem hold_kept (d : Spec) (x : Session) (p : Packet) (s : State) :
    (State.hold d x p s).pending = s.pending ∧ (State.hold d x p s).fuses = s.fuses := by
  simp [State.hold]

theorem answer_pending (d : Spec) (x : Session) (p : Packet) (s : State) (h : ∀ x p s, (d.run x p s).state.pending = s.pending) :
    (d.answer x p s).state.pending = s.pending := by
  unfold Spec.answer
  dsimp only
  (repeat' split) <;> simp [Reply.refuse, h]

@[simp] theorem unbuffer_kept (p : Packet) (s : State) :
    (State.unbuffer p s).pending = s.pending ∧ (State.unbuffer p s).fuses = s.fuses := by
  simp [State.unbuffer]

@[simp] theorem buffer_kept (d : Spec) (p : Packet) (s : State) :
    (State.buffer d p s).pending = s.pending ∧ (State.buffer d p s).fuses = s.fuses := by
  simp [State.buffer]

@[simp] theorem heard_kept (x : Session) (p : Packet) (s : State) :
    (State.heard x p s).pending = s.pending ∧ (State.heard x p s).fuses = s.fuses := by
  simp [State.heard]

@[simp] theorem lose_kept (pins : PinState) (s : State) :
    (State.lose pins s).pending = s.pending ∧ (State.lose pins s).fuses = s.fuses := by
  unfold State.lose
  dsimp only
  exact ⟨rfl, (writeHealth_kept s).2⟩

@[simp] theorem railsOff_kept (s : State) :
    (State.railsOff s).pending = s.pending ∧ (State.railsOff s).fuses = s.fuses := by
  simp [State.railsOff]

@[simp] theorem thermalTrip_kept (s : State) :
    (State.thermalTrip s).pending = s.pending ∧ (State.thermalTrip s).fuses = s.fuses := by
  simp [State.thermalTrip]

@[simp] theorem modMon_kept (src : Source) (f : SourceMon → SourceMon) (s : State) :
    (State.modMon src f s).pending = s.pending ∧ (State.modMon src f s).fuses = s.fuses := by
  simp [State.modMon]

@[simp] theorem railsBack_kept (s : State) :
    (State.railsBack s).pending = s.pending ∧ (State.railsBack s).fuses = s.fuses := by
  simp [State.railsBack]

@[simp] theorem discardPoint_kept (s : State) :
    (State.discardPoint s).pending = s.pending ∧ (State.discardPoint s).fuses = s.fuses := by
  unfold State.discardPoint
  (repeat' split) <;> simp

@[simp] theorem discardRising_kept (s : State) :
    (State.discardRising s).pending = s.pending ∧ (State.discardRising s).fuses = s.fuses := by
  unfold State.discardRising
  (repeat' split) <;> simp

@[simp] theorem loseClock_kept (src : Source) (check : Nat) (ppm : Nat) (s : State) :
    (State.loseClock src check ppm s).pending = s.pending ∧ (State.loseClock src check ppm s).fuses = s.fuses := by
  simp [State.loseClock]

@[simp] theorem sourceFails_kept (src : Source) (check : Nat) (ppm : Nat) (s : State) :
    (State.sourceFails src check ppm s).pending = s.pending ∧ (State.sourceFails src check ppm s).fuses = s.fuses := by
  simp [State.sourceFails]

@[simp] theorem localReturns_kept (s : State) :
    (State.localReturns s).pending = s.pending ∧ (State.localReturns s).fuses = s.fuses := by
  simp [State.localReturns]

@[simp] theorem sourceReady_kept (src : Source) (s : State) :
    (State.sourceReady src s).pending = s.pending ∧ (State.sourceReady src s).fuses = s.fuses := by
  simp [State.sourceReady]

@[simp] theorem fineGate_kept (src : Source) (ppm : Int) (s : State) :
    (State.fineGate src ppm s).pending = s.pending ∧ (State.fineGate src ppm s).fuses = s.fuses := by
  simp [State.fineGate]

@[simp] theorem compareGate_kept (src : Source) (ppm : Int) (s : State) :
    (State.compareGate src ppm s).pending = s.pending ∧ (State.compareGate src ppm s).fuses = s.fuses := by
  simp [State.compareGate]

@[simp] theorem ethFails_kept (s : State) :
    (State.ethFails s).pending = s.pending ∧ (State.ethFails s).fuses = s.fuses := by
  simp [State.ethFails]

@[simp] theorem switchRoot_kept (s : State) :
    (State.switchRoot s).pending = s.pending ∧ (State.switchRoot s).fuses = s.fuses := by
  simp [State.switchRoot]

@[simp] theorem setCoreMv_kept (v : Nat) (s : State) :
    (State.setCoreMv v s).pending = s.pending ∧ (State.setCoreMv v s).fuses = s.fuses := by
  simp [State.setCoreMv]

@[simp] theorem clipPolicy_kept (reason : Nat) (held : Nat) (s : State) :
    (State.clipPolicy reason held s).pending = s.pending ∧ (State.clipPolicy reason held s).fuses = s.fuses := by
  simp [State.clipPolicy]

@[simp] theorem samplePower_kept (m : PowerMeasure) (s : State) :
    (State.samplePower m s).pending = s.pending ∧ (State.samplePower m s).fuses = s.fuses := by
  simp [State.samplePower]

@[simp] theorem thermal_kept (sensor : Nat) (level : Nat) (value : Int) (threshold : Int) (s : State) :
    (State.thermal sensor level value threshold s).pending = s.pending ∧ (State.thermal sensor level value threshold s).fuses = s.fuses := by
  simp [State.thermal]

@[simp] theorem noticeLevel_kept (sensor : Nat) (was : Bool) (is_ : Bool) (t : Int) (level : Int) (s : State) :
    (State.noticeLevel sensor was is_ t level s).pending = s.pending ∧ (State.noticeLevel sensor was is_ t level s).fuses = s.fuses := by
  simp [State.noticeLevel]

@[simp] theorem soakLevel_kept (sensor : Nat) (was : Bool) (t : Int) (level : Int) (s : State) :
    (State.soakLevel sensor was t level s).pending = s.pending ∧ (State.soakLevel sensor was t level s).fuses = s.fuses := by
  simp [State.soakLevel]

@[simp] theorem dieReading_kept (s : State) (x : Nat × BitVec 16) :
    (State.dieReading s x).pending = s.pending ∧ (State.dieReading s x).fuses = s.fuses := by
  simp [State.dieReading]

@[simp] theorem flowReading_kept (flow : Nat) (s : State) :
    (State.flowReading flow s).pending = s.pending ∧ (State.flowReading flow s).fuses = s.fuses := by
  simp [State.flowReading]

@[simp] theorem sliceFails_kept (c : Fin 8) (slice : Nat) (mode : Nat) (detail : Nat) (s : State) :
    (State.sliceFails c slice mode detail s).pending = s.pending ∧ (State.sliceFails c slice mode detail s).fuses = s.fuses := by
  simp [State.sliceFails]

@[simp] theorem fullPass_kept (c : Fin 8) (mode : Nat) (s : State) :
    (State.fullPass c mode s).pending = s.pending ∧ (State.fullPass c mode s).fuses = s.fuses := by
  simp [State.fullPass]

@[simp] theorem assignRows_kept (s : State) :
    (State.assignRows s).pending = s.pending ∧ (State.assignRows s).fuses = s.fuses := by
  simp [State.assignRows]

@[simp] theorem useRows_kept (rows : List Nat) (s : State) :
    (State.useRows rows s).pending = s.pending ∧ (State.useRows rows s).fuses = s.fuses := by
  simp [State.useRows]

@[simp] theorem extendedPass_kept (mode : Nat) (failed : List (Fin 8 × Fin 40)) (s : State) :
    (State.extendedPass mode failed s).pending = s.pending ∧ (State.extendedPass mode failed s).fuses = s.fuses := by
  simp [State.extendedPass]

@[simp] theorem sliceDone_kept (c : Fin 8) (pass : Bool) (detail : Nat) (s : State) :
    (State.sliceDone c pass detail s).pending = s.pending ∧ (State.sliceDone c pass detail s).fuses = s.fuses := by
  simp [State.sliceDone]

@[simp] theorem marchErrors_kept (c : Fin 8) (a stop : Nat) (s : State) :
    (State.marchErrors c a stop s).pending = s.pending ∧ (State.marchErrors c a stop s).fuses = s.fuses := by
  simp [State.marchErrors]

@[simp] theorem modPins_kept (f : PinState → PinState) (s : State) :
    (State.modPins f s).pending = s.pending ∧ (State.modPins f s).fuses = s.fuses := by
  simp [State.modPins]

@[simp] theorem toStage_kept (n : Nat) (s : State) :
    (State.toStage n s).pending = s.pending ∧ (State.toStage n s).fuses = s.fuses := by
  simp [State.toStage]

@[simp] theorem applyRelease_kept (image : Bytes) (s : State) :
    (State.applyRelease image s).pending = s.pending ∧ (State.applyRelease image s).fuses = s.fuses := by
  simp [State.applyRelease]

@[simp] theorem applySaved_kept (s : State) :
    (State.applySaved s).pending = s.pending ∧ (State.applySaved s).fuses = s.fuses := by
  unfold State.applySaved
  (repeat' split) <;> simp

@[simp] theorem firmwareEntry_kept (image : Bytes) (s : State) :
    (State.firmwareEntry image s).pending = s.pending ∧ (State.firmwareEntry image s).fuses = s.fuses := by
  simp [State.firmwareEntry]

@[simp] theorem repairRows_kept (s : State) :
    (State.repairRows s).pending = s.pending ∧ (State.repairRows s).fuses = s.fuses := by
  simp [State.repairRows]

@[simp] theorem trainPort_kept (s : State) (x : Fin 16 × PortTraining) :
    (State.trainPort s x).pending = s.pending ∧ (State.trainPort s x).fuses = s.fuses := by
  simp [State.trainPort]

@[simp] theorem pendingLinks_kept (s : State) :
    (State.pendingLinks s).pending = s.pending ∧ (State.pendingLinks s).fuses = s.fuses := by
  simp [State.pendingLinks]

@[simp] theorem reportLocked_kept (s : State) :
    (State.reportLocked s).pending = s.pending ∧ (State.reportLocked s).fuses = s.fuses := by
  simp [State.reportLocked]

@[simp] theorem refreshNeighbours_kept (s : State) :
    (State.refreshNeighbours s).pending = s.pending ∧ (State.refreshNeighbours s).fuses = s.fuses := by
  simp [State.refreshNeighbours]

@[simp] theorem issueMatrix_kept (i : Issue) (plan : State → Origin → MatPlan) (s : State) :
    (State.issueMatrix i plan s).pending = s.pending ∧ (State.issueMatrix i plan s).fuses = s.fuses := by
  unfold State.issueMatrix
  dsimp only
  (repeat' split) <;> simp_all

@[simp] theorem writePlace_kept (r : Region) (ext : List (Nat × Nat)) (f : Nat → Memory → Memory) (s : State) :
    (writePlace r ext f s).pending = s.pending ∧ (writePlace r ext f s).fuses = s.fuses := by
  unfold writePlace
  split
  · exact ⟨rfl, rfl⟩
  · exact foldl_kept _ (fun s c => by split <;> exact ⟨rfl, rfl⟩) _ _

@[simp] theorem sealTiles_kept (rs : List Region) (r : Region) (prov : Nat → Byte) (ext : List (Nat × Nat)) (s : State) :
    (sealTiles rs r prov ext s).pending = s.pending ∧ (sealTiles rs r prov ext s).fuses = s.fuses := by
  simp [sealTiles]

@[simp] theorem writeInit_kept (rs : List Region) (s : State) (d : InitData) :
    (writeInit rs s d).pending = s.pending ∧ (writeInit rs s d).fuses = s.fuses := by
  simp [writeInit]

@[simp] theorem writeShelf_kept (im : Image) (rs : List Region) (s : State) (i : Nat) :
    (writeShelf im rs s i).pending = s.pending ∧ (writeShelf im rs s i).fuses = s.fuses := by
  simp [writeShelf]

@[simp] theorem writeLedger_kept (im : Image) (rs : List Region) (s : State) :
    (writeLedger im rs s).pending = s.pending ∧ (writeLedger im rs s).fuses = s.fuses := by
  simp [writeLedger]

@[simp] theorem installImage_kept (b : Bytes) (s : State) :
    (installImage b s).pending = s.pending ∧ (installImage b s).fuses = s.fuses := by
  simp [installImage]

@[simp] theorem loadImage_kept (offset : Nat) (len : Nat) (s : State) :
    (loadImage offset len s).2.pending = s.pending ∧ (loadImage offset len s).2.fuses = s.fuses := by
  unfold loadImage
  dsimp only
  (repeat' split) <;> simp_all

@[simp] theorem freshJob_kept (s : State) :
    (State.freshJob s).pending = s.pending ∧ (State.freshJob s).fuses = s.fuses := by
  simp [State.freshJob]

@[simp] theorem startJob_kept (mode : Nat) (s : State) :
    (State.startJob mode s).pending = s.pending ∧ (State.startJob mode s).fuses = s.fuses := by
  simp [State.startJob]

@[simp] theorem haltJob_kept (seq : Nat) (s : State) :
    (State.haltJob seq s).2.pending = s.pending ∧ (State.haltJob seq s).2.fuses = s.fuses := by
  unfold State.haltJob
  (repeat' split) <;> simp

@[simp] theorem unloadJob_kept (s : State) :
    (State.unloadJob s).pending = s.pending ∧ (State.unloadJob s).fuses = s.fuses := by
  simp [State.unloadJob]

@[simp] theorem pointNow_kept (point : Nat) (s : State) :
    (State.pointNow point s).pending = s.pending ∧ (State.pointNow point s).fuses = s.fuses := by
  simp [State.pointNow]

@[simp] theorem pointLater_kept (point : Nat) (seq : Nat) (s : State) :
    (State.pointLater point seq s).pending = s.pending ∧ (State.pointLater point seq s).fuses = s.fuses := by
  simp [State.pointLater]

@[simp] theorem holdFault_kept (s : State) :
    (State.holdFault s).pending = s.pending ∧ (State.holdFault s).fuses = s.fuses := by
  simp [State.holdFault]

@[simp] theorem writeAt_kept (h : HostPlace) (a : Nat) (data : Bytes) (s : State) :
    (State.writeAt h a data s).pending = s.pending ∧ (State.writeAt h a data s).fuses = s.fuses := by
  simp [State.writeAt]

@[simp] theorem readBanks_kept (h : HostPlace) (a len : Nat) (s : State) :
    (State.readBanks h a len s).pending = s.pending ∧ (State.readBanks h a len s).fuses = s.fuses := by
  simp [State.readBanks]

@[simp] theorem hostWrite_kept (h : HostPlace) (off : Nat) (data : Bytes) (s : State) :
    (State.hostWrite h off data s).pending = s.pending ∧ (State.hostWrite h off data s).fuses = s.fuses := by
  unfold State.hostWrite
  (repeat' split) <;> simp

@[simp] theorem logHostFault_kept (r : FaultRec) (s : State) :
    (State.logHostFault r s).pending = s.pending ∧ (State.logHostFault r s).fuses = s.fuses := by
  simp [State.logHostFault]

@[simp] theorem hostUncorrected_kept (h : HostPlace) (a : Nat) (x : Session) (p : Packet) (opcode : Nat) (s : State) :
    (State.hostUncorrected h a x p opcode s).pending = s.pending ∧ (State.hostUncorrected h a x p opcode s).fuses = s.fuses := by
  simp [State.hostUncorrected]

@[simp] theorem publish_kept (t : Take) (id : Nat) (s : State) :
    (State.publish t id s).pending = s.pending ∧ (State.publish t id s).fuses = s.fuses := by
  simp [State.publish]

theorem replayShadow_kept (b : Bytes) (s t : State) (h : s.replayShadow b = some t) :
    t.pending = s.pending ∧ t.fuses = s.fuses := by
  unfold State.replayShadow at h
  dsimp only at h
  split at h
  · cases h
  · cases h; simp

@[simp] theorem loadReplay_kept (k : Nat) (s : State) (l : List Bytes) :
    (loadReplay k s l).2.2.pending = s.pending ∧ (loadReplay k s l).2.2.fuses = s.fuses := by
  induction l generalizing k s with
  | nil => exact ⟨rfl, rfl⟩
  | cons b l ih =>
    unfold loadReplay
    dsimp only
    split
    · split <;> simp [ih]
    · split
      · split
        · simp
        · split
          · simp
          · next t h => simpa [ih] using replayShadow_kept _ _ _ h
      · simp

@[simp] theorem completeStream_kept (s : State) :
    (State.completeStream s).pending = s.pending ∧ (State.completeStream s).fuses = s.fuses := by
  simp [State.completeStream]

@[simp] theorem ckptEvidence_kept (f : FaultRec) (s : State) :
    (State.ckptEvidence f s).pending = s.pending ∧ (State.ckptEvidence f s).fuses = s.fuses := by
  unfold State.ckptEvidence
  dsimp only
  (repeat' split) <;> simp

@[simp] theorem readPart_kept (n : Nat) (s : State) :
    (State.readPart n s).2.pending = s.pending ∧ (State.readPart n s).2.fuses = s.fuses := by
  unfold State.readPart
  dsimp only
  (repeat' split) <;> simp_all

@[simp] theorem restoreTile_kept (i : Nat) (j : Nat) (data : Bytes) (s : State) :
    (State.restoreTile i j data s).pending = s.pending ∧ (State.restoreTile i j data s).fuses = s.fuses := by
  simp [State.restoreTile]

@[simp] theorem restoreTensor_kept (x : StreamSection) (s : State) (p : TensorPlace) :
    (s.restoreTensor x p).pending = s.pending ∧ (s.restoreTensor x p).fuses = s.fuses := by
  unfold State.restoreTensor
  exact foldl_kept _ (fun s x => by split <;> simp) _ _

@[simp] theorem restoreTables_kept (im : Image) (t : Nat) (s : State) :
    (State.restoreTables im t s).pending = s.pending ∧ (State.restoreTables im t s).fuses = s.fuses := by
  simp [State.restoreTables]

@[simp] theorem restoreClassB_kept (b : Bytes) (s : State) :
    (s.restoreClassB b).pending = s.pending ∧ (s.restoreClassB b).fuses = s.fuses := by
  unfold State.restoreClassB
  exact foldl_kept _ (fun s x => by dsimp only; split <;> simp) _ _

@[simp] theorem restoreRings_kept (im : Image) (s : State) :
    (s.restoreRings im).pending = s.pending ∧ (s.restoreRings im).fuses = s.fuses := by
  unfold State.restoreRings
  exact foldl_kept _ (fun s x => by dsimp only; split <;> simp) _ _

@[simp] theorem restoreCounts_kept (im : Image) (r : RestoreStream) (s : State) :
    (State.restoreCounts im r s).pending = s.pending ∧ (State.restoreCounts im r s).fuses = s.fuses := by
  simp [State.restoreCounts]

@[simp] theorem spoilShelf_kept (shelf : Bool) (s : State) :
    (State.spoilShelf shelf s).pending = s.pending ∧ (State.spoilShelf shelf s).fuses = s.fuses := by
  simp [State.spoilShelf]

@[simp] theorem spoilSlot_kept (shelf : Bool) (s : State) :
    (State.spoilSlot shelf s).pending = s.pending ∧ (State.spoilSlot shelf s).fuses = s.fuses := by
  simp [State.spoilSlot]

@[simp] theorem restore_kept (im : Image) (r : RestoreStream) (s : State) :
    (State.restore im r s).pending = s.pending ∧ (State.restore im r s).fuses = s.fuses := by
  unfold State.restore
  simp only [restoreRings_kept, restoreCounts_kept, restoreClassB_kept, restoreTables_kept, apply_kept, spoilSlot_kept, spoilShelf_kept]
  exact foldl_kept _ (fun s x => by split <;> simp) _ _

theorem issueCommon_kept (i : Issue) (extra : Nat) (f : State → State) (s : State)
    (h : ∀ s, (f s).pending = s.pending ∧ (f s).fuses = s.fuses) :
    (issueCommon i extra f s).pending = s.pending ∧ (issueCommon i extra f s).fuses = s.fuses := by
  unfold issueCommon
  split <;> simp [h]

@[simp] theorem counterMismatch_kept (i : Issue) (s : State) :
    (State.counterMismatch i s).pending = s.pending ∧ (State.counterMismatch i s).fuses = s.fuses := by
  simp [State.counterMismatch]

@[simp] theorem counterChange_kept (i : Issue) (e : Effect) (s : State) :
    (counterChange i e s).pending = s.pending ∧ (counterChange i e s).fuses = s.fuses := by
  simp [counterChange]

@[simp] theorem expectCheck_kept (i : Issue) (s : State) :
    (expectCheck i s).pending = s.pending ∧ (expectCheck i s).fuses = s.fuses := by
  simp [expectCheck]

@[simp] theorem authenticate_kept (x : Session) (p : Packet) (s : State) :
    (authenticate x p s).pending = s.pending ∧ (authenticate x p s).fuses = s.fuses := by
  unfold authenticate
  (repeat' split) <;> simp

@[simp] theorem drainNotice_kept (s : State) :
    (State.drainNotice s).pending = s.pending ∧ (State.drainNotice s).fuses = s.fuses := by
  unfold State.drainNotice
  (repeat' split) <;> simp

@[simp] theorem writeCfg_kept (w : CfgOp) (s : State) :
    (State.writeCfg w s).pending = s.pending ∧ (State.writeCfg w s).fuses = s.fuses := by
  simp [State.writeCfg]

@[simp] theorem answer_kept (port : Fin 2) (kind : Nat) (target : Nat) (dst : Nat) (data : Bytes) (s : State) :
    (State.answer port kind target dst data s).pending = s.pending ∧ (State.answer port kind target dst data s).fuses = s.fuses := by
  simp [State.answer]

@[simp] theorem setPtp_kept (port : Fin 2) (waits locked : Bool) (s : State) :
    (State.setPtp port waits locked s).pending = s.pending ∧ (State.setPtp port waits locked s).fuses = s.fuses := by
  simp [State.setPtp]

@[simp] theorem ptpMessage_kept (port : Fin 2) (kind : PtpKind) (locked : Bool) (taiNs : Nat) (s : State) :
    (State.ptpMessage port kind locked taiNs s).pending = s.pending ∧ (State.ptpMessage port kind locked taiNs s).fuses = s.fuses := by
  unfold State.ptpMessage
  (repeat' split) <;> simp

@[simp] theorem hbmAdvance_kept (h : HbmIssue) (s : State) :
    (State.hbmAdvance h s).pending = s.pending ∧ (State.hbmAdvance h s).fuses = s.fuses := by
  simp [State.hbmAdvance]

@[simp] theorem setBank_kept (h : HbmIssue) (b : Bank) (s : State) :
    (State.setBank h b s).pending = s.pending ∧ (State.setBank h b s).fuses = s.fuses := by
  simp [State.setBank]

@[simp] theorem trackLoop_kept (s : State) :
    (State.trackLoop s).pending = s.pending ∧ (State.trackLoop s).fuses = s.fuses := by
  simp [State.trackLoop]

@[simp] theorem uncorrectedBurst_kept (pc : Nat) (bank : Nat) (row : Nat) (xfer : Nat) (addr : Nat) (s : State) :
    (State.uncorrectedBurst pc bank row xfer addr s).pending = s.pending ∧ (State.uncorrectedBurst pc bank row xfer addr s).fuses = s.fuses := by
  unfold State.uncorrectedBurst
  dsimp only
  (repeat' split) <;> simp_all

@[simp] theorem freeBurst_kept (s : State) :
    (State.freeBurst s).2.pending = s.pending ∧ (State.freeBurst s).2.fuses = s.fuses := by
  simp [State.freeBurst]

@[simp] theorem readBurst_kept (h : HbmIssue) (sev : Severity) (row : Nat) (s : State) :
    (State.readBurst h sev row s).pending = s.pending ∧ (State.readBurst h sev row s).fuses = s.fuses := by
  unfold State.readBurst
  (repeat' split) <;> simp

@[simp] theorem reservedSlot_kept (kind : Nat) (channel : Nat) (s : State) :
    (State.reservedSlot kind channel s).pending = s.pending ∧ (State.reservedSlot kind channel s).fuses = s.fuses := by
  unfold State.reservedSlot
  (repeat' split) <;> simp

@[simp] theorem tap_kept (sel : JtagSel) (s : State) :
    (State.tap sel s).pending = s.pending ∧ (State.tap sel s).fuses = s.fuses := by
  simp [State.tap]

@[simp] theorem tapEmpty_kept (sel : JtagSel) (s : State) :
    (State.tapEmpty sel s).pending = s.pending ∧ (State.tapEmpty sel s).fuses = s.fuses := by
  simp [State.tapEmpty]

@[simp] theorem spyCtrl_kept (op : Nat) (core : Nat) (unit : Nat) (addr : Nat) (allowed : Bool) (s : State) :
    (State.spyCtrl op core unit addr allowed s).pending = s.pending ∧ (State.spyCtrl op core unit addr allowed s).fuses = s.fuses := by
  simp [State.spyCtrl]

@[simp] theorem spyWordOf_kept (s : State) (a : SpyAccess) :
    (State.spyWordOf s a).2.pending = s.pending ∧ (State.spyWordOf s a).2.fuses = s.fuses := by
  unfold State.spyWordOf
  dsimp only
  (repeat' split) <;> simp_all

@[simp] theorem ckptFlit_kept (slot : Nat) (s : State) :
    (s.ckptFlit slot).2.pending = s.pending ∧ (s.ckptFlit slot).2.fuses = s.fuses := by
  unfold State.ckptFlit
  have k := readPart_kept 256 s
  split <;> (rename_i h; rw [h] at k)
  · exact k
  · dsimp only; split <;> simpa using k

@[simp] theorem sendControl_kept (p : Fin 16) (slot : Nat) (c : Control) (s : State) :
    (State.sendControl p slot c s).2.pending = s.pending ∧ (State.sendControl p slot c s).2.fuses = s.fuses := by
  unfold State.sendControl
  (repeat' split) <;> simp

@[simp] theorem freeFlit_kept (p : Fin 16) (slot : Nat) (s : State) :
    (s.freeFlit p slot).2.pending = s.pending ∧ (s.freeFlit p slot).2.fuses = s.fuses := by
  unfold State.freeFlit
  dsimp only
  split
  · simp
  · simp
  · split
    · next n _ =>
      have k := ckptFlit_kept n s
      split
      · simp
      · split <;> (rename_i h; rw [h] at k; exact k)
    · simp

@[simp] theorem displaceCkpt_kept (p : Fin 16) (slot : Nat) (s : State) :
    (s.displaceCkpt p slot).pending = s.pending ∧ (s.displaceCkpt p slot).fuses = s.fuses := by
  unfold State.displaceCkpt
  have k := ckptFlit_kept slot s
  split <;> (rename_i h; rw [h] at k; simpa using k)

@[simp] theorem replyFlit_kept (x : ReplyPart) (s : State) :
    (State.replyFlit x s).2.pending = s.pending ∧ (State.replyFlit x s).2.fuses = s.fuses := by
  unfold State.replyFlit
  dsimp only
  (repeat' split) <;> simp

theorem foldlPair_kept {α β : Type} (f : β × State → α → β × State)
    (h : ∀ b x, (f b x).2.pending = b.2.pending ∧ (f b x).2.fuses = b.2.fuses) (l : List α) (b : β × State) :
    (l.foldl f b).2.pending = b.2.pending ∧ (l.foldl f b).2.fuses = b.2.fuses := by
  induction l generalizing b with
  | nil => exact ⟨rfl, rfl⟩
  | cons a t ih => exact ⟨(ih (f b a)).1.trans (h b a).1, (ih (f b a)).2.trans (h b a).2⟩

@[simp] theorem bookedFlits_kept (p : Fin 16) (slot : Nat) (s : State) :
    (State.bookedFlits p slot s).2.pending = s.pending ∧ (State.bookedFlits p slot s).2.fuses = s.fuses := by
  have k := fun f h l b => foldlPair_kept (α := ReplyPart) (β := List Outgoing) f h l b
  unfold State.bookedFlits; dsimp only
  have e := k (fun acc r => (acc.1 ++ [⟨slot, s.now, 0, 0, (acc.2.replyFlit r).1⟩], (acc.2.replyFlit r).2)) (fun b x => by simp)
    ((s.port p).replies.filter (fun r => r.start == s.now))
    (((s.port p).booked.filter (fun b => b.1 == s.now)).map (fun b => ⟨slot, s.now, 0, 0, b.2⟩), s.modPort p (fun x => { x with
      booked := x.booked.filter (fun b => b.1 != s.now), replies := x.replies.filter (fun r => r.start != s.now) }))
  exact ⟨e.1.trans (by simp), e.2.trans (by simp)⟩

@[simp] theorem positionFlit_kept (p : Fin 16) (slot : Nat) (kind : Nat) (s : State) :
    (State.positionFlit p slot kind s).2.pending = s.pending ∧ (State.positionFlit p slot kind s).2.fuses = s.fuses := by
  unfold State.positionFlit
  split
  · simp
  · dsimp only
    have kb : ((if s.scheduleRuns then s.bookedFlits p slot else ([], s)).2.pending = s.pending)
        ∧ (if s.scheduleRuns then s.bookedFlits p slot else ([], s)).2.fuses = s.fuses := by split <;> simp
    generalize (if s.scheduleRuns then s.bookedFlits p slot else ([], s)) = y at kb ⊢
    split
    · split <;> simp [kb]
    · split <;> simp [kb]
    · split
      · exact kb
      · split
        · have k := ckptFlit_kept slot y.2
          split <;> (rename_i h; rw [h] at k; simpa [kb] using k)
        · simp [kb]

@[simp] theorem failPort_kept (p : Fin 16) (s : State) :
    (State.failPort p s).pending = s.pending ∧ (State.failPort p s).fuses = s.fuses := by
  simp [State.failPort]

@[simp] theorem linkPoison_kept (p : Fin 16) (core : Nat) (cause : Nat) (position : Nat) (s : State) :
    (State.linkPoison p core cause position s).pending = s.pending ∧ (State.linkPoison p core cause position s).fuses = s.fuses := by
  simp [State.linkPoison]

@[simp] theorem askFor_kept (p : Fin 16) (d : Damaged) (s : State) :
    (State.askFor p d s).pending = s.pending ∧ (State.askFor p d s).fuses = s.fuses := by
  simp [State.askFor]

@[simp] theorem takeDamaged_kept (p : Fin 16) (f : Flit) (s : State) :
    (State.takeDamaged p f s).pending = s.pending ∧ (State.takeDamaged p f s).fuses = s.fuses := by
  unfold State.takeDamaged
  dsimp only
  (repeat' split) <;> simp_all

@[simp] theorem askAgain_kept (p : Fin 16) (s : State) :
    (State.askAgain p s).pending = s.pending ∧ (State.askAgain p s).fuses = s.fuses := by
  simp [State.askAgain]

@[simp] theorem resolveCopy_kept (p : Fin 16) (f : Flit) (s : State) :
    (State.resolveCopy p f s).pending = s.pending ∧ (State.resolveCopy p f s).fuses = s.fuses := by
  simp [State.resolveCopy]

@[simp] theorem arrivalFault_kept (x : RxEntry) (kind : Nat) (region : Nat) (op : Nat) (off : Nat) (tile : Nat) (detail : Nat) (s : State) :
    (State.arrivalFault x kind region op off tile detail s).pending = s.pending ∧ (State.arrivalFault x kind region op off tile detail s).fuses = s.fuses := by
  simp [State.arrivalFault]

@[simp] theorem accessNow_kept (effs : List Timed) (s : State) :
    (s.accessNow effs).pending = s.pending ∧ (s.accessNow effs).fuses = s.fuses := by
  simp [State.accessNow]

@[simp] theorem arriveBytes_kept (x : RxEntry) (r : Region) (w : WriteOp) (off : Nat) (data : Bytes) (s : State) :
    (State.arriveBytes x r w off data s).pending = s.pending ∧ (State.arriveBytes x r w off data s).fuses = s.fuses := by
  simp [State.arriveBytes]

@[simp] theorem arriveAdds_kept (x : RxEntry) (region : Nat) (off : Nat) (data : Bytes) (s : State) :
    (State.arriveAdds x region off data s).pending = s.pending ∧ (State.arriveAdds x region off data s).fuses = s.fuses := by
  simp [State.arriveAdds]

@[simp] theorem arriveEntry_kept (x : RxEntry) (r : Region) (tile : Nat) (crc : Nat) (prov : Byte) (s : State) :
    (State.arriveEntry x r tile crc prov s).pending = s.pending ∧ (State.arriveEntry x r tile crc prov s).fuses = s.fuses := by
  simp [State.arriveEntry]

@[simp] theorem wholeTile_kept (p : Fin 16) (x : RxEntry) (region : Nat) (tile : Nat) (s : State) :
    (State.wholeTile p x region tile s).pending = s.pending ∧ (State.wholeTile p x region tile s).fuses = s.fuses := by
  unfold State.wholeTile
  dsimp only
  (repeat' split) <;> simp_all

@[simp] theorem arrivePut_kept (p : Fin 16) (x : RxEntry) (region : Nat) (off : Nat) (data : Bytes) (s : State) :
    (State.arrivePut p x region off data s).pending = s.pending ∧ (State.arrivePut p x region off data s).fuses = s.fuses := by
  simp [State.arrivePut]

@[simp] theorem arrivalData_kept (p : Fin 16) (x : RxEntry) (region : Nat) (payload : Bytes) (s : State) :
    (State.arrivalData p x region payload s).2.2.pending = s.pending ∧ (State.arrivalData p x region payload s).2.2.fuses = s.fuses := by
  unfold State.arrivalData
  (repeat' split) <;> simp

@[simp] theorem deliverData_kept (p : Fin 16) (x : RxEntry) (payload : Bytes) (s : State) :
    (State.deliverData p x payload s).pending = s.pending ∧ (State.deliverData p x payload s).fuses = s.fuses := by
  unfold State.deliverData
  dsimp only
  (repeat' split) <;> simp_all

@[simp] theorem serveGet_kept (p : Fin 16) (x : RxEntry) (payload : Bytes) (s : State) :
    (State.serveGet p x payload s).pending = s.pending ∧ (State.serveGet p x payload s).fuses = s.fuses := by
  unfold State.serveGet
  (repeat' split) <;> simp

@[simp] theorem takeCheckFlit_kept (p : Fin 16) (x : RxEntry) (payload : Bytes) (s : State) :
    (State.takeCheckFlit p x payload s).pending = s.pending ∧ (State.takeCheckFlit p x payload s).fuses = s.fuses := by
  unfold State.takeCheckFlit
  (repeat' split) <;> simp

@[simp] theorem takeCheckpoint_kept (x : RxEntry) (payload : Bytes) (s : State) :
    (State.takeCheckpoint x payload s).pending = s.pending ∧ (State.takeCheckpoint x payload s).fuses = s.fuses := by
  unfold State.takeCheckpoint
  (repeat' split) <;> simp

@[simp] theorem endRun_kept (p : Fin 16) (x : RxEntry) (s : State) :
    (State.endRun p x s).pending = s.pending ∧ (State.endRun p x s).fuses = s.fuses := by
  unfold State.endRun
  (repeat' split) <;> simp

@[simp] theorem deliver_kept (p : Fin 16) (a : Arrival) (s : State) :
    (State.deliver p a s).pending = s.pending ∧ (State.deliver p a s).fuses = s.fuses := by
  unfold State.deliver
  dsimp only
  (repeat' split) <;> simp_all

@[simp] theorem takeData_kept (p : Fin 16) (f : Flit) (start : Nat) (s : State) :
    (State.takeData p f start s).pending = s.pending ∧ (State.takeData p f start s).fuses = s.fuses := by
  simp [State.takeData]

@[simp] theorem recordLane_kept (p : Fin 16) (lane : Nat) (s : State) :
    (State.recordLane p lane s).pending = s.pending ∧ (State.recordLane p lane s).fuses = s.fuses := by
  simp [State.recordLane]

@[simp] theorem checkLinkClock_kept (s : State) :
    (State.checkLinkClock s).pending = s.pending ∧ (State.checkLinkClock s).fuses = s.fuses := by
  simp [State.checkLinkClock]

@[simp] theorem loseLane_kept (p : Fin 16) (rx : Bool) (lane : Nat) (s : State) :
    (State.loseLane p rx lane s).pending = s.pending ∧ (State.loseLane p rx lane s).fuses = s.fuses := by
  simp [State.loseLane]

@[simp] theorem holdReport_kept (x : Session) (r : Bytes) (s : State) :
    (State.holdReport x r s).pending = s.pending ∧ (State.holdReport x r s).fuses = s.fuses := by
  simp [State.holdReport]

@[simp] theorem reportFor_kept (x : Session) (nonce : Bytes) (s : State) :
    (State.reportFor x nonce s).2.pending = s.pending ∧ (State.reportFor x nonce s).2.fuses = s.fuses := by
  unfold State.reportFor
  (repeat' split) <;> simp

@[simp] theorem recoveryBlock_kept (p : Packet) (s : State) :
    (State.recoveryBlock p s).pending = s.pending ∧ (State.recoveryBlock p s).fuses = s.fuses := by
  unfold State.recoveryBlock
  dsimp only
  (repeat' split) <;> simp_all

@[simp] theorem openPort_pending (s : State) : (s.openPort).pending = s.pending := by
  simp [State.openPort]

@[simp] theorem settle_kept (s : State) (t : Timed) :
    (State.settle s t).pending = s.pending ∧ (State.settle s t).fuses = s.fuses := by
  unfold State.settle
  (repeat' split) <;> simp

@[simp] theorem retire_kept (s : State) :
    (State.retire s).pending = s.pending ∧ (State.retire s).fuses = s.fuses := by
  simp [State.retire]

@[simp] theorem refreshBusy_kept (s : State) :
    (State.refreshBusy s).pending = s.pending ∧ (State.refreshBusy s).fuses = s.fuses := by
  unfold State.refreshBusy
  refine foldl_kept _ (fun t r => ?_) _ _
  split
  · exact ⟨rfl, rfl⟩
  · split <;> simp

@[simp] theorem prune_kept (s : State) :
    (State.prune s).pending = s.pending ∧ (State.prune s).fuses = s.fuses := by
  simp [State.prune]

@[simp] theorem landEarly_kept (s : State) :
    (State.landEarly s).pending = s.pending ∧ (State.landEarly s).fuses = s.fuses := by
  simp [State.landEarly]

@[simp] theorem land_kept (s : State) : (s.land).pending = s.pending ∧ (s.land).fuses = s.fuses := by
  simp [State.land]

@[simp] theorem drainNotices_kept (n : Nat) (s : State) :
    (State.drainNotices n s).pending = s.pending ∧ (State.drainNotices n s).fuses = s.fuses := by
  induction n generalizing s with
  | zero => exact ⟨rfl, rfl⟩
  | succ n ih => simp [State.drainNotices, ih]

@[simp] theorem count_kept (s : State) :
    (State.count s).pending = s.pending ∧ (State.count s).fuses = s.fuses := by
  simp [State.count]

@[simp] theorem suspectHold_kept (s : State) :
    (State.suspectHold s).pending = s.pending ∧ (State.suspectHold s).fuses = s.fuses := by
  simp [State.suspectHold]

@[simp] theorem landAc_kept (s : State) :
    (State.landAc s).pending = s.pending ∧ (State.landAc s).fuses = s.fuses := by
  simp [State.landAc]

@[simp] theorem passAc_kept (s : State) :
    (State.passAc s).pending = s.pending ∧ (State.passAc s).fuses = s.fuses := by
  simp [State.passAc]

@[simp] theorem endAc_kept (s : State) :
    (State.endAc s).pending = s.pending ∧ (State.endAc s).fuses = s.fuses := by
  unfold State.endAc
  dsimp only
  (repeat' split) <;> simp_all <;> (repeat' split) <;> simp_all

end Sys2Proof.Machine
end

