-- ==== Sys2Proof/Laws/Issue.lean ====
section
/-! SUPPORT. What the issue of a stream word can do, said once: nothing, a fault of a busy unit, the fault that its plan is, or the
effects of its plan. -/
namespace Sys2Proof.Machine

theorem worded_true (s : State) : worded true s = .next s := rfl
theorem worded_false (s : State) : worded false s = .refused .malformedWord := rfl

theorem issueUnit_off (i : Issue) (plan : State → Origin → Plan) (s : State) (h : s.canIssue i = false) : s.issueUnit i plan = s := by
  unfold State.issueUnit; rw [if_pos (by simp [h])]

theorem issueUnit_busy (i : Issue) (plan : State → Origin → Plan) (s : State) (h : s.canIssue i = true)
    (hb : s.now < (s.core i.core).busy[i.unit]) :
    s.issueUnit i plan = (s.advance i 0).raiseFault
      (faultRec 7 (s.origin i).master 0xFFFF 5 0 0 (s.origin i).instr (s.origin i).opcode 0 0 0) := by
  unfold State.issueUnit; rw [if_neg (by simp [h]), if_pos hb]

theorem issueUnit_fault (i : Issue) (plan : State → Origin → Plan) (s : State) (f : FaultRec) (h : s.Ready i)
    (hp : plan s (s.origin i) = .fault f) : s.issueUnit i plan = (s.advance i 0).raiseFault f := by
  unfold State.issueUnit; rw [if_neg (by simp [h.1]), if_neg (Nat.not_lt.mpr h.2), hp]

theorem issueUnit_run (i : Issue) (plan : State → Origin → Plan) (s : State) (free endAc : Nat) (effs : List Timed) (h : s.Ready i)
    (hp : plan s (s.origin i) = .run free endAc effs) : s.issueUnit i plan = s.issued i free := by
  unfold State.issueUnit; rw [if_neg (by simp [h.1]), if_neg (Nat.not_lt.mpr h.2), hp]; rfl

/-- Every row of an engine executes as its plan issues, and is well formed where its words are the row's. -/
theorem exec_unitRow {r : UnitRow} (hr : r ∈ unitRows) (i : Issue) (s : State) :
    exec (r.cmd i) s = worded (r.form i) (s.issueUnit i (r.plan i)) ∧ wellFormed (r.cmd i) = r.form i := by
  simp only [unitRows, vectorRows, List.map, List.cons_append, List.nil_append] at hr
  repeat' (rcases List.mem_cons.mp hr with rfl | hr; · exact ⟨rfl, rfl⟩)
  exact absurd hr (by simp)

/-- The commands of the timed streams: a common operation, a matrix instruction, or a row of an engine. -/
theorem streamRows_cases {cmd : Issue → Instr} (h : cmd ∈ streamRows) :
    cmd ∈ [Instr.nop, .delay, .signal, .set, .expect, .mmul, .mmulPack] ∨ ∃ r ∈ unitRows, r.cmd = cmd := by
  simpa [streamRows, List.mem_append, List.mem_map, or_assoc] using h

/-- An instruction in progress takes the state of its issue (R135). -/
theorem view_newRunning (s : State) (i : Issue) (free : Nat) :
    (s.issued i free).view (s.newRunning i) = { s with running := s.running ++ [s.newRunning i] } := by
  have hk : ((s.issued i free).core i.core).mem = (s.core i.core).mem ∧ ((s.issued i free).core i.core).ecc = (s.core i.core).ecc
      ∧ ((s.issued i free).core i.core).crossed = (s.core i.core).crossed := by
    simp [State.issued, State.launch, State.advance, State.modCore, State.setCore, State.core]
  have hv : (s.issued i free).view (s.newRunning i) = { (s.issued i free) with
      cores := ((s.issued i free).setCore i.core (s.core i.core)).cores, sched := BitVec.ofNat 64 s.now, job := s.job } := by
    simp only [State.view, State.newRunning, hk.1, hk.2.1, hk.2.2]; rfl
  have hc : ((s.issued i free).setCore i.core (s.core i.core)).cores = s.cores := by
    rw [show ((s.issued i free).setCore i.core (s.core i.core)).cores = s.cores.set i.core (s.core i.core) by
      simp [State.issued, State.launch, State.advance, State.modCore, State.setCore, State.core]]
    ext j hj; simp [State.core]
  rw [hv, hc, show BitVec.ofNat 64 s.now = s.sched by simp [State.now]]; rfl

/-! ### Plans of the engines (R230, R232) -/

/-- Where no code word of the slice carries an error, the reads of operands add nothing but the banks that they use. -/
theorem operandReads_of_none {s : State} {c : Fin 8} (h : (s.core c).ecc = []) (o : Origin) (r : List SliceRead) :
    operandReads s c o r = (r.filter (fun x => x.len != 0)).map
      (fun x => ⟨x.at_, false, o.along x.pa x.pb, .spRead c x.addr x.len x.port⟩) := by
  simp [operandReads, operandEcc, h]

theorem updRun_ok {s : State} {c : Fin 8} {o : Origin} {rd wr : List (Nat × Nat)} {ex : List Access} (last : Nat)
    (timed : Unit → List SliceRead) (effs : List Timed)
    (h : s.checkAll 0 c (rd.map (fun e => ⟨0, [e]⟩) ++ wr.map (fun e => ⟨1, [e]⟩) ++ ex) = none) :
    updRun s c o rd wr ex last timed effs = .run (last + 1) last (operandReads s c o (timed ()) ++ effs) := by
  unfold updRun; rw [h]

theorem withDesc_ok {s : State} {c : Fin 8} {o : Origin} {u : UHead} {len : Nat} {rsv : Bytes → Bool} {f : Bytes → Plan}
    (hd : ∃ g, s.checkSlice 0 c 0 u.desc len = .pass g) (hr : rsv ((s.sliceNow c).viaBytes u.desc len) = true)
    {free endAc : Nat} {effs : List Timed} (hf : f ((s.sliceNow c).viaBytes u.desc len) = .run free endAc effs) :
    withDesc s c o u len rsv f = .run free endAc (operandReads s c o [readIn s.now (u.desc, len)] ++ effs) := by
  obtain ⟨g, hg⟩ := hd
  unfold withDesc; rw [hg]; dsimp only; rw [hr, hf]; rfl

/-- A plan of the update engine on an allowed extent runs. -/
theorem updRun_runs {s : State} {c : Fin 8} {o : Origin} {rd wr : List (Nat × Nat)} {ex : List Access} (last : Nat)
    (timed : Unit → List SliceRead) (effs : List Timed)
    (h : s.checkAll 0 c (rd.map (fun e => ⟨0, [e]⟩) ++ wr.map (fun e => ⟨1, [e]⟩) ++ ex) = none) :
    (updRun s c o rd wr ex last timed effs).Runs s c o (last + 1) last effs :=
  ⟨[timed ()], by rw [updRun_ok last timed effs h]; simp⟩

/-- A plan on a descriptor that can be read runs as what it plans on the descriptor. -/
theorem withDesc_runs {s : State} {c : Fin 8} {o : Origin} {u : UHead} {len : Nat} {rsv : Bytes → Bool} {f : Bytes → Plan}
    (hd : ∃ g, s.checkSlice 0 c 0 u.desc len = .pass g) (hr : rsv ((s.sliceNow c).viaBytes u.desc len) = true)
    {free endAc : Nat} {effs : List Timed} (hf : (f ((s.sliceNow c).viaBytes u.desc len)).Runs s c o free endAc effs) :
    (withDesc s c o u len rsv f).Runs s c o free endAc effs := by
  obtain ⟨l, hl⟩ := hf
  exact ⟨[readIn s.now (u.desc, len)] :: l, by rw [withDesc_ok hd hr hl]; simp⟩

/-- A row of an engine whose plan runs completes. -/
theorem run_exec {i : Issue} {s : State} {r : UnitRow} (hr : r ∈ unitRows) (hf : r.form i = true) (h : s.Ready i) {free endAc effs}
    (hp : r.plan i s (s.origin i) = .run free endAc effs) : exec (r.cmd i) s = .next (s.issued i free) := by
  rw [(exec_unitRow hr i s).1, hf, issueUnit_run _ _ _ _ _ _ h hp]; rfl

end Sys2Proof.Machine
end

