-- ==== Sys2Proof/Tests/Slice0.lean ====
section
/-! SUPPORT. Tests: words and operands that no row admits, examples of the manual, and for every statement with hypotheses states and
operands that meet them. -/
namespace Sys2Proof.Tests
open Sys2Proof Sys2Proof.Machine
set_option Elab.async false

/-! ### Helpers -/

def isNext (o : Out) : Bool := match o with | .next _ => true | _ => false
def isRun (p : Plan) : Bool := match p with | .run _ _ _ => true | _ => false
def isPass (c : Check) : Bool := match c with | .pass _ => true | _ => false

/-- What the effects of a plan leave, taken in its order. -/
def planned (p : Plan) (s : State) : State := match p with | .run _ _ l => l.foldl (fun s t => s.apply t.eff) s | _ => s

/-- A head word: UNIT, CONT, OPCODE and the operand bits (R65). -/
def head (unit cont op lo : Nat) : Word128 := BitVec.ofNat 128 (unit * 2 ^ 108 + cont * 2 ^ 106 + op * 2 ^ 96 + lo)

def word (core : Fin 8) (unit : Fin 7) (op lo : Nat) : Issue := ⟨core, unit, head unit.val 0 op lo, []⟩
def word2 (core : Fin 8) (unit : Fin 7) (op lo c : Nat) : Issue := ⟨core, unit, head unit.val 1 op lo, [BitVec.ofNat 128 c]⟩

/-- Region 0: all of every slice. Region 1: 16 MiB of HBM. Region 2: 64 KiB of HBM that only hosts may use. -/
def regions3 : List Region :=
  [⟨0, 0xC00, 2, 0xFF, 1, false, false, false, false, 0x777777, 0xFFFF, 0xFFFF, 0, 0, false⟩,
   ⟨0, 0x100, 1, 0, 1, false, false, false, false, 0x777777, 0xFFFF, 0xFFFF, 0, 0, false⟩,
   ⟨0x1000000, 1, 1, 0, 2, false, false, false, false, 0x003000, 0xFFFF, 0xFFFF, 0, 0, false⟩]

/-- A running job, 1,000 ac after its start. -/
def run : State :=
  { State.reset with
    job := { JobCtl.initial with st := .running }, regions := regions3, boot := { BootState.initial with stage := 9, ready := true },
    sched := 1000, wall := 5000 }

/-- Bytes in the slice of core 0. -/
def poke (a : Nat) (d : Bytes) (s : State) : State := s.modCore 0 (fun k => { k with mem := k.mem.writeBytes a d })

def u32s (l : List Nat) : Bytes := l.flatMap le32

/-! ### Words and operands that no row admits: one for each check of wellFormed -/

theorem test_nop_with_operand : wellFormed (.nop (word 0 1 0 1)) = false := by decide +kernel
theorem test_nop_of_another_unit : wellFormed (.nop ⟨0, 2, head 1 0 0 0, []⟩) = false := by decide +kernel
theorem test_delay_with_high_bits : wellFormed (.delay (word 0 1 1 (2 ^ 32))) = false := by decide +kernel
theorem test_signal_with_reserved_bit :
    [Instr.signal (word 0 1 8 0x10000), .set (word 0 1 9 (2 ^ 64)), .expect (word 0 1 8 0)].all (fun c => !wellFormed c) = true := by
  decide +kernel
theorem test_mmul_without_its_words : wellFormed (.mmul (word 0 0 0x040 0)) = false := by decide +kernel
theorem test_pack_of_one_gang : wellFormed (.mmulPack (word2 0 0 0x041 0 0)) = false := by decide +kernel
theorem test_vector_without_count : vectorRows.all (fun r => !wellFormed (r.2 (word 0 1 r.1 (64 * 2 ^ 64)))) = true := by
  decide +kernel
theorem test_update_with_unaligned_descriptor :
    [(0x040, Instr.unorm), (0x041, .gstore), (0x042, .uclip), (0x043, .update), (0x044, .uclose), (0x045, .stepcalc), (0x046, .gnorm),
     (0x047, .recast), (0x048, .ledger), (0x049, .tables), (0x04A, .hash)].all
      (fun r => !wellFormed (r.2 (word 0 2 r.1 (32 * 2 ^ 64)))) = true := by decide +kernel
theorem test_recast_is_no_drift_check :
    wellFormed (.recast (word 0 2 0x047 (2 ^ 20))) = false ∧ wellFormed (.driftCheck (word 0 2 0x047 0)) = false := by decide +kernel
theorem test_move_of_no_bytes : wellFormed (.move (word2 0 3 0x040 0 0)) = false := by decide +kernel
theorem test_fill_with_source : wellFormed (.fill (word2 0 3 0x041 (2 ^ 84 + 2 ^ 40) 0)) = false := by decide +kernel
theorem test_remote_of_no_bytes :
    [(0x080, Instr.put), (0x081, .get), (0x082, .addI48), (0x083, .setBits), (0x084, .clrBits)].all
      (fun r => !wellFormed (r.2 (word2 0 3 r.1 0 0))) = true ∧ wellFormed (.remoteSignal (word 0 3 0x085 (2 ^ 27))) = false := by
  decide +kernel
theorem test_hbm_bank_48 :
    [(1, Instr.act), (3, .wr), (4, .pre), (5, .refpb)].all
      (fun r => !wellFormed (r.2 ⟨0, false, BitVec.ofNat 64 (r.1 * 2 ^ 48 + 48 * 2 ^ 42)⟩)) = true
    ∧ wellFormed (.rd ⟨0, false, BitVec.ofNat 64 (2 * 2 ^ 48 + 48 * 2 ^ 42)⟩ .clean) = false
    ∧ wellFormed (.hbmNop ⟨0, false, 1⟩) = false ∧ wellFormed (.hbmDelay ⟨0, false, 0⟩) = false := by decide +kernel
theorem test_flit_of_257_bytes : wellFormed (.flitReceive 0 ⟨0, List.replicate 257 0, 257⟩ false) = false := by decide +kernel
theorem test_too_few_readings :
    wellFormed (.dieSensorSample []) = false ∧ wellFormed (.linkTraining []) = false ∧ wellFormed (.channelMeasurement [] 0) = false := by
  decide +kernel

/-! ### Examples of the manual -/

/-- R228's example: address 0x0001_2345 is in bank 13. -/
theorem test_bank : bankOf 0x12345 = 13 := by decide

/-- R65's example: DMA engine 2 signals counter 0x1A2B by 1, 40 ac after its previous instruction. -/
theorem test_signal_word :
    let i : Issue := ⟨0, 5, 0x00285008000000000000000100001A2B#128, []⟩
    counterWord 0x008 i = true ∧ headDelta i.head = 40 ∧ wf i.head 0 16 = 0x1A2B ∧ wf i.head 32 32 = 1 := by decide +kernel

/-- The head word of the worked fold's MMUL (R113). -/
theorem test_mmul_word :
    let i : Issue := ⟨0, 0, 0x00100C40BB73E71116F0007440123000#128, [0, 0, 0]⟩
    mmulWord i = true ∧ (mmulTile i).m = 3000 ∧ (mmulTile i).n = 1000 ∧ (mmulTile i).k = 70000 ∧ (mmulTile i).anchorId = 0x123
      ∧ (matCfg i.head).fo = 7 ∧ (matCfg i.head).crc = true ∧ (matCfg i.head).keyed = true := by decide +kernel

/-- The FP8 group of chapter 5: the lane, the bitmap bit and the exit by R142 to R144. -/
theorem test_group_exit :
    let l := Lane.zero.addInt (groupContribution (laneLsb 0 0) 0 0 12 (-123141632))
    l.t = 0xFFFFFFFFFFFFE2A408000000000000#120 ∧ l.exitFloat 12 7 .nearest = ⟨0xC3EB, ⟨2 ^ 68, false, false, false⟩⟩
      ∧ (l.exitFloat 12 7 (.draw 541065215)).bits = 0xC3EA ∧ (l.exitFloat 12 7 (.draw 541065216)).bits = 0xC3EB := by
  decide +kernel

/-- The saturation example of chapter 5. -/
theorem test_lane_does_not_clamp :
    let up := fun (l : Lane) => l.addInt (2 ^ 94)
    let down := fun (l : Lane) => l.addInt (-(2 ^ 94))
    (down (down (up (up (up Lane.zero))))).exitFloat 0 7 .nearest = ⟨0x4A80, ⟨2 ^ 94, false, false, false⟩⟩
      ∧ (up (up (up Lane.zero))).exitFloat 0 7 .nearest = ⟨0x4B00, ⟨2 ^ 94, true, false, false⟩⟩ := by decide +kernel

/-- R191's example: a REM8 body that loses none of three small updates. -/
theorem test_rem8 :
    splitBody 8 (f32Of (.fin false 1023 (-10))) = (0x3F80, 0xE0, false) ∧ splitBody 8 (f32Of (.fin false 1022 (-10))) = (0x3F80, 0xC0, false)
      ∧ splitBody 8 (f32Of (.fin false 1021 (-10))) = (0x3F7F, 0x40, false) := by decide +kernel

/-- R187's example: half of a cosine segment. -/
theorem test_cosine : segValue ⟨4, 1024, 0x3A000000, 0, 0, 0⟩ 512 = ⟨0x39800000, false⟩ := by decide +kernel

/-- Region 0x041 of chapter 9: whole tiles, and the tile of offset 143,360 (R240). -/
theorem test_tiles :
    let r : Region := ⟨0x1000000000, 64, 1, 0, 1, true, false, false, false, 0, 0xFFFF, 0xFFFF, 7168, 1, false⟩
    r.tiles = 2044 ∧ r.tileAt 143360 = 70 ∧ (r.segments 75).headD 0 = 148480 := by decide +kernel


/-! ### States and operands that meet the hypotheses of the statements: streams -/

theorem witness_QueueUntouched : isNext (exec (.nop (word 0 1 0 0)) run) = true := by decide +kernel

theorem witness_FusesOnlyRise :
    let s : State := { run with fuses := ⟨3, true⟩, pending := [.nop (word 0 1 0 0)] }
    (3 ≤ s.fuses.svn ∧ (true = true → s.fuses.identityKill = true)) ∧ isNext (step s) = true
    ∧ ({ run with boot := { run.boot with stage := 8 } } : State).mayEnd 8 = true ∧ run.mayEnd 8 = false := by decide +kernel

theorem witness_CanonicalKept : (run.Canonical) ∧ isNext (step { run with pending := [.nop (word 0 1 0 0)] }) = true := by
  unfold State.Canonical; decide +kernel

/-- Counter 0xFFFF, the last. -/
theorem witness_CommonWords :
    run.canIssue (word 0 1 0 0) = true ∧ nopWord (word 0 1 0 0) = true ∧ delayWord (word 7 6 1 0xFFFFFFFF) = true
    ∧ counterWord 0x008 (word 0 1 8 0xFFFF) = true ∧ counterWord 0x009 (word 0 1 9 0xFFFF) = true
    ∧ counterWord 0x00A (word 0 1 0xA 0xFFFF) = true ∧ run.counter 0xFFFF = 0 := by decide +kernel

theorem witness_ExpectMismatch :
    run.canIssue (word 0 1 0xA (2 ^ 32 + 0xFFFF)) = true ∧ counterWord 0x00A (word 0 1 0xA (2 ^ 32 + 0xFFFF)) = true
    ∧ run.counter 0xFFFF ≠ 1 ∧ run.faults.job = [] ∧ run.job.faultAt = none
    ∧ (let u : State := { run with sched := 1008, job := { run.job with faultAt := some 1000 } }
       u.job.faultAt = some run.now ∧ run.now + 8 ≤ u.now) := by decide +kernel

/-- The three phases of an empty queue. -/
theorem witness_TimePasses :
    run.pending = [] ∧ run.alive = true ∧ run.offered = false ∧ ({ run with offered := true } : State).offered = true
    ∧ ({ run with pins := { run.pins with resetN := false } } : State).alive = false := by decide +kernel

theorem witness_WordsThatDoNotIssue :
    State.reset.canIssue (word 0 1 0 0) = false ∧ wellFormed (.nop (word 0 1 0 0)) = true ∧ wellFormed (.nop (word 0 1 0 1)) = false := by
  decide +kernel

/-- Unit 3 of core 0 is busy until this ac, and one ac longer. -/
def free3 : State := run.modCore 0 (fun k => { k with busy := k.busy.set 3 1000 })
def busy3 : State := run.modCore 0 (fun k => { k with busy := k.busy.set 3 1001 })

/-- FILL of 64 bytes of region 0, and of region 9, which is not used. -/
def fill0 : Issue := word2 0 3 0x041 (2 ^ 40) (0x1122334455667788 * 2 ^ 64)
def fill9 : Issue := word2 0 3 0x041 (9 * 2 ^ 72 + 2 ^ 40) 0

theorem witness_UnitWords :
    (free3.canIssue fill0 = true ∧ (free3.core 0).busy[3] ≤ free3.now) ∧ fillWord fill0 = true
    ∧ isRun (fillPlan fill0 free3 (free3.origin fill0)) = true
    ∧ fillWord fill9 = true ∧ isRun (fillPlan fill9 free3 (free3.origin fill9)) = false := by decide +kernel

theorem witness_UnitWords_busy :
    fillWord fill0 = true ∧ busy3.canIssue fill0 = true ∧ busy3.now < (busy3.core 0).busy[3] := by decide +kernel

theorem witness_IssueFrame : isNext (exec (.fill fill0) run) = true := by decide +kernel

/-- A store of 4 bytes is due in this ac, one to HBM in the next; the bytes beside them are not stored to. -/
def store4 : Timed := ⟨1000, true, ⟨0, 0, 0, none, 0, 0⟩, .sp 0 64 .plain 4 [1, 2, 3, 4]⟩
def storing : State := { run with inflight := [store4, ⟨1001, false, ⟨0, 0, 0, none, 0, 0⟩, .hbm 0 [1]⟩] }

theorem witness_LandingFrame :
    storing.effectsNow = [store4] ∧ storing.landEarly.effectsNow.all (fun t => !decide (t.at_ = 1000) || t.early) = true
    ∧ ¬ store4.eff.stores storing.cfg.workBase.toNat 0 63 ∧ ¬ store4.eff.stores storing.cfg.workBase.toNat 0 68 ∧ ¬ store4.eff.storesHbm 0
    ∧ storing.effectsNow.filter Timed.early = [store4] ∧ store4.eff = .sp 0 64 .plain 4 [1, 2, 3, 4] ∧ 4 < 16
    ∧ eccBlocks (storing.core 0).ecc (spTarget .plain 64).1 (spOffset 64) 4 = none := by
  refine ⟨by decide +kernel, by decide +kernel, ?_, ?_, ?_, by decide +kernel, rfl, by decide, by decide +kernel⟩ <;>
    simp [store4, Effect.stores, Effect.storesHbm, spTarget, spWindow]

/-- The last byte of a slice, in each window. -/
theorem witness_Windows :
    Memory.wf [(5, 1)] = true ∧ 0xBFFFFFF + [(0xFF : Byte)].length ≤ sliceSize
    ∧ ((0xBFFFFFE < 0xBFFFFFF) ∨ 0xBFFFFFF + [(0xFF : Byte)].length ≤ 0xBFFFFFE) ∧ 0xBFFFFFF < sliceSize := by decide +kernel

/-- The first address past each window. -/
theorem witness_Windows_outside : ∀ a ∈ [0x0C000000, 0x1C000000, 0x2C000000],
    ∀ w o : Nat, (w = 0 ∨ w = 0x10000000 ∨ w = 0x20000000) → o < sliceSize → a ≠ w + o := by
  simp only [List.mem_cons, List.not_mem_nil, or_false, sliceSize]; omega

theorem witness_SetBeforeSignals :
    let o : Origin := ⟨0, 0, 0, none, 0, 0⟩
    65535 < 65536 ∧ run.running = [] ∧ run.stopped = [] ∧ ({ run with inflight := [⟨1000, false, o, .counterAdd 65535 3⟩, ⟨1000, false, o, .counterSet 65535 0xFFFFFFFF⟩] } : State).inflight
      = [(3 : U32)].map (fun a => (⟨run.now, false, o, .counterAdd 65535 a⟩ : Timed)) ++ [⟨run.now, false, o, .counterSet 65535 0xFFFFFFFF⟩] := by
  decide +kernel

theorem witness_I48Saturates :
    (-(2 ^ 47) ≤ (2 ^ 47 - 1 : Int) ∧ (2 ^ 47 - 1 : Int) ≤ 2 ^ 47 - 1) ∧ (-(2 ^ 47) ≤ (-(2 ^ 47) : Int) ∧ (-(2 ^ 47) : Int) ≤ 2 ^ 47 - 1) := by
  decide

/-! Matrix array -/

/-- A tile of one product, and a pack of four such tiles in the smallest gangs that allow it. -/
def mmul1 : Issue := ⟨0, 0, head 0 3 0x040 (7 * 2 ^ 36), [0, 0, 0]⟩
def pack4 : Issue := ⟨0, 0, head 0 1 0x041 (2 ^ 50 + 7 * 2 ^ 36), [BitVec.ofNat 128 (4096 * 2 ^ 96 + 3 * 2 ^ 90)]⟩

theorem witness_MatrixWords :
    run.canIssue mmul1 = true ∧ (∀ i ∈ [mmul1, pack4], arrayBusy run i (matCfg i.head) (run.now + (matCfg i.head).pace * (matCfg i.head).e + routeDelay (matCfg i.head).rb (matCfg i.head).pace) = false)
    ∧ run.canIssue pack4 = true ∧ mmulWord mmul1 = true
    ∧ run.checkAll 0 0 (tileAccesses run (matCfg mmul1.head) (mmulTile mmul1)) = none
    ∧ packWord pack4 = true ∧ isPass (run.checkSlice 0 0 0 (packDesc pack4) (64 * packCount pack4)) = true
    ∧ (∀ g < packCount pack4, (descTile ((run.sliceNow 0).viaBytes (packDesc pack4 + 64 * g) 64)).2 = true)
    ∧ run.checkAll 0 0 (((List.range 4).map (fun g => (descTile ((run.sliceNow 0).viaBytes (packDesc pack4 + 64 * g) 64)).1)).flatMap
        (tileAccesses run (matCfg pack4.head))) = none := by decide +kernel

/-! Vector engine -/

/-- A descriptor of one row of 32 elements: X in a format, every other stream absent. -/
def vdesc (fx : Nat) : Bytes :=
  u32s [0x2000, 0, 0, 0x4000, 0, 0, 0, 0, 0x3000, 0x6000, 32, 32, 0, 0, 0] ++ le16 fx ++ [0, 0] ++ u32s [0xFF, 0xFF, 0xFF, 0xFF]
  ++ List.replicate 32 0 ++ u32s [1, 0, 0, 0]

/-- The formats that the rows take: f32, but ACC96 records into ACCSUM, and u32 indexes out of RARGMAX and RARGMIN. -/
def vfx (op : Nat) : Nat := if op = 0x044 then 12 else 10
def vfo (op : Nat) : Nat := if op = 0x04C ∨ op = 0x04D then 15 else 10
def vword (op : Nat) : Issue :=
  word 0 1 op (4096 * 2 ^ 64 + 32 * 2 ^ 40 + vfo op * 2 ^ 36 + (if op = 0x062 then 2 ^ 30 else 0))
def vstate (op : Nat) : State := poke 4096 (vdesc (vfx op)) run
def venv (op : Nat) : VEnv :=
  ⟨vstate op, 0, (vstate op).origin (vword op), op, vHead (vword op).head, vDesc (((vstate op).sliceNow 0).viaBytes 4096 128)⟩

theorem witness_VectorRows :
    vectorRows.all (fun r => vecWord r.1 (vword r.1) && (vstate r.1).canIssue (vword r.1)
      && decide (((vstate r.1).core 0).busy[1] ≤ (vstate r.1).now) && isPass ((vstate r.1).checkSlice 0 0 0 4096 128)
      && vDescReserved (((vstate r.1).sliceNow 0).viaBytes 4096 128) && (venv r.1).ok
      && ((vstate r.1).checkAll 0 0 (venv r.1).accesses).isNone) = true := by decide +kernel

/-- The discounted scan of chapter 8: four terms, segments at columns 0 and 2, K0 = 0.5;
the bitmap lies in another bank than the terms. -/
theorem test_dscan :
    let d := u32s [0x2000, 0, 0, 0x4000, 0, 0, 0, 0, 0x3040, 0, 4, 4, 0, 0, 0] ++ le16 10 ++ [0, 0] ++ u32s [0xFF, 0xFF, 0xFF, 0xFF]
      ++ u32s [0x3F000000, 0, 0, 0, 0, 0, 0, 0] ++ u32s [1, 0, 0, 0]
    let s := poke 0x3040 [5] (poke 0x2000 (u32s [0x3F800000, 0x40000000, 0x40800000, 0x41000000]) (poke 4096 d run))
    let i := word 0 1 0x059 (4096 * 2 ^ 64 + 4 * 2 ^ 40 + 10 * 2 ^ 36)
    ((planned (vecPlan 0x059 i s (s.origin i)) s).core 0).mem.readBytes 0x4000 16
      = u32s [0x40000000, 0x40000000, 0x41000000, 0x41000000] := by decide +kernel

/-! Update engine -/

/-- A head word of the update engine: descriptor at 4096, COUNT, GROUP 1, FLAGS. -/
def uword (op count flags : Nat) : Issue := word 0 2 op (4096 * 2 ^ 64 + count * 2 ^ 40 + 2 ^ 28 + flags * 2 ^ 20)

/-- Group 1 is decided; the descriptor names extents at 0x2000 and 0x4000. -/
def ustate (d : Bytes) : State :=
  (poke 4096 d run).modCore 0 (fun k => { k with groups := [(1, { GroupEntry.initial with st := .update })] })

def ready2 (s : State) (i : Issue) : Bool := s.canIssue i && decide ((s.core 0).busy[2] ≤ s.now)

theorem witness_NormRows :
    let s := ustate (u32s [0x2000])
    let c := ustate (u32s [0x2000, 0x2000, 0x2000, 0x2000, 0x2000, 0x2000, 0x2000, 0x2000, 0x4000, 1])
    ready2 s (uword 0x040 256 0) = true ∧ updWord 0x040 (uword 0x040 256 0) = true ∧ isPass (s.checkSlice 0 0 0 4096 64) = true
    ∧ zeroAt ((s.core 0).mem.viaBytes 4096 64) 6 58 = true
    ∧ s.checkAll 0 0 [⟨0, [(0x2000, 8 * 256)]⟩, ⟨0, [(s.groupAddr 1, 64)]⟩] = none
    ∧ updWord 0x041 (uword 0x041 0 0) = true ∧ updWord 0x041 (uword 0x041 0 1) = true ∧ s.checkAll 0 0 [⟨1, [(4096, 64)]⟩] = none
    ∧ updWord 0x042 (uword 0x042 0 0) = true ∧ zeroAt ((c.core 0).mem.viaBytes 4096 64) 38 26 = true
    ∧ c.checkAll 0 0 (((List.range 8).map (fun _ => (0x2000, 64)) ++ [(0x4000, 16), (c.groupAddr 1, 64)]).map (fun x => ⟨0, [x]⟩)) = none
    ∧ updWord 0x046 (uword 0x046 0 0) = true ∧ s.checkAll 0 0 [⟨1, [(4096, 4)]⟩] = none := by decide +kernel

theorem witness_ClipDecision :
    let g := groupRec (List.replicate 64 0xFF)
    let sc : StepCalc := ⟨0, 0, 0, false, 0, 0⟩
    (clipDecision g sc 0 [] 0 GroupEntry.initial).st ≠ .abandon ∧ (clipDecision g sc 0 [] 0 GroupEntry.initial).clipped = false
    ∧ (clipDecision g sc 0 [] 0 GroupEntry.initial).lagClipped = false
    ∧ [((0 : Nat), true)].any (·.2) = true := by decide +kernel

theorem witness_OptimiserRows :
    let s := ustate (u32s [0x2000, 0x4000])
    let u := ustate (u32s [0x2000, 0x3000, 0x4000, 0x5000, 0x6000, 0x7000, 0x8000, 0x9000, 0xA000, 0xB000, 0xC000, 0xD000, 0xE000, 0xF000]
      ++ le16 0 ++ [2, 0] ++ u32s [7, 0, 64, 32])
    let x := ustate (u32s [0x2000, 0x2000, 0x2000, 0x2000, 0x2000, 0x2000, 0x2000, 0x2000, 0x4000])
    let d := updDesc ((u.core 0).mem.viaBytes 4096 128)
    ready2 s (uword 0x045 0 0) = true ∧ updWord 0x045 (uword 0x045 0 0) = true ∧ isPass (s.checkSlice 0 0 0 4096 64) = true
    ∧ zeroAt ((s.core 0).mem.viaBytes 4096 64) 8 56 = true ∧ s.checkAll 0 0 [⟨0, [(0x2000, 400)]⟩, ⟨0, [(0x4000, 128)]⟩] = none
    ∧ updWord 0x043 (uword 0x043 64 0) = true ∧ (s.entry 0 1).st ≠ .undecided ∧ isPass (u.checkSlice 0 0 0 4096 128) = true
    ∧ zeroAt ((u.core 0).mem.viaBytes 4096 128) 0x3B 1 = true ∧ zeroAt ((u.core 0).mem.viaBytes 4096 128) 0x4C 52 = true
    ∧ d.rowLen ≠ 0 ∧ 64 % d.rowLen = 0 ∧ d.colBase % 32 = 0 ∧ d.maskKind ≤ 2 ∧ (d.maskKind = 2 → d.colBase % 64 = 0)
    ∧ u.checkAll 0 0 (((d.q, 8 * 64) :: (u.groupAddr 1, 64) :: updExtents d 8 0 64 d.ins ++ updMaskExtent d 64).map (fun x => ⟨0, [x]⟩)
        ++ (updExtents d 8 0 64 d.outs).map (fun x => ⟨1, [x]⟩)) = none
    ∧ updWord 0x044 (uword 0x044 0 1) = true ∧ isPass (x.checkSlice 0 0 0 4096 64) = true
    ∧ zeroAt ((x.core 0).mem.viaBytes 4096 64) 36 28 = true
    ∧ x.checkAll 0 0 (((x.groupAddr 1, 64) :: (List.range 8).map (fun k => (leAt ((x.core 0).mem.viaBytes 4096 64) (4 * k) 4, 32))).map
        (fun x => ⟨0, [x]⟩) ++ [⟨1, [(0x4000, 32)]⟩, slotAccess x 0, slotAccess x 0]) = none
    ∧ (run.entry 0 1).st = .undecided ∧ isPass (run.checkSlice 0 0 0 4096 128) = true ∧ isPass (run.checkSlice 0 0 0 4096 64) = true := by
  decide +kernel

/-- Two bodies of 0 and their working copies; in the second state the last copy differs. -/
def copies : State := ustate (u32s [0x2000, 0x4000])
def drifted : State := poke 0x4001 [1] copies

theorem witness_WorkingCopyRows :
    ready2 copies (uword 0x047 2 0) = true ∧ updWord 0x047 (uword 0x047 2 0) = true ∧ updWord 0x047 (uword 0x047 2 1) = true
    ∧ isPass (copies.checkSlice 0 0 0 4096 64) = true ∧ zeroAt ((copies.core 0).mem.viaBytes 4096 64) 8 56 = true
    ∧ copies.checkAll 0 0 [⟨0, [(0x2000, 4)]⟩, ⟨0, [(copies.groupAddr 1, 64)]⟩, ⟨1, [(0x4000, 2)]⟩] = none
    ∧ copies.checkAll 0 0 [⟨0, [(0x2000, 4)]⟩, ⟨0, [(0x4000, 2)]⟩, ⟨0, [(copies.groupAddr 1, 64)]⟩] = none
    ∧ (∀ j < 2, recastElem (copies.group 0 1).wc (leNat (copies.spRead 0 (1001 + j / 256) (0x2000 + 2 * j) 2))
        = leNat (copies.spRead 0 (1001 + j / 256) (0x4000 + j) 1))
    ∧ (∀ k < 1, recastElem (drifted.group 0 1).wc (leNat (drifted.spRead 0 (1001 + k / 256) (0x2000 + 2 * k) 2))
        = leNat (drifted.spRead 0 (1001 + k / 256) (0x4000 + k) 1))
    ∧ recastElem (drifted.group 0 1).wc (leNat (drifted.spRead 0 (1001 + 1 / 256) (0x2000 + 2 * 1) 2))
        ≠ leNat (drifted.spRead 0 (1001 + 1 / 256) (0x4000 + 1) 1) := by decide +kernel

theorem witness_LedgerRows :
    let s := ustate (u32s [0x2000, 0x4000, 0x6000])
    let t := ustate (u32s [0x2000, 0x4000])
    let a := ustate (u32s [0x2000] ++ le16 0xFFFF)
    ready2 s (uword 0x048 2 0) = true ∧ isPass (s.checkSlice 0 0 0 4096 64) = true
    ∧ updWord 0x048 (uword 0x048 2 0) = true ∧ zeroAt ((s.core 0).mem.viaBytes 4096 64) 14 50 = true
    ∧ s.checkAll 0 0 [⟨0, [(0x2000, 1088)]⟩, ⟨0, [(0x4000, 32)]⟩, ⟨1, [(0x6000, 1088)]⟩] = none
    ∧ updWord 0x049 (uword 0x049 2 0) = true ∧ zeroAt ((a.core 0).mem.viaBytes 4096 64) 6 58 = true
    ∧ a.checkAll 0 0 [⟨0, [(0x2000, 1088)]⟩] = none
    ∧ updWord 0x04A (uword 0x04A 64 0x1F) = true ∧ zeroAt ((t.core 0).mem.viaBytes 4096 64) 8 56 = true
    ∧ t.checkAll 0 0 [⟨0, [(0x2000, 64)]⟩, ⟨1, [(0x4000, 32)]⟩] = none := by decide +kernel

theorem witness_HashInParts : ({ shaFresh with buf := List.replicate 63 0, len := 63 } : ShaSlot).buf.length < 64 := by decide

/-! DMA engines and remote operations -/

/-- Region 3: HBM tiles of 2,048 bytes with their check entries in region 4. -/
def tiled : State :=
  { run with regions := regions3 ++
    [⟨0x2000000, 1, 1, 0, 1, true, false, false, false, 0x777777, 0xFFFF, 4, 2048, 0, false⟩,
     ⟨0x3000000, 1, 1, 0, 1, false, false, false, false, 0x777777, 0xFFFF, 0xFFFF, 0, 0, false⟩] }

def dmaReady (s : State) (i : Issue) : Bool := s.canIssue i && decide ((s.core i.core).busy[i.unit] ≤ s.now)

/-- MOVE of one tile from region 3, with VERIFY and without, to the last tile of region 0. -/
def moveV (verify : Nat) : Issue :=
  word2 0 6 0x040 (3 * 2 ^ 84 + 32 * 2 ^ 40 + verify * 2 ^ 33) (0xBFFF800)

theorem witness_DmaRows :
    dmaReady tiled fill0 = true ∧ fillWord fill0 = true ∧ isPass (tiled.checkRegion 1 0 0 0 1 0 64) = true
    ∧ (∀ v < 2, dmaReady tiled (moveV v) = true ∧ moveWord (moveV v) = true ∧ isPass (tiled.checkRegion 1 0 0 0 1 0xBFFF800 2048) = true
        ∧ isPass (tiled.checkRegion 1 0 3 0 0 0 2048) = true ∧ verifyExtent (tiled.region 3) 0 2048 = true)
    ∧ (moveOp (moveV 1)).verify = true := by decide +kernel

def isSource (x : Except Plan (Nat × Region)) : Bool := match x with | .ok _ => true | .error _ => false

def reaches (x : Except (Nat × Nat) Nat) (j : Option Nat) : Bool := match x with | .ok i => j == some i | .error e => j.isNone && e == (1, 2)

/-- A remote operation of 64 bytes out of region 3: PORT, VERIFY; the continuation word. -/
def rword (op port cont : Nat) : Issue := word2 1 3 op (port * 2 ^ 91 + 3 * 2 ^ 64 + 2 ^ 27) cont
/-- PORT 16: to the last 64 bytes of region 0 of core 7, or to region 2, which lies in no slice. -/
def to16 (region : Nat) : Nat := 7 * 2 ^ 61 + region * 2 ^ 49 + (if region = 0 then 0x2FFFFF else 0) * 2 ^ 18 + 2

def paired : State :=
  { tiled with image := some ⟨⟨true, false, false, false, 1, 1, 0, [], [], [], [], 100000, 0, 8192, 0, 0, 0, 0⟩,
    [⟨100000, [], [], [], [], []⟩], ⟨0, 0, 0, 0, 0, []⟩, 1, [], [], ⟨1, 0, 1, 0, [], []⟩, ⟨0, 0, 0, 0, []⟩, ⟨false, 0, 0, 0, 0, 0, []⟩, []⟩ }

theorem witness_RemoteRows :
    [0x080, 0x082, 0x083, 0x084].all (fun op =>
      dmaReady tiled (rword op 15 0) && remoteWord op (rword op 15 0) && isSource (remoteSource (rword op 15 0) tiled (tiled.origin (rword op 15 0)))
      && dmaReady tiled (rword op 16 (to16 0)) && remoteWord op (rword op 16 (to16 0)) && remoteWord op (rword op 16 (to16 2))
      && isSource (remoteSource (rword op 16 (to16 0)) tiled (tiled.origin (rword op 16 (to16 0))))
      && isSource (remoteSource (rword op 16 (to16 0)) paired (paired.origin (rword op 16 (to16 0))))
      && dmaReady paired (rword op 16 (to16 0))
      && reaches (destination tiled op (remoteOp (rword op 16 (to16 0)))) (some 0)
      && reaches (destination tiled op (remoteOp (rword op 16 (to16 2)))) none) = true
    ∧ paired.silent 1 = true ∧ tiled.silent 1 = false
    ∧ remoteWord 0x081 (rword 0x081 0 0) = true ∧ dmaReady tiled (rword 0x081 0 0) = true
    ∧ remoteWord 0x085 (word 1 3 0x085 0) = true ∧ dmaReady tiled (word 1 3 0x085 0) = true := by decide +kernel

/-! ### HBM, fabric, links -/

/-- A receive entry: KIND, region 0, GUARD; and an entry of a transmit position of DMA engine 0 of core 0. -/
def rxWord (kind guard : Nat) : Word128 := BitVec.ofNat 128 (kind * 2 ^ 92 + 3 * 2 ^ 30 + 5 * 2 ^ 22 + 2 ^ 21 + guard)

/-- An image of one program: position 0 of each port receives a guarded PUT, position 1 an unguarded one, position 2 a SIGNAL; channel 0
moves part 7 from unit 1 to unit 2; a barrier at offset 1,020; port 0 is a child and port 1 the parent. -/
def image1 : Image :=
  ⟨⟨false, false, false, false, 1, 1, 0, [], [], [], [], 100000, 0, 8192, 0, 0, 0, 0⟩,
   [⟨100000, [], [], [[BitVec.ofNat 128 ((2 ^ 60 + 2 ^ 52 + 2 * 2 ^ 44 + 7 * 2 ^ 24) * 2 ^ 64)]],
     List.replicate 16 ⟨46, [rxWord 1 1, rxWord 1 0, rxWord 7 0]⟩, [⟨9, true, false, true, false, 0, 1020, [], []⟩]⟩],
   ⟨0, 0, 0, 0, 0, []⟩, 1, [], [], ⟨1, 0, 1, 0, [], [[⟨1, 0, 5⟩, ⟨2, 0, 3⟩]]⟩, ⟨0, 0, 0, 0, []⟩, ⟨false, 0, 0, 0, 0, 0, []⟩, []⟩

/-- The job runs, 1,020 ac after its start, where a position begins; every port is up. -/
def linked : State :=
  { run with image := some image1, sched := 1020, job := { run.job with nextStart := 100000 },
             ports := Vector.replicate 16 { PortState.initial with st := 2 } }

def hw (cmd lo : Nat) : HbmIssue := ⟨639, true, BitVec.ofNat 64 (cmd * 2 ^ 48 + lo)⟩
/-- Bank 0 of the last pseudo-channel has row 16,383 open, and 32 bytes wait in slot 5 of its channel. -/
def opened : State :=
  { run with
    hbm := { run.hbm with banks := [(48 * 639, { Bank.closed with row := some 16383 })] }
    fabric := ⟨[(slotKey 83 5, [(burstAddress 639 0 16383 0, List.replicate 32 1)])], [], []⟩ }

/-- Schedule time stands; the hold loop began an ac ago. -/
def holdLoop : State := { run with job := { run.job with st := .hold }, hbm := { run.hbm with loopFrom := some 4999 } }
def hwEven (cmd lo : Nat) : HbmIssue := ⟨639, false, BitVec.ofNat 64 (cmd * 2 ^ 48 + lo)⟩

theorem witness_HbmRows :
    run.scheduleRuns = true ∧ opened.scheduleRuns = true ∧ hbmRowWord 0 (hw 0 0) = true ∧ hbmRowWord 6 (hw 6 (262143 * 2 ^ 24)) = true
    ∧ hbmRowWord 1 (hw 1 (16383 * 2 ^ 24)) = true ∧ (run.bank (hw 1 0)).row = none ∧ hbmRowWord 4 (hw 4 0) = true
    ∧ hbmRowWord 5 (hw 5 (47 * 2 ^ 42)) = true ∧ hbmRowWord 2 (hw 2 (31 * 2 ^ 19 + 5)) = true ∧ hbmRowWord 2 (hw 2 0x1FFF) = true
    ∧ hbmXfer (hw 2 0x1FFF).word = 0x1FFF ∧ hbmXfer (hw 2 5).word ≠ 0x1FFF ∧ (opened.bank (hw 2 5)).row.isSome = true
    ∧ hbmRowWord 3 (hw 3 5) = true ∧ hbmRowWord 3 (hw 3 0x1FFF) = true ∧ opened.Canonical
    ∧ slotBytes (burstAddress 639 0 16383 (hbmCol (hw 3 5).word)) 32
        (tabGet [] (slotKey (controllerChannel 639) (hbmXfer (hw 3 5).word)) opened.fabric.slots) = some (List.replicate 32 1)
    ∧ (holdLoop.scheduleRuns = false ∧ holdLoop.loopBank = some 0 ∧ hbmBank (hwEven 5 0).word = 0) := by
  unfold State.Canonical; decide +kernel

/-- Controller 0x40's channel 64: a slot of KIND 1 from the controller to unit 2 in direction 0, of part 7 of unit 1 to it in direction 1;
then a slot of each other KIND. -/
def fabricWord (kind src dst part : Nat) : Nat := kind * 2 ^ 60 + src * 2 ^ 52 + dst * 2 ^ 44 + part * 2 ^ 24
def fabricWords : List Word128 :=
  [BitVec.ofNat 128 (fabricWord 1 0x40 2 0 * 2 ^ 64 + fabricWord 1 1 0x40 7), 0, BitVec.ofNat 128 (fabricWord 5 0 0 0 * 2 ^ 64)]
def fabricOf (k : Nat) : State :=
  { linked with
    image := some { image1 with programs := [⟨100000, [], [], List.replicate 64 [] ++ [[fabricWords.getD k 0]], [], []⟩] }
    fabric := ⟨[(slotKey 64 0, [(0, [9])])], [⟨1, 7, 0, [1, 2, 3]⟩], []⟩
    ckpt := { linked.ckpt with st := 2 } }

theorem witness_FabricSlotMoves :
    (∀ k < 3, (fabricOf k).scheduleRuns = true ∧ ((fabricOf k).program!.fabric.getD 64 [])[(2 * (fabricOf k).stepOffset + bit true) % 1]?
      = fabricWords[k]?)
    ∧ controllerOf 64 = some 0x40 ∧ (fabricHalf (fabricWords.getD 0 0) false).src = 0x40 ∧ (fabricHalf (fabricWords.getD 0 0) true).dst = 0x40
    ∧ (fabricHalf (fabricWords.getD 0 0) true).kind = 1 ∧ (fabricHalf (fabricWords.getD 0 0) true).part = 7
    ∧ (fabricOf 0).fabric.out.find? (fun p => p.unit == 1 && p.part == 7 && p.addr / 2048 % 640 / 32 + 0x40 == 0x40) = some ⟨1, 7, 0, [1, 2, 3]⟩
    ∧ (fabricHalf (fabricWords.getD 1 0) false).kind = 0 ∧ (fabricHalf (fabricWords.getD 2 0) false).kind = 5
    ∧ (attachmentOf 64).isSome = true ∧ (attachmentOf 63).isSome = true ∧ linked.coreInWindow 7 = false := by decide +kernel

/-- A flit of slot 32,767 that has been copied. -/
def sent3 (copies : Nat) : Outgoing := ⟨32767, 900, 0, copies, ⟨0, [], 0⟩⟩
/-- Port 3 sent a flit in slot 32,767; its slots 0 and 1 were damaged and their deadlines are now; lane 8 failed; lane 0 is to be
replaced from now on. -/
def links3 : State :=
  linked.modPort 3 (fun x => { x with
    sent := [sent3 63], damaged := [⟨900, 0, 1020, 0, false, 0⟩], remap := some (0, 1020) })
def links4 : State :=
  linked.modPort 3 (fun x => { x with damaged := [⟨900, 1, 1020, 0, false, 0⟩], failed := [(true, 8)], sent := [sent3 64] })

theorem witness_LinkEvents :
    (links3.port 3).carries = true ∧ (links3.port 3).sent.find? (fun o => o.slot == 32767) = some (sent3 63)
    ∧ (links4.port 3).carries = true ∧ (links4.port 3).sent.find? (fun o => o.slot == 32767) = some (sent3 64)
    ∧ links3.scheduleRuns = true
    ∧ (links3.port 3).damaged.find? (fun d => !d.missed && decide (d.deadline ≤ links3.now)) = some ⟨900, 0, 1020, 0, false, 0⟩
    ∧ (rxEntry ((links3.linkTable 3).entry 0)).kind ≠ 0 ∧ (rxEntry ((links3.linkTable 3).entry 0)).guard = true
    ∧ (links4.port 3).damaged.find? (fun d => !d.missed && decide (d.deadline ≤ links4.now)) = some ⟨900, 1, 1020, 0, false, 0⟩
    ∧ (rxEntry ((links4.linkTable 3).entry 1)).kind ≠ 0 ∧ (rxEntry ((links4.linkTable 3).entry 1)).guard = false
    ∧ (∀ d ∈ [false, true], linked.lanesChange 3 d 7 = true ∧ links4.lanesChange 3 d 7 = true) ∧ (linked.port 3).failed = [] ∧ (links4.port 3).failed ≠ []
    ∧ (links3.port 3).remap = some (0, 1020) ∧ (links3.scheduleRuns = true → 1020 ≤ links3.now)
    ∧ run.alive = true ∧ ((run.setPort 3 { PortState.initial with st := 1 }).port 3).st = 1 ∧ 7 ≤ run.boot.stage.toNat
    ∧ run.links.origin = false ∧ (0 : Fin 16).val = run.links.followPort.toNat ∧ ({ run with boot := { run.boot with stage := 7 } } : State).boot.stage = 7
    ∧ ({ run with links := { run.links with origin := true } } : State).links.origin = true := by decide +kernel

/-- A flit header of KIND and SLOT. -/
def flit (kind slot : Nat) : Flit := ⟨BitVec.ofNat 48 (kind * 2 ^ 46 + slot * 2 ^ 29), List.replicate 256 1, 256⟩
def halted : State := { linked with job := { linked.job with st := .halted } }
/-- A SIGNAL flit whose delivery ac is now, and a damaged flit of slot 0; then the same behind a guarded flit that has missed. -/
def arriving (missed : Bool) : State :=
  linked.modPort 3 (fun x => { x with
    arrivals := [⟨1020, 930, 2, rxWord 7 0, false, []⟩], damaged := [⟨900, 0, 1020, 0, missed, 0⟩] })

theorem witness_FlitRows :
    linked.alive = true ∧ (linked.port 3).carries = true ∧ linked.scheduleRuns = true ∧ positionAt linked.stepOffset = some 552
    ∧ linked.job.stepStart ≤ linked.now ∧ halted.alive = true ∧ (halted.port 3).carries = true ∧ halted.scheduleRuns = false
    ∧ linked.jobOn = true ∧ (linked.linkTable 3).cycle ≠ 0 ∧ flitKind (flit 1 0) ≠ 2 ∧ flitKind (flit 1 0) = 1
    ∧ flitFault (flit 1 0) = false ∧ flitKind (flit 0 0) = 0 ∧ flitKind (flit 3 0) = 3 ∧ flitFault (flit 3 0) = false
    ∧ flitKind (flit 2 0) = 2 ∧ flitFault (flit 2 0) = false ∧ (arriving false).alive = true ∧ ((arriving false).port 3).carries = true
    ∧ ((arriving false).port 3).damaged.find? (fun d => d.slot == flitSlot (flit 2 0)) = some ⟨900, 0, 1020, 0, false, 0⟩
    ∧ (arriving false).scheduleRuns = true
    ∧ earliest Arrival.start ((arriving false).deliverable 3) = some ⟨1020, 930, 2, rxWord 7 0, false, []⟩
    ∧ ((arriving false).core (rxEntry (rxWord 7 0)).core).ropFrozen = false ∧ (rxEntry (rxWord 7 0)).kind = 7
    ∧ (arriving true).scheduleRuns = true ∧ ((arriving true).port 3).damaged = [⟨900, 0, 1020, 0, true, 0⟩]
    ∧ ((arriving true).port 3).arrivals.all (fun a => decide (900 < a.start)) = true
    ∧ (rxEntry (((arriving true).linkTable 3).entry 0)).guard = true := by decide +kernel

/-! ### Barriers, holds, soaks -/

def rec9 : BarrierRec := ⟨9, true, false, true, false, 0, 1020, [], []⟩

/-- At the barrier: a fault is pending; SUSPECT; a wait of the barrier is not met; no token; the token of the parent. -/
def faulted : State := { linked with job := { linked.job with faultAt := some 1016 } }
def suspect : State := { linked with job := { linked.job with suspectStop := true } }
def logFull : State := { linked with ckpt := { linked.ckpt with st := 2, data := [1], read := 0 } }
def going : State :=
  (linked.modPort 1 (fun x => { x with parentGo := some 0 })).modPort 0 (fun x => { x with childReady := true })

def watched (s : State) : State :=
  let n := s.passBarrierWords
  ({ n with job := { n.job with barrierSeq := n.job.barrierSeq + 1 } } : State).watchBarrier

theorem witness_BarrierDue :
    linked.scheduleRuns = true ∧ linked.barrierHere = some rec9 ∧ faulted.barrierHere = some rec9 ∧ faulted.job.faultAt.isSome = true
    ∧ suspect.barrierHere = some rec9 ∧ suspect.job.faultAt = none ∧ (watched suspect).job.suspectStop = true
    ∧ logFull.barrierHere = some rec9 ∧ (watched logFull).job.suspectStop = false ∧ (watched logFull).unready rec9 ≠ 0
    ∧ (watched linked).job.suspectStop = false ∧ (watched linked).unready rec9 = 0 ∧ (watched linked).tokenHeld = false
    ∧ going.barrierHere = some rec9 ∧ (watched going).unready rec9 = 0 ∧ (watched going).tokenHeld = true
    ∧ (let s : State := { linked with job := { linked.job with tokenDue := true, barrier := some rec9 } }
       s.job.tokenDue = true ∧ s.job.barrier = some rec9 ∧ s.job.suspectStop = false ∧ s.tokenHeld = false)
    ∧ (let s : State := { watched going with job := { going.job with tokenDue := true, barrier := some rec9 } }
       s.tokenHeld = true) := by decide +kernel

theorem witness_CommitEffects :
    linked.Canonical ∧ linked.job.fprint.length ≤ 32 ∧ (∀ im, linked.image = some im → im.hdr.manifestDigest.length ≤ 32) := by
  refine ⟨by unfold State.Canonical; decide +kernel, by decide, ?_⟩
  intro im h
  cases h
  decide

/-- The module holds at its barrier, released at wall count 5,000; the second hold has been noticed. -/
def holding (noticed : Bool) (release : Nat) : State :=
  { linked with
    job := { linked.job with st := .hold, barrier := some rec9, holdNoticed := noticed, holdWall := 0 }
    links := { linked.links with releaseAt := some release }
    cfg := { linked.cfg with seqCfg := 5000 } }

theorem witness_HoldRows :
    linked.image.isSome = true ∧ linked.tokenBarrier.isSome = true ∧ (linked.placementPort 0).isChild = true ∧ (linked.placementPort 1).isParent = true
    ∧ (2 : BitVec 2) ≠ 0 ∧ (holding false 5000).job.st = .hold ∧ (holding false 5000).job.barrier = some rec9
    ∧ (holding false 5000).links.releaseAt = some 5000 ∧ 5000 ≤ (holding false 5000).clusterWall
    ∧ (holding false 5001).clusterWall < 5001 ∧ (holding false 5000).job.faultAt = none ∧ (holding false 5000).links.active = false
    ∧ (holding true 5000).job.holdNoticed = true ∧ (holding false 5000).job.holdNoticed = false
    ∧ (holding false 5000).job.holdWall + field (holding false 5000).cfg.seqCfg.toNat 0 32 ≤ (holding false 5000).wall.toNat := by
  decide +kernel

theorem witness_FaultHeld :
    faulted.job.faultAt = some 1016 ∧ faulted.scheduleRuns = true ∧ faulted.now < 1016 + 8
    ∧ ({ faulted with sched := 1024 } : State).job.faultAt = some 1016 ∧ 1016 + 8 ≤ ({ faulted with sched := 1024 } : State).now := by
  decide +kernel

/-- In a soak at the stop point 1,020, released at wall count 5,000. -/
def soaking : State :=
  { linked with job := { linked.job with st := .soak }, links := { linked.links with restartAt := some 5000 } }

theorem witness_SoakRows :
    linked.scheduleRuns = true ∧ linked.tokenStop 1 = some 8192 ∧ linked.links.stopAt = none
    ∧ ({ linked with links := { linked.links with stopAt := some 1020 } } : State).links.stopAt = some 1020
    ∧ ({ linked with links := { linked.links with stopAt := some 1020 } } : State).scheduleRuns = true ∧ 1020 ≤ linked.now
    ∧ soaking.standing = true ∧ (soaking.placementPort 0).isChild = true ∧ soaking.job.suspectStop = false ∧ soaking.job.halt ≠ some 0
    ∧ soaking.job.st = .soak ∧ soaking.links.restartAt = some 5000 ∧ 5000 ≤ soaking.clusterWall ∧ soaking.job.faultAt = none
    ∧ soaking.job.halt = none ∧ soaking.links.joined = [] := by decide +kernel

/-- A log full of records that no LOG_ACK has confirmed. -/
def fullLog : State :=
  { run with log := { run.log with nextSeq := 16384, events := List.replicate 16384 ⟨0, 0, 0, 0, 0, 0, [], []⟩ } }

theorem witness_EventsLogged : fullLog.cfg.logAckReq = true ∧ eventLogSize ≤ fullLog.eventUnacked ∧ run.eventUnacked < eventLogSize := by
  refine ⟨by decide +kernel, ?_, by decide +kernel⟩
  show 16384 ≤ min (16384 - 0) (List.replicate 16384 _).length
  rw [List.length_replicate]
  decide

/-! ### The Feltodo Command Protocol -/

def sess (seat : Nat) : Session :=
  { id := 7, seat := seat, st := .open_, key := [1, 2, 3], hostNonce := [], devNonce := [], high := 0, seen := [], mask := 0x200,
    port := 0, src := 0, notices := 0, chunks := 0, report := none }

/-- A module whose Ethernet ports are up, with an IPv4 address and packets of 9,000 bytes, and that holds a session. -/
def withSession (x : Session) (s : State) : State :=
  { s with eth := Vector.replicate 2 { EthState.initial with link := 1 }, fcp := { s.fcp with sessions := [x] },
           cfg := { s.cfg with netCfg := Vector.replicate 2 (BitVec.ofNat 64 (0xC0000201 * 2 ^ 32 + 2250)) } }

/-- A request of session 7 with sequence 1; its tag is the session's. -/
def request (session flags : Nat) (params : Bytes) : Packet :=
  { port := 0, src := 99, v6 := false, target := 0xC0000201, vlan := 0, prot := .bare, fragmented := false, udpPort := 0xB8D0, magic := 0x46454C54, version := 1,
    flags := BitVec.ofNat 8 flags, session := BitVec.ofNat 16 session, seq := 1, status := 0, paramLen := BitVec.ofNat 16 params.length,
    rsv1 := 0, wall := 0, rsv2 := 0, params := params, tag := [] }
def signed (op : Nat) (x : Session) (params : Bytes) : Packet :=
  { request 7 0 params with tag := (hmac x.key (packetBody (request 7 0 params) op)).take 16 }

/-- A port takes a packet at once. -/
def takenOk (p : Packet) (s : State) : Bool :=
  s.intake p == .packet && !s.released p && s.eth[p.port].ingress.isEmpty && decide (s.fcp.held.length < commandQueue) && s.room p.port 32

theorem taken_of (p : Packet) (s : State) (h : takenOk p s = true) : TakenAtOnce p s := by
  simp only [takenOk, Bool.and_eq_true, Bool.not_eq_true', beq_iff_eq, List.isEmpty_iff, decide_eq_true_eq] at h
  obtain ⟨⟨⟨⟨a, b⟩, c⟩, d⟩, e⟩ := h
  exact ⟨a, b, c, d, e⟩

/-- The packet of a row from a session is accepted where its reply fits; its tag is right by the way it is made. -/
def takes (d : Spec) (x : Session) (params : Bytes) (s : State) : Bool :=
  let p := signed d.opcode x params
  s.session p.session.toNat == some x && x.id == p.session.toNat && takenOk p s && p.magic == 0x46454C54
  && x.st == .open_ && !packetUnauth p && p.version == 1 && !s.executing x.id && (s.queueOf x.id).isEmpty
  && x.window p.seq.toNat (p.tag.take 4) == .execute && packetHeaderOk p && d.seats.contains x.seat
  && (s.boot.stage == 9 || d.early) && d.paramsOk p.params && (!s.scheduleRuns || (d.slots x p (s.heard x p)).isEmpty)

/-- Its reply fits egress. -/
def fitsAt (d : Spec) (x : Session) (params : Bytes) (s : State) : Bool :=
  let p := signed d.opcode x params
  (d.answer x p (s.heard x p)).fits p.port

theorem accepted_of (d : Spec) (x : Session) (params : Bytes) (s : State) (h : takes d x params s = true)
    (k : fitsAt d x params s = true) : Accepted d x (signed d.opcode x params) s := by
  simp only [takes, Bool.and_eq_true, Bool.not_eq_true', Bool.or_eq_true, beq_iff_eq, List.isEmpty_iff] at h
  obtain ⟨⟨⟨⟨⟨⟨⟨⟨⟨⟨⟨⟨⟨⟨a, b⟩, c⟩, e⟩, f⟩, g⟩, i⟩, j⟩, l⟩, m⟩, n⟩, o⟩, q⟩, r⟩, u⟩ := h
  exact ⟨a, b, taken_of _ _ c, e, f, g, rfl, i, j, l, m, n, o, q, r, u, k⟩

/-- An answer fits where the longest packet does, for a row that sends nothing else. -/
theorem fits_of (d : Spec) (x : Session) (p : Packet) (s : State) (h : s.eth[p.port].occupancy + 48 + s.roomOf p.port ≤ egressSize)
    (k : (d.run x p s).state.eth = s.eth) : (d.answer x p s).fits p.port = true := by
  have room : ∀ n, n ≤ s.roomOf p.port → s.room p.port n = true := fun n hn => decide_eq_true (by omega)
  have refuse : ∀ c, (Reply.refuse c s).fits p.port = true := fun c => by
    simp only [Reply.fits, Reply.refuse, Bool.false_or]; exact room _ (Nat.zero_le _)
  unfold Spec.answer; dsimp only
  split; · exact refuse _
  split; · exact refuse _
  split; · exact refuse _
  split; · exact refuse _
  split; · exact refuse _
  rename_i hl
  simp only [Reply.fits, State.room, k, Bool.or_eq_true]
  exact .inr (room _ (Nat.not_lt.mp (of_decide_eq_false (Bool.not_eq_true _ ▸ hl))))

/-- Parameters of the length that a row needs. -/
def zeros (d : Spec) : Bytes := List.replicate d.len 0
def seatOf (d : Spec) : Session := sess (d.seats.headD 1)

/-- Every row of a session takes a packet and its reply fits; AcceptedRuns. -/
theorem witness_AcceptedRuns :
    sessionRows.all (fun r => takes r.2 (seatOf r.2) (zeros r.2) (withSession (seatOf r.2) run)
      && (r.2.opcode == 0x800 || fitsAt r.2 (seatOf r.2) (zeros r.2) (withSession (seatOf r.2) run))) = true := by decide +kernel

theorem replyPart_eth (b : Bytes) (n : Nat) (s : State) : (replyPart b n s).state.eth = s.eth := by unfold replyPart; split <;> rfl

theorem witness_AcceptedRuns_health :
    let x := seatOf healthReadSpec
    fitsAt healthReadSpec x (zeros healthReadSpec) (withSession x run) = true :=
  fits_of _ _ _ _ (by decide +kernel) (replyPart_eth _ _ _)

/-- Session 7 with a request that waits in the command queue: sequence 1, and sequence 9. -/
def queueing (st : SessionSt) (seq : U32) : State :=
  let s := withSession { sess 1 with st := st } run
  let q := { request 7 0 [] with seq := seq }
  { s with fcp := { s.fcp with held := [⟨q, .fcpNop q, []⟩] } }

/-- A packet waits behind another of its session; AcceptedRuns. -/
theorem witness_AcceptedRuns_waits :
    let s := queueing .open_ 9
    let p := signed 0x100 (sess 1) []
    s.session p.session.toNat = some (sess 1) ∧ takenOk p s = true ∧ p.magic = 0x46454C54 ∧ packetUnauth p = false ∧ p.version = 1
    ∧ (s.queueOf 7).all (fun q => q.seq != p.seq) = true ∧ (s.queueOf 7).isEmpty = false ∧ (sess 1).window p.seq.toNat (p.tag.take 4) = .execute := by
  decide +kernel

/-- The turn of a queued packet has come, of an open session and of a frozen one; AcceptedRuns. -/
theorem witness_AcceptedRuns_queued :
    [SessionSt.open_, .frozen].all (fun st =>
      let s := queueing st 1
      let p := request 7 0 []
      let x : Session := { sess 1 with st := st }
      s.released p && s.session p.session.toNat == some x && (nopSpec.answer x p (s.dequeue p)).fits p.port && (s.dequeue p).room p.port 0)
      = true := by decide +kernel

theorem witness_BadPacketsDrop :
    let s := withSession (sess 1) run
    let p := request 7 0 []
    takenOk p s = true ∧ ({ p with magic := 0 } : Packet).magic ≠ 0x46454C54 ∧ takenOk { p with magic := 0 } s = true
    ∧ s.session (request 8 0 []).session.toNat = none ∧ takenOk (request 8 0 []) s = true
    ∧ s.session p.session.toNat = some (sess 1) ∧ (hmac (sess 1).key (packetBody p nopSpec.opcode)).take 16 ≠ p.tag := by
  decide +kernel

/-- A packet of version 2 with the tag that its session gives it. -/
def version2 (x : Session) : Packet :=
  let p := { request 7 0 [] with version := 2 }
  { p with tag := (hmac x.key (packetBody p 0x100)).take 16 }
theorem version2_tag (x : Session) : (hmac x.key (packetBody (version2 x) 0x100)).take 16 = (version2 x).tag := rfl
theorem witness_BadPacketsDrop_version :
    let s := withSession (sess 1) run
    let p := version2 (sess 1)
    takenOk p s = true ∧ s.session p.session.toNat = some (sess 1) ∧ p.magic = 0x46454C54
    ∧ packetUnauth p = false ∧ p.version ≠ 1 := by decide +kernel

theorem signed_tag (op : Nat) (x : Session) (params : Bytes) :
    (hmac x.key (packetBody (signed op x params) op)).take 16 = (signed op x params).tag := rfl

/-- What precedes the command of a row: the packet of a session in a state of its own (FrozenAnswers, RepeatsRunNothing). -/
def reachesSession (st : SessionSt) (x : Session) (p : Packet) (s : State) : Bool :=
  takenOk p s && s.session p.session.toNat == some x && p.magic == 0x46454C54 && x.st == st
  && !packetUnauth p && p.version == 1

theorem witness_FrozenAnswers :
    let x : Session := { sess 1 with st := .frozen }
    reachesSession .frozen x (signed 0x100 x []) (withSession x run) = true
    ∧ (hmac x.key (packetBody (signed 0x100 x []) nopSpec.opcode)).take 16 = (signed 0x100 x []).tag :=
  ⟨by decide +kernel, signed_tag _ _ _⟩

/-- Sequence 1 was accepted before: with the tag of this packet, and with another. -/
def repeated (tag4 : Bytes) : Session := { sess 1 with high := 1, seen := [⟨1, tag4, 0, []⟩] }

theorem witness_RepeatsRunNothing (tag4 : Bytes) :
    let x := repeated tag4
    let s := withSession x run
    let p := signed 0x100 x []
    (hmac x.key (packetBody p nopSpec.opcode)).take 16 = p.tag ∧ s.queueOf x.id = [] ∧ s.executing x.id = false
      ∧ x.seen.find? (fun e => e.seq == p.seq.toNat) = some ⟨1, tag4, 0, []⟩ ∧ nopSpec.long = false :=
  ⟨signed_tag _ _ _, rfl, rfl, rfl, rfl⟩

/-- The two entries of the window: the tag of the packet itself (its session's key does not depend on the entry), and another. -/
theorem witness_Repeats_reaches (b : Bool) :
    let t := (signed 0x100 (sess 1) []).tag.take 4
    let x := repeated (if b then t else [])
    reachesSession .open_ x (signed 0x100 x []) (withSession x run) = true ∧ ((x.seen.map (·.tag4) == [t]) = b) := by
  cases b <;> decide +kernel

/-- A packet of session `x` with these parameters is accepted in `s` where its reply fits, with the hypotheses of its row. -/
def fcpTakes (d : Spec) (x : Session) (params : Bytes) (s : State) (ok : State → State → Packet → Bool) : Bool :=
  let t := withSession x s
  let p := signed d.opcode x params
  takes d x params t && ok t (t.heard x p) p

/-- The packet is accepted. -/
def fcpOk (d : Spec) (x : Session) (params : Bytes) (s : State) (ok : State → State → Packet → Bool) : Bool :=
  fcpTakes d x params s ok && fitsAt d x params (withSession x s)

def always : State → State → Packet → Bool := fun _ _ _ => true
def jobIn (st : JobState) (s : State) : State := { s with job := { s.job with st := st } }

theorem witness_ReplyIsSent :
    let s := withSession (sess 1) run
    freezes 0 = false ∧ (Reply.ok [] s).waits = false ∧ s.session 7 = some (sess 1)
    ∧ freezes 1 = true ∧ (Reply.refuse 1 s).waits = false := by decide +kernel

theorem witness_FreezingStatuses :
    fcpOk (badOpcodeSpec 0x999) (sess 1) [] run (fun _ _ _ => !knownOpcodes.contains 0x999) = true ∧ (0x999 : U16) ≠ 0x510 := by
  decide +kernel

def pendingSession : Session := { sess 1 with st := .pending, hostNonce := [1], devNonce := [2] }
def fullEgress : State :=
  { withSession { sess 1 with mask := 2 ^ 64 - 1 } run with
    eth := Vector.replicate 2 { EthState.initial with link := 1, egress := List.replicate 65 ⟨0, 0, 0, 0, 0, 0, 0, 0, List.replicate 16320 0, [], 0, false⟩ } }
def note : EventRec := ⟨0, 0, 0, 0, 0x3E, 0, [], []⟩

theorem witness_SessionEvents :
    let s := withSession { sess 1 with mask := 2 ^ 64 - 1 } { run with cfg := { run.cfg with sessionIdle := 1 } }
    s.firmwareServes = true ∧ s.eth[(0 : Fin 2)].link ≠ 0 ∧ s.eth[(1 : Fin 2)].link ≠ 0 ∧ s.intake (request 7 0 []) ≠ .ignored
    ∧ s.cfg.sessionIdle ≠ 0 ∧ s.session (7 : U16).toNat = some { sess 1 with mask := 2 ^ 64 - 1 }
    ∧ (withSession pendingSession run).session (7 : U16).toNat = some pendingSession
    ∧ s.roomFor note = true ∧ fullEgress.roomFor note = false := by decide +kernel

/-- A claimed module: seats 1 and 2 have keys. -/
def claimed (s : State) : State := { s with flash := { s.flash with keysA := some ⟨1, [(1, [5]), (2, [6])], []⟩ } }
/-- A packet without a session. -/
def zero (params : Bytes) : Packet :=
  { request 0 8 params with tag := List.replicate 16 0 }
def takesZero (d : Spec) (p : Packet) (s : State) : Bool :=
  takenOk p s && p.magic == 0x46454C54 && p.session == 0 && packetUnauth p && p.tag == List.replicate 16 0
  && p.version == 1 && packetHeaderOk p && d.paramsOk p.params

theorem acceptedZero_of (d : Spec) (ok : State → Bool) (p : Packet) (s : State) (h : takesZero d p s = true) (k : ok s = true)
    (l : (d.answerZero p s).fits p.port = true) : AcceptedZero d ok p s := by
  simp only [takesZero, Bool.and_eq_true, beq_iff_eq] at h
  obtain ⟨⟨⟨⟨⟨⟨⟨a, b⟩, c⟩, e⟩, f⟩, g⟩, i⟩, j⟩ := h
  exact ⟨taken_of _ _ a, b, c, e, f, k, g, i, j, l⟩

/-- A session-0 answer fits where the longest packet does, for a row that sends nothing. -/
theorem fitsZero_of (d : Spec) (p : Packet) (s : State) (h : s.eth[p.port].occupancy + 48 + s.roomOf p.port ≤ egressSize)
    (k : (d.run sessionZero p s).state.eth = s.eth) : (d.answerZero p s).fits p.port = true := by
  have room : ∀ n, n ≤ s.roomOf p.port → s.room p.port n = true := fun n hn => decide_eq_true (by omega)
  have refuse : ∀ c, (Reply.refuse c s).fits p.port = true := fun c => by
    simp only [Reply.fits, Reply.refuse, Bool.false_or]; exact room _ (Nat.zero_le _)
  unfold Spec.answerZero; dsimp only
  split
  · split; · exact refuse _
    rename_i hl
    simp only [Reply.fits, State.room, k, Bool.or_eq_true]
    exact .inr (room _ (Nat.not_lt.mp (of_decide_eq_false (Bool.not_eq_true _ ▸ hl))))
  · exact refuse _

theorem openSession_eth (p : Packet) (s : State) : (openSession p s).state.eth = s.eth := by
  unfold openSession; dsimp only
  split; · rfl
  split; · rfl
  split; · rfl
  split; · rfl
  split <;> rfl

theorem opens_fits (p : Packet) (s : State) (h : s.eth[p.port].occupancy + 48 + s.roomOf p.port ≤ egressSize) :
    (openSpec.answerZero p s).fits p.port = true := fitsZero_of openSpec p s h (openSession_eth p s)
theorem witness_SessionsOpen_fits :
    (openSpec.answerZero (zero ([1] ++ List.replicate 39 0)) (withSession (sess 1) (claimed run))).fits
      (zero ([1] ++ List.replicate 39 0)).port = true := opens_fits _ _ (by decide +kernel)

theorem witness_SessionsOpen_open :
    let s := withSession (sess 1) (claimed run)
    let p := zero ([1] ++ List.replicate 39 0)
    takesZero openSpec p s = true ∧ s.sec.trngFail = false ∧ s.claimed = true ∧ s.seatKey 1 = some [5] ∧ s.freeSession = some 1 ∧ 40 ≤ s.roomOf p.port
    ∧ allSeats.contains (beAt p.params 0 1) = true := by decide +kernel

theorem witness_SessionsOpen_auth :
    let x := pendingSession
    let s := withSession x (claimed run)
    let proof := hostProof [5] x.hostNonce x.devNonce x.seat
    let p := { request 7 0 proof with tag := (hmac x.key (packetBody (request 7 0 proof) 0x0102)).take 16 }
    let q := request 7 0 (List.replicate 32 0)
    s.session 7 = some x ∧ takenOk p s = true ∧ takenOk q s = true ∧ s.seatKey x.seat = some [5] ∧ packetUnauth p = false
    ∧ packetHeaderOk p = true ∧ (hmac x.key (packetBody p 0x0102)).take 16 = p.tag ∧ q.params ≠ proof := by
  decide +kernel

theorem witness_SessionCommands :
    fcpOk nopSpec (sess 1) [] run always = true
    ∧ [[0xFF, 0xFF], [0, 7]].all (fun id => fcpOk closeSpec (sess 1) (id ++ zeros { closeSpec with len := closeSpec.len - 2 }) run always) = true
    ∧ (let x := sess 1
       let y : Session := { sess 2 with id := 9, st := .frozen }
       let s := withSession x run
       let t := { s with fcp := { s.fcp with sessions := [x, y] } }
       let params : Bytes := [0, 9] ++ zeros { thawSpec with len := thawSpec.len - 2 }
       takes thawSpec x params t && fitsAt thawSpec x params t && (t.heard x (signed 0x104 x params)).session 9 == some y) = true
    ∧ fcpOk subscribeSpec (sess 1) (zeros subscribeSpec) run (fun s _ p => decide (8 ≤ s.roomOf p.port)) = true
    ∧ fcpOk listSpec (sess 1) (zeros listSpec) run always = true := by decide +kernel

theorem witness_KeyCommands :
    (let s := withSession (sess 1) run
     [false, true].all (fun c =>
       let t : State := { s with pins := { s.pins with claimEn := c } }
       let p := zero (zeros operatorKeySpec)
       takesZero operatorKeySpec p t && (operatorKeySpec.answerZero p t).fits p.port) && !s.claimed) = true
    ∧ [1, 2, 3, 4, 5].all (fun seat => allSeats.contains seat.toNat && fcpOk seatKeySpec (sess 1) (seat :: List.replicate 39 0) (claimed run) always) = true
    ∧ fcpOk unclaimSpec (sess 1) [0x55, 0x4E, 0x43, 0x4C] (jobIn .empty (claimed run)) (fun _ _ p => beAt p.params 0 4 == 0x554E434C) = true
    ∧ [[0, 0, 0], [1, 3, 1]].all (fun l => fcpOk macsecSpec (sess 1) (l ++ List.replicate (macsecSpec.len - 3) 0) run
        (fun _ _ p => beAt p.params 0 1 ≤ 1 && beAt p.params 1 1 ≤ 3 && beAt p.params 2 1 ≤ 1)) = true := by decide +kernel

/-- A module whose schedule time stands: its accesses wait for no slot. -/
def still : State := jobIn .halted run

/-- The image of one program, with a take of ring 4 at its barrier: entries of 128 bytes, 4 slots in region 1, counter 9. -/
def image2 : Image :=
  { image1 with programs := [⟨100000, [], [], [], [], [⟨9, true, false, true, false, 0, 1020, [], [⟨4, 1, 1, 9, 128, 4⟩]⟩]⟩] }
def ringed (entry : Bytes) : State :=
  { still with image := some image2, fcp := { run.fcp with rings := [⟨4, 0, 0, 0⟩] },
               hbm := { run.hbm with mem := (run.hbm.mem.writeBytes 0 entry) } }
/-- Entry 0: its index, no payload, the CRC of nothing. -/
def entry0 : Bytes := List.replicate 128 0

/-- A loaded module without neighbours. -/
def startable : State := jobIn .loaded { run with image := some { image2 with placement := ⟨1, 0, 1, 0, [], []⟩ }, links := { run.links with origin := true } }

theorem witness_JobCommands :
    fcpOk jobStatusSpec (seatOf jobStatusSpec) (zeros jobStatusSpec) run (fun s _ p => decide (40 ≤ s.roomOf p.port)) = true
    ∧ fcpOk loadSpec (seatOf loadSpec) (zeros loadSpec) (jobIn .empty run) (fun s h p => s.boot.stage == 9 && !s.sec.fwPending
        && decide (beAt p.params 0 8 + beAt p.params 8 8 ≤ h.staging.2)) = true
    ∧ [0, 1].all (fun m : Byte => fcpOk startSpec (sess 2) [m] startable (fun _ h p => h.startStatus (beAt p.params 0 1) == 0)) = true
    ∧ [JobState.running, .hold, .soak].all (fun st => [0, 1].all (fun n : Byte =>
        fcpOk haltSpec (seatOf haltSpec) (List.replicate 7 0 ++ [n]) (jobIn st linked)
          (fun s h p => decide (8 ≤ s.roomOf p.port) && (beAt p.params 0 8 == 0 || decide (h.releasedSeq < beAt p.params 0 8))))) = true
    ∧ [JobState.loaded, .halted, .faultHeld].all (fun st => fcpOk unloadSpec (sess 1) [] (jobIn st run) always) = true
    ∧ [0, 1].all (fun n : Byte => fcpOk pointSpec (seatOf pointSpec) (List.replicate (pointSpec.len - 1) 0 ++ [n]) run
        (fun s h p => decide (8 ≤ s.roomOf p.port) && h.pointStatus (beAt p.params 0 1) (beAt p.params 8 8) == 0)) = true
    ∧ (run.job.suspectStop = false ∧ run.job.halt = none ∧ run.job.restored = false) := by decide +kernel

/-- A loaded job that nothing keeps from its start, whose counter 9 no one owns. -/
theorem witness_JobStates :
    let s := jobIn .loaded run
    (s.job.suspectStop = false ∧ s.job.halt = none ∧ s.job.st = .loaded ∧ s.job.restored = false)
    ∧ (imageCounters []).all (fun e => e.counter != 9 || e.owner == 0) = true := by decide +kernel

/-- Two orders of the same contributions. -/
theorem witness_SumsAreOrderFree : [1, 2, 2].Perm [2, 1, 2] := by decide

def isPlace (x : Except (Nat × FaultRec) HostPlace) (hbm : Bool) : Bool := match x with | .ok h => h.hbm == hbm | .error _ => false
/-- A read of no bytes and of 64 bytes: of HBM (region 1) and of a slice (region 0), where schedule time stands. -/
def readOk (region len : Nat) : Bool :=
  fcpOk memReadSpec (sess 1) (be16 region ++ List.replicate 6 0 ++ be64 0 ++ be32 len) still (fun s h p =>
    memParamsOk (beAt p.params 0 2) (beAt p.params 2 1) (beAt p.params 8 8) (beAt p.params 16 4) && decide (len ≤ s.roomOf p.port)
    && isPlace (h.hostPlace (sess 1) p 0x400 region 0 0 0 len) (region == 1)
    && match h.hostPlace (sess 1) p 0x400 region 0 0 0 len with
       | .ok pl => (eccScan (h.marksAt pl).1 (h.marksAt pl).2 pl.addr len).1.isNone
           && (((h.readBanks pl pl.addr len).correct pl.hbm (eccGood (h.marksAt pl).1 (h.marksAt pl).2 pl.addr len)).badTile pl 0 len).isNone
       | .error _ => false)
def writeOk (region len : Nat) : Bool :=
  fcpOk memWriteSpec (sess 1) (be16 region ++ List.replicate 6 0 ++ be64 0 ++ List.replicate len 7) still (fun _ h p =>
    memParamsOk (beAt p.params 0 2) (beAt p.params 2 1) (beAt p.params 8 8) (p.params.drop 16).length
    && isPlace (h.hostPlace (sess 1) p 0x401 region 0 1 0 len) (region == 1))

theorem witness_MemoryCommands_extents :
    (readOk 1 0 && readOk 1 64 && readOk 0 64 && writeOk 1 64 && writeOk 0 64) = true ∧ (withSession (sess 1) run).Canonical
    ∧ run.scheduleRuns = true ∧ still.scheduleRuns = false ∧ (run.region 1).check = false ∧ spWindow 64 = some (.plain, 64) := by
  refine ⟨by decide +kernel, ?_, by decide +kernel⟩
  unfold State.Canonical; decide +kernel

theorem witness_MemoryCommands_tables :
    [256, 0].all (fun n => fcpOk regionReadSpec (seatOf regionReadSpec) (be16 0 ++ be16 n) run (fun s _ p => decide (32 * n ≤ s.roomOf p.port))) = true
    ∧ [1024, 0].all (fun n => fcpOk counterReadSpec (seatOf counterReadSpec) (be16 0 ++ be16 n) run (fun s _ p => decide (4 * n ≤ s.roomOf p.port))) = true
    ∧ fcpOk replayLoadSpec (seatOf replayLoadSpec) (List.replicate 32 0) run
        (fun s h p => decide (2 ≤ s.roomOf p.port) && !(loadReplay 0 h (chunks 32 p.params)).2.1) = true := by decide +kernel

theorem witness_MemoryCommands_rings :
    let s := ringed entry0
    let t : Take := ⟨4, 1, 1, 9, 128, 4⟩
    let own := fun (h : State) => h.ringTake 4 == some t && (h.region t.region).owner == 1
    fcpOk ringWriteSpec (sess 1) ([4, 0, 0, 0] ++ be32 64 ++ be64 0 ++ List.replicate 64 1) s (fun _ h p => own h
      && decide (beAt p.params 8 8 < (h.ring 4).window + t.slots) && decide ((h.ring 4).published ≤ beAt p.params 8 8)) = true
    ∧ fcpOk ringPublishSpec (sess 1) ([4] ++ List.replicate 7 0 ++ be64 0) s (fun _ h p => own h && decide (8 ≤ h.roomOf p.port)
      && entryOk t 0 (((h.readBanks (h.ringPlace t 0) 0 128).memAt (h.ringPlace t 0)).readBytes 0 128)
      && (h.marksAt (h.ringPlace t 0)).1.isEmpty
      && !h.job.replay && (h.ring 4).published == 0) = true
    ∧ fcpOk ringStatusSpec (sess 1) (4 :: zeros { ringStatusSpec with len := ringStatusSpec.len - 1 }) s
      (fun _ h p => own h && decide (34 ≤ h.roomOf p.port)) = true := by decide +kernel

def atCkpt (st : Nat) (c : CkptState → CkptState) (s : State) : State := { s with ckpt := c { s.ckpt with st := st } }

theorem witness_CheckpointCommands :
    fcpOk ckptRequestSpec (seatOf ckptRequestSpec) (zeros ckptRequestSpec) linked (fun s h p => decide (8 ≤ s.roomOf p.port)
      && requestStatus (beAt p.params 0 8) (beAt p.params 8 1) h == 0 && !h.streamsNow (beAt p.params 0 8)) = true
    ∧ (let s := atCkpt 2 (fun c => { c with stream := 1, session := 7, data := List.replicate 128 1, read := 64, fetched := 128 }) run
       let x := sess 2
       fcpOk ckptAckSpec x (be32 1 ++ List.replicate 4 0 ++ be64 64) s (fun s _ p => beAt p.params 0 4 == 1 && !s.ckpt.buddy
         && decide (beAt p.params 8 8 ≤ s.ckpt.read) && decide (max s.ckpt.acked (beAt p.params 8 8) < s.ckpt.data.length))
       && (let t := withSession x s
           t.session t.ckpt.session == some x && t.firmwareServes && !t.ckptMaster && t.ckpt.failAt.isNone && !t.ckpt.buddy
           && decide (t.ckpt.sent < t.ckpt.data.length) && decide (t.ckpt.sent + t.chunkSize x.port ≤ t.ckpt.acked + ckptWindow)
           && decide (t.eth[x.port].occupancy + 64 + t.chunkSize x.port ≤ egressSize) && t.fetchedPart (t.chunkSize x.port))) = true
    ∧ fcpOk ckptStatusSpec (seatOf ckptStatusSpec) (zeros ckptStatusSpec) run (fun s _ p => decide (29 ≤ s.roomOf p.port)) = true
    ∧ fcpOk restoreBeginSpec (seatOf restoreBeginSpec) (zeros restoreBeginSpec) (jobIn .loaded run) (fun s _ p => decide (4 ≤ s.roomOf p.port)) = true
    ∧ (let s := atCkpt 5 (fun c => { c with restoreStream := some 3, restoreLen := 100 }) (jobIn .loaded linked)
       fcpOk restoreDataSpec (seatOf restoreDataSpec) (be32 3 ++ List.replicate 4 0 ++ be64 64 ++ List.replicate 64 1) s
         (fun s _ p => s.restoring (beAt p.params 0 4) && decide (beAt p.params 8 8 + (p.params.drop 16).length ≤ roundUp s.ckpt.restoreLen 64))
       && fcpTakes restoreEndSpec (seatOf restoreEndSpec) (be32 3 ++ zeros { restoreEndSpec with len := restoreEndSpec.len - 4 }) s
         (fun s _ p => s.restoring (beAt p.params 0 4) && decide (8 ≤ s.roomOf p.port) && s.image.isSome)) = true := by decide +kernel

theorem witness_LogCommands :
    let s : State := { run with log := { run.log with events := [note], nextSeq := 1, input := [List.replicate 48 1], inputNext := 1 } }
    (logFrom s.log.events s.log.nextSeq 0 128 = some [note] ∧ logFrom s.log.input s.log.inputNext 0 170 = some [List.replicate 48 1])
    ∧ fcpOk logReadSpec (seatOf logReadSpec) (be64 0 ++ be16 128) s always = true
    ∧ fcpOk logAckSpec (seatOf logAckSpec) (be64 0) s (fun s _ p => decide (beAt p.params 0 8 < s.log.nextSeq)) = true
    ∧ fcpOk inputReadSpec (seatOf inputReadSpec) (be64 0 ++ be16 170) s (fun s _ p => decide (48 ≤ s.roomOf p.port)) = true
    ∧ fcpOk inputAckSpec (seatOf inputAckSpec) (be64 0) s (fun s _ p => decide (beAt p.params 0 8 < s.log.inputNext)) = true
    ∧ [0, 1].all (fun l : Byte => fcpOk faultLogSpec (seatOf faultLogSpec) [l, 0] s always) = true := by decide +kernel

theorem partOf_first (b : Bytes) (h : b ≠ []) (room : Nat) (k : 8196 ≤ room) : ∃ x, partOf b 0 = some x ∧ x.length ≤ room := by
  refine ⟨be32 b.length ++ (b.drop (0 * 8192)).take 8192, ?_, ?_⟩
  · simp [partOf, h]
  · simp [be32, beBytes, leBytes]; omega

/-- The three groups of telemetry, and the first part of the health record: blocks that exist and fit packets of 9,000 bytes. -/
theorem witness_LogCommands_blocks (h : State) :
    (∀ g ∈ [0, 1, 2], (h.telemetry g).isSome = true)
    ∧ fcpOk telemetrySpec (sess 1) [0, 2] run (fun s _ p => decide (8196 ≤ s.roomOf p.port)) = true
    ∧ (∃ x, partOf h.healthBytes 0 = some x ∧ x.length ≤ 8196)
    ∧ fcpTakes healthReadSpec (sess 1) [0, 0] run (fun s _ p => decide (8196 ≤ s.roomOf p.port)) = true := by
  refine ⟨by simp [State.telemetry], by decide +kernel, partOf_first _ ?_ _ (by decide), by decide +kernel⟩
  intro e
  have : ∀ (n : Nat) (b : Bytes), (padTo n b).length = n := fun n b => by
    simp only [padTo, slice, List.drop_zero, List.length_append, List.length_take, List.length_replicate]; omega
  have k := congrArg List.length e
  simp only [State.healthBytes, Health.body, List.length_append, this, roundUp, List.length_nil] at k
  omega

def cfgWord (reg value mask seq : Nat) : Bytes := be32 (reg * 2 ^ 20) ++ List.replicate 4 0 ++ be64 value ++ be64 mask ++ be64 seq
def written (reg value mask : Nat) : CfgOp := ⟨reg, 0, value, mask, 0⟩

/-- STEP_CTL (0x071) holds a field of the barrier class, 0x0B2 one that takes effect at once. -/
theorem witness_ConfigCommands :
    fcpOk cfgReadSpec (sess 1) (be32 (0x033 * 2 ^ 20)) run (fun s h p => fieldOf (beAt p.params 0 4) == some (0x033, 0)
        && (h.regValue 0x033 0).isSome && decide ((h.readReg 0x033 0 0).length ≤ s.roomOf p.port)) = true
    ∧ [(0x071, 4), (0x0B2, 1)].all (fun r => fcpOk cfgWriteSpec (sess 1) (cfgWord r.1 r.2 r.2 0) run (fun _ h p =>
        fieldOf (beAt p.params 0 4) == some (r.1, 0) && h.writeStatus 1 (written r.1 r.2 r.2) == 0
        && (written r.1 r.2 r.2).touches .barrier == (r.1 == 0x071) && !(written r.1 r.2 r.2).rootSource
        && (r.2 &&& writableMask r.1) != 0)) = true
    ∧ fcpOk cfgSaveSpec (sess 1) [] run always = true
    ∧ fcpOk setTimeSpec (sess 1) (be64 1 ++ be32 999999999) run (fun s _ p => !s.timeLocked && decide (beAt p.params 8 4 < 1000000000))
      = true
    ∧ (let s := withSession (sess 1) run
       (s.setPtp 0 false true).timeLocked && takes setTimeSpec (sess 1) (be64 1 ++ be32 5) (s.setPtp 0 false true)
         && fitsAt setTimeSpec (sess 1) (be64 1 ++ be32 5) (s.setPtp 0 false true)) = true := by decide +kernel

def image0 : Bytes := List.replicate 64 0
def recovering : State :=
  { run with eth := Vector.replicate 2 { EthState.initial with link := 1 },
             boot := { run.boot with stage := 15, rewriting := true, sramGot := [(0, 64)] } }

theorem witness_ServiceCommands :
    fcpOk (testRunSpec []) (sess 1) [] (jobIn .empty run) always = true
    ∧ fcpTakes attestSpec (sess 1) (List.replicate 34 0) run (fun s _ p => decide (8196 ≤ s.roomOf p.port)) = true
    ∧ fcpTakes identitySpec (sess 1) [0, 0] run (fun s _ p => decide (8196 ≤ s.roomOf p.port)) = true
    ∧ fcpOk fwBeginSpec (sess 1) (be64 (12 * 2 ^ 20)) (jobIn .empty run) (fun s _ p => !s.boot.rewriting
        && beAt p.params 0 8 % 64 == 0 && decide (beAt p.params 0 8 ≤ fwMaxLength)) = true
    ∧ fcpOk fwDataSpec (sess 1) (be64 64 ++ List.replicate 64 1) { run with sec := { run.sec with fwPending := true, fwLength := 128 } }
        (fun s _ p => decide (beAt p.params 0 8 + (p.params.drop 8).length ≤ s.sec.fwLength)) = true
    ∧ [false, true].all (fun ok => fcpOk (fwCommitSpec ok) (sess 1) [] { run with sec := { run.sec with fwPending := true } } always) = true
    ∧ (recovering.alive = true ∧ recovering.boot.arrived = some [])
    ∧ fcpOk spyholeSpec (sess 1) (be32 0x4F50454E) run (fun s _ _ => !s.sec.spyholeOpen) = true := by decide +kernel

theorem eui64_lt (m : Nat) (h : m < 2 ^ 48) : eui64 m < 2 ^ 64 := by
  have k : m / 2 ^ 24 ^^^ 2 ^ 17 < 2 ^ 24 := Nat.xor_lt_two_pow (by rw [Nat.div_lt_iff_lt_mul (by decide)]; exact h) (by decide)
  unfold eui64
  generalize m / 2 ^ 24 ^^^ 2 ^ 17 = hi at k ⊢
  omega
theorem portMac_lt (q : Fin 2) : portMac q < 2 ^ 48 := by unfold portMac; exact Nat.mod_lt _ (by decide)
theorem linkLocal_eq (q : Fin 2) : linkLocal q = 0xFE80 * 2 ^ 112 + eui64 (portMac q) := by simp only [linkLocal]
theorem interface_lt (e : Nat) (h : e < 2 ^ 64) : 0xFE80 * 2 ^ 112 + e < 2 ^ 128 := by omega
theorem linkLocal_lt (q : Fin 2) : linkLocal q < 2 ^ 128 := by
  rw [linkLocal_eq]; exact interface_lt _ (eui64_lt _ (portMac_lt q))

/-- A block for the link-local address of port 0. -/
def rescue : Packet := { zero (be64 0 ++ image0) with v6 := true, target := BitVec.ofNat 128 (linkLocal 0) }

theorem witness_ServiceCommands_recovery :
    romIntake rescue recovering = true ∧ rescue.magic = 0x46454C54 ∧ rescue.session = 0 ∧ packetUnauth rescue = true ∧ rescue.version = 1
    ∧ rescue.tag = List.replicate 16 0 := by
  have h : rescue.target.toNat = linkLocal 0 := by
    unfold rescue; rw [BitVec.toNat_ofNat]; exact Nat.mod_eq_of_lt (linkLocal_lt 0)
  have k : (recovering.romServes && rescue.port == 0 && recovering.eth[(0 : Fin 2)].link != 0 && rescue.prot == .bare && rescue.vlan == 0
    && !rescue.fragmented && rescue.v6 && rescue.udpPort == 47312) = true := by decide +kernel
  have j : ∀ p : Packet, p.target.toNat = linkLocal 0 → (recovering.romServes && p.port == 0 && recovering.eth[(0 : Fin 2)].link != 0
      && p.prot == .bare && p.vlan == 0 && !p.fragmented && p.v6 && p.udpPort == 47312) = true → romIntake p recovering = true :=
    fun p e q => by unfold romIntake; rw [e, beq_self_eq_true, Bool.and_true]; exact q
  exact ⟨j _ h k, by decide +kernel⟩

/-- Reports and the certificate have a first part, which fits. -/
theorem witness_ServiceCommands_blocks (nonce : Bytes) (h : State) :
    (∃ x, partOf (h.buildReport nonce) 0 = some x ∧ x.length ≤ 8196) ∧ (∃ x, partOf State.certificate 0 = some x ∧ x.length ≤ 8196) := by
  refine ⟨partOf_first _ ?_ _ (by decide), partOf_first _ ?_ _ (by decide)⟩
  · unfold State.buildReport; simp [le32, leBytes]
  · unfold State.certificate; simp [le32, leBytes]

/-- Port 0 owns an IPv6 and an IPv4 address; no other port does. -/
def addressed : State :=
  let s := withSession (sess 1) run
  { s with cfg := { s.cfg with netCfg := Vector.replicate 2 (BitVec.ofNat 64 (0xC0000201 * 2 ^ 32 + 2 ^ 24 + 2250)) } }

theorem witness_EthernetRows :
    addressed.portServes 0 = true ∧ addressed.ownsV4 0 0xC0000201 = true ∧ addressed.ownsV4 0 0xC0000202 = false ∧ addressed.ptpOn 0 = true
    ∧ addressed.firmwareServes = true ∧ addressed.eth[(0 : Fin 2)].link ≠ 0 ∧ addressed.linkAllowed 0 = true := by decide +kernel

/-- MACsec off and on: a frame that passes; one that the port refuses, of another VLAN, and a fragment; a Sync that waits for its Follow_Up. -/
theorem witness_EthernetRows_frames :
    let on : State := { addressed with cfg := { addressed.cfg with netCfg := Vector.replicate 2 (BitVec.ofNat 64 (2 ^ 25 + 2250)) } }
    (addressed.macsecOn 0 = false ∧ addressed.frameIn ⟨0, 0, .bare, false⟩ = .packet ∧ on.frameIn ⟨0, 0, .verified, false⟩ = .packet)
    ∧ (on.macsecOn 0 = true ∧ on.portServes 0 = true ∧ Protection.bare ≠ .verified ∧ Protection.verified ≠ .bare)
    ∧ (((5 : BitVec 12) ≠ 0 ∧ (5 : BitVec 12).toNat ≠ on.vlan 0) ∧ (5 : BitVec 12).toNat ≠ addressed.vlan 0)
    ∧ (addressed.setPtp 0 true false).eth[(0 : Fin 2)].ptpWaits = true ∧ addressed.cfg.ptpDomain = run.cfg.ptpDomain := by decide +kernel

theorem owns_aux (a k : Nat) (m : Bool) : (a == k || ((0 : Nat) != 0 && m)) = (a == k) := by simp
/-- A port owns its link-local address; without a prefix it owns one address, so not both of two. -/
theorem witness_EthernetRows_v6 (s : State) (h : (s.cfg.ipv6Prefix[(0 : Fin 2)]).toNat = 0) :
    s.ownsV6 0 (linkLocal 0) = true ∧ (s.ownsV6 0 0 && s.ownsV6 0 1) = false := by
  have o : ∀ a, s.ownsV6 0 a = (a == linkLocal 0) := fun a => by unfold State.ownsV6; rw [h]; exact owns_aux _ _ _
  exact ⟨by rw [o]; exact beq_self_eq_true _, by rw [o, o]; generalize linkLocal 0 = k; cases k <;> rfl⟩
theorem witness_EthernetRows_prefix : (addressed.cfg.ipv6Prefix[(0 : Fin 2)]).toNat = 0 := by decide +kernel

/-- The external sources monitored; the root on one of them. -/
def clocked (src : Source) (s : State) : State :=
  { s with clock := { s.clock.setMon src { s.clock.mon src with enabled := true, bad := 1 } with
      rootActive := BitVec.ofNat 2 (sourceCode src), relocking := true } }

theorem witness_ClockRows :
    [Source.localRef, .link, .eth].all (fun src =>
      let s := clocked src run
      s.alive && (s.clock.mon src).enabled && !s.clock.ethFailed && decide (s.cfg.monWindow.toNat < (1000000 : Int).natAbs)
      && decide (1 ≤ (s.clock.mon src).bad) && !s.clock.clockLost && sourceCode src == s.clock.rootActive.toNat && s.clock.relocking
      && !s.compareMode src) = true := by decide +kernel

/-- The second gate of a source in compare mode: the comparison is inside the window, and the link receiver holds its lock. -/
theorem witness_ClockRows_compare :
    [Source.localRef, .link].all (fun src =>
      let s : State := clocked src { run with cfg := { run.cfg with modeLocal := true, modeLink := true, monWindow := 100 },
                                              links := { run.links with locked := true } }
      let t : State := { s with clock := s.clock.setMon src { s.clock.mon src with good := 1 } }
      t.alive && t.compareMode src && t.compareRuns && decide ((7 : Int).natAbs ≤ t.cfg.monWindow.toNat)
      && decide (1 ≤ (t.clock.mon src).good) && (src != .link || t.linkLocked)) = true := by decide +kernel

theorem witness_PowerRows :
    let s : State := { run with power := { run.power with ramping := true, pending := some (0, 1), active := 1, emptyTarget := none } }
    s.alive = true ∧ s.power.waitReplies = [] ∧ (0 : Nat) < s.power.active.toNat ∧ s.railsBusy = true ∧ run.railsBusy = false
    ∧ run.links.causes.contains (3, 2) = false ∧ 0 < retention run.power.active.toNat
    ∧ ((1839 : BitVec 16).toInt < 1840 ∧ 1840 ≤ (1840 : BitVec 16).toInt)
    ∧ (BitVec.ofNat 16 (retention run.power.active.toNat * 16)).toInt = (retention run.power.active.toNat * 16 : Nat) := by
  decide +kernel

def staged (n : Nat) (s : State) : State := { s with boot := { s.boot with stage := BitVec.ofNat 4 n } }

/-- Pins, stages and tests as the clauses of StartRows find them. -/
theorem witness_StartRows :
    ({ run with pins := { run.pins with stage := .charging } }.pins.stage = .charging ∧ run.pins.rails = true)
    ∧ [1, 2, 3, 4, 5, 6, 7, 8].all (fun n => (staged n run).inStage n && (n < 4 || (staged n run).mayEnd n)) = true
    ∧ (let s := staged 3 (clocked .localRef run)
       ({ s with clock := s.clock.setMon .localRef { s.clock.mon .localRef with ready := true } } : State).clock.localMon.ready) = true
    ∧ (staged 7 run).links.locked = false
    ∧ (let s : State := { run with image := some { image1 with windows := List.replicate 8 [⟨1000, 20, 0⟩] } }
       s.windowBegins 0 && !s.cfg.testsOff) = true
    ∧ (let s := run.modCore 0 (fun k => { k with test := { k.test with busy := true } })
       (s.core 0).test.busy && s.scheduleRuns) = true
    ∧ run.alive = true := by decide +kernel

/-- The march of slice 16 meets no error; a word that cannot be corrected ends it. -/
theorem witness_StartRows_march :
    let s := run.modCore 0 (fun k => { k with test := { k.test with busy := true, next := 16 } })
    let bad := s.modCore 0 (fun k => { k with ecc := [(5, ⟨true, true⟩)] })
    marchExtent (s.core 0).test.next = some (0, 6144 * 4096) ∧ s.marchFault 0 0 (6144 * 4096) = none
    ∧ (bad.core 0).test.busy = true ∧ bad.scheduleRuns = true ∧ bad.marchFault 0 0 (6144 * 4096) = some 5 := by decide +kernel

theorem witness_StageTwo :
    let s : State := { staged 2 run with flash := { run.flash with firmware := [] } }
    s.inStage 2 = true ∧ s.stage2Fails = true := by decide +kernel

/-- The test access port: empty and running, port open and closed, an access that is allowed and one that is not. -/
theorem witness_TestAccessRows :
    run.pins.pwrOk = true ∧ run.job.st ≠ .empty ∧ (jobIn .empty run).job.st = .empty ∧ run.sec.spyholeOpen = false
    ∧ ({ run with sec := { run.sec with spyholeOpen := true }, jtag := { run.jtag with spy := some ⟨1, 0, 0, 0, false⟩ } } : State).jtag.spy
      = some ⟨1, 0, 0, 0, false⟩ ∧ ({ run with pins := { run.pins with pwrOk := false } } : State).pins.pwrOk = false := by
  decide +kernel

end Sys2Proof.Tests
end

section
/-! SUPPORT. What a fault of a job master leaves, said once: its record in the fault log, the hold that is due, the frozen stream of a
sequencer (R249, R253), and what an issued word and the end of the hold latency leave of them. -/
namespace Sys2Proof.Machine

/-- A fault record of a sequencer freezes the stream of its unit, and no other master (R247, R249). -/
theorem freezeMaster_seqMaster (c : Fin 8) (u : Fin 7) (s : State) :
    s.freezeMaster (seqMaster c u) = s.modCore c (fun k =>
      { k with streams := k.streams.mapIdx (fun j p => if j = u.val then { p with frozen := true } else p) }) := by
  have hcls : seqMaster c u / 4096 = 0 := by unfold seqMaster masterCode; omega
  have hcore : seqMaster c u % 4096 / 8 = c.val := by unfold seqMaster masterCode; omega
  have hunit : seqMaster c u % 4096 % 8 = u.val := by unfold seqMaster masterCode; omega
  simp only [State.freezeMaster, hcls, hcore, hunit, c.isLt, dite_true, Fin.eta]

@[simp] theorem freezeMaster_faults (m : Nat) (s : State) : (s.freezeMaster m).faults = s.faults := by
  obtain ⟨k, a, b, h⟩ := freezeMaster_only m s
  rw [h]

@[simp] theorem freezeMaster_job (m : Nat) (s : State) : (s.freezeMaster m).job = s.job := by
  obtain ⟨k, a, b, h⟩ := freezeMaster_only m s
  rw [h]

@[simp] theorem countUncorrected_faults_job (hbm : Bool) (s : State) : (s.countUncorrected hbm).faults.job = s.faults.job := by
  cases hbm <;> rfl

@[simp] theorem countUncorrected_job (hbm : Bool) (s : State) : (s.countUncorrected hbm).job = s.job := rfl

@[simp] theorem raiseFault_counter (r : FaultRec) (s : State) (c : Nat) : (s.raiseFault r).counter c = s.counter c := by
  obtain ⟨k, a, b, f, st, j, h, -⟩ := raiseFault_only r s
  rw [h]; rfl

/-- Record 0 of an empty fault log is the fault that comes, with its flags and counts (R253). -/
theorem raiseFault_faults_of_empty {s : State} (h : s.faults.job = []) (r : FaultRec) :
    (s.raiseFault r).faults.job = [s.stampRecord r] := by
  simp only [State.raiseFault, freezeMaster_faults]
  split <;> simp [h, insertFault]

/-- A fault while the schedule runs makes the hold due from this ac, unless one is due already (R249). -/
theorem raiseFault_faultAt {s : State} (h : s.scheduleRuns = true) (r : FaultRec) :
    (s.raiseFault r).job.faultAt = some (s.job.faultAt.getD s.now) := by
  have hst : s.job.st = .running := by simp_all [State.scheduleRuns]
  simp [State.raiseFault, apply_ite State.job, hst]

/-- The stream of a sequencer that faults is frozen (R249). -/
theorem raiseFault_freezes_stream {r : FaultRec} {c : Fin 8} {u : Fin 7} (h : r.master = seqMaster c u) (s : State) :
    (((s.raiseFault r).core c).streams[u]).frozen = true := by
  have hstamp : (s.stampRecord r).master = seqMaster c u := h
  simp only [State.raiseFault, hstamp, freezeMaster_seqMaster]
  simp [State.core, State.modCore, State.setCore]

/-- An issued word leaves every stream frozen or not as it was. -/
@[simp] theorem advance_frozen (s : State) (i : Issue) (n : Nat) (c : Fin 8) (u : Fin 7) :
    (((s.advance i n).core c).streams[u]).frozen = ((s.core c).streams[u]).frozen := by
  by_cases hc : i.core = c
  · subst hc
    by_cases hu : i.unit = u
    · subst hu; simp [State.advance]
    · simp [State.advance, Fin.val_ne_of_ne hu]
  · simp [State.advance, hc]

@[simp] theorem advance_counter (s : State) (i : Issue) (n c : Nat) : (s.advance i n).counter c = s.counter c := rfl

@[simp] theorem setJobState_st (st : JobState) (k : Nat) (s : State) : (s.setJobState st k).job.st = st := by
  obtain ⟨sel, e, f, l, h⟩ := setJobState_only st k s
  rw [h]

/-- The hold latency of a fault in ac f ends at f + 8 (R249). -/
theorem execHoldLatencyEnd_of_due {s : State} {f : Nat} (h : s.job.faultAt = some f) (hdue : f + 8 ≤ s.now) :
    execHoldLatencyEnd s = .next s.holdFault := by
  have : ¬ s.now < f + 8 := Nat.not_lt.mpr hdue
  simp [execHoldLatencyEnd, h, this]

theorem holdFault_st (s : State) : s.holdFault.job.st = .faultHeld := setJobState_st _ _ _

/-- The record of an EXPECT that finds another value: a schedule fault of kind expect mismatch of the issuing core's sequencer, with
the value expected and the value found (R75, R253). -/
def expectFault (i : Issue) (s : State) : FaultRec :=
  faultRec 7 (seqMaster i.core i.unit) 0xFFFF 6 0 0 (s.headIndex i) 0x00A 0 (wf i.head 32 32) (s.counter (wf i.head 0 16))

/-- An EXPECT that finds another value issues as its fault (R66, R75). -/
theorem exec_expect_mismatch {i : Issue} {s : State} (hissue : s.canIssue i = true) (hform : counterWord 0x00A i = true)
    (hne : s.counter (wf i.head 0 16) ≠ wf i.head 32 32) :
    exec (.expect i) s = .next ((s.raiseFault (expectFault i s)).advance i 0) := by
  change worded (counterWord 0x00A i) (issueCommon i 0 (expectCheck i) s) = _
  rw [hform, worded_true, issueCommon, if_pos hissue, expectCheck, if_neg hne, expectFault]

end Sys2Proof.Machine
end

section
/-! The statements on schedules and images, settled. -/
namespace Sys2Proof.Machine

/-- Settles O8: the record, the hold and the frozen stream are those of any fault of a sequencer while the schedule runs, and the word
that issues leaves them. -/
theorem expectMismatch : Obligations.ExpectMismatch := by
  intro i s hissue hform hne hempty hnone
  have hruns : s.scheduleRuns = true := (Bool.and_eq_true_iff.mp hissue).1
  refine ⟨⟨_, s.stampRecord (expectFault i s), exec_expect_mismatch hissue hform hne, ?log, ?due,
    rfl, rfl, rfl, rfl, rfl, rfl, rfl, ?frozen, ?counters⟩, fun u hu hlate => ⟨_, execHoldLatencyEnd_of_due hu hlate, holdFault_st u⟩⟩
  case log => simpa using raiseFault_faults_of_empty hempty _
  case due => simpa [hnone] using raiseFault_faultAt hruns (expectFault i s)
  case frozen => simpa only [advance_frozen] using raiseFault_freezes_stream rfl s
  case counters => simp

end Sys2Proof.Machine
end

section
/-! SUPPORT. The three windows of a slice (R228), said once: which window an address lies in and at which offset, what one byte of a write
through a window becomes, and what such a write leaves. -/
namespace Sys2Proof.Machine

/-- What a byte becomes when a byte of data is written onto it through a window (R228). -/
def WriteOp.merge : WriteOp → Byte → Byte → Byte
  | .plain, _, d => d
  | .set, x, d => x ||| d
  | .clr, x, d => x &&& ~~~d

/-- A write through a window stores the data merged with the bytes in place. -/
theorem spWrite_eq_writeBytes (op : WriteOp) (m : Memory) (a : Nat) (data : Bytes) :
    spWrite op m a data = m.writeBytes a (List.zipWith op.merge (m.readBytes a data.length) data) := by
  cases op with
  | plain =>
    have hdata : List.zipWith WriteOp.plain.merge (m.readBytes a data.length) data = data := by
      apply List.ext_getElem <;> simp [WriteOp.merge]
    rw [hdata]; rfl
  | set => rfl
  | clr => rfl

theorem read_spWrite (op : WriteOp) {m : Memory} (hm : m.wf = true) (a : Nat) (data : Bytes) {k : Nat} (hk : k < data.length) :
    (spWrite op m a data).read (a + k) = op.merge (m.read (a + k)) data[k] := by
  simp [spWrite_eq_writeBytes, Memory.read_writeBytes hm, Memory.readBytes, hk]

theorem read_spWrite_ne (op : WriteOp) (m : Memory) (a : Nat) (data : Bytes) {x : Nat} (hx : x < a ∨ a + data.length ≤ x) :
    (spWrite op m a data).read x = m.read x := by
  rw [spWrite_eq_writeBytes]
  exact Memory.read_writeBytes_ne m a _ x (by simpa using hx)

theorem spWindow_plain {o : Nat} (ho : o < sliceSize) : spWindow o = some (.plain, o) := if_pos ho

theorem spWindow_set {o : Nat} (ho : o < sliceSize) : spWindow (0x10000000 + o) = some (.set, o) := by
  unfold sliceSize at ho
  rw [spWindow, if_neg (by omega), if_pos (by omega), Nat.add_sub_cancel_left]

theorem spWindow_clr {o : Nat} (ho : o < sliceSize) : spWindow (0x20000000 + o) = some (.clr, o) := by
  unfold sliceSize at ho
  rw [spWindow, if_neg (by omega), if_neg (by omega), if_pos (by omega), Nat.add_sub_cancel_left]

/-- The three windows are all there is. -/
theorem spWindow_eq_none {a : Nat}
    (ha : ∀ w o : Nat, (w = 0 ∨ w = 0x10000000 ∨ w = 0x20000000) → o < sliceSize → a ≠ w + o) : spWindow a = none := by
  have hplain := ha 0 a (.inl rfl)
  have hset := ha 0x10000000 (a - 0x10000000) (.inr (.inl rfl))
  have hclr := ha 0x20000000 (a - 0x20000000) (.inr (.inr rfl))
  unfold sliceSize at hplain hset hclr
  rw [spWindow, if_neg (by omega), if_neg (by omega), if_neg (by omega)]

/-- The offset at which a window writes is the offset of its address. -/
theorem snd_of_spWindow {a : Nat} {p : WriteOp × Nat} (h : spWindow a = some p) : p.2 = spOffset a := by
  unfold spWindow at h
  unfold spOffset
  split at h
  · cases h; dsimp only; omega
  split at h
  · cases h; dsimp only; omega
  split at h
  · cases h; dsimp only; omega
  · cases h

/-- Every write goes to the offset of its address, in whatever window the address lies. -/
theorem spTarget_snd (op : WriteOp) (a : Nat) : (spTarget op a).2 = spOffset a := by
  unfold spTarget
  split
  next h => exact snd_of_spWindow h
  next => rfl

/-- The window bases are multiples of 0x1000_0000, and a slice is smaller. -/
theorem spOffset_window {w o : Nat} (hw : w = 0 ∨ w = 0x10000000 ∨ w = 0x20000000) (ho : o ≤ sliceSize) : spOffset (w + o) = o := by
  unfold sliceSize at ho
  unfold spOffset
  omega

/-- The window bases are multiples of 4,096, the span of a row of all 64 banks. -/
theorem bankOf_window {w : Nat} (o : Nat) (hw : w = 0 ∨ w = 0x10000000 ∨ w = 0x20000000) : bankOf (w + o) = bankOf o := by
  unfold bankOf
  omega

/-- A plain write at an address of a window merges its data as that window does. -/
theorem read_spStore_of_spWindow {a o : Nat} {op : WriteOp} (ha : spWindow a = some (op, o)) {m : Memory} (hm : m.wf = true)
    (data : Bytes) {k : Nat} (hk : k < data.length) :
    (spStore .plain m a data).read (o + k) = op.merge (m.read (o + k)) data[k] := by
  simpa only [spStore, spTarget, ha] using read_spWrite op hm o data hk

/-- A write leaves every byte outside its extent, whatever its operation and its window. -/
theorem read_spStore_ne (op : WriteOp) (m : Memory) (a : Nat) (data : Bytes) {x : Nat}
    (hx : x < spOffset a ∨ spOffset a + data.length ≤ x) : (spStore op m a data).read x = m.read x :=
  read_spWrite_ne _ m _ data (by rwa [spTarget_snd])

/-- An access at an address of no window is out of region (R228). -/
theorem checkSlice_of_spWindow_none {a : Nat} (ha : spWindow a = none) (s : State) (cls : Nat) (c : Fin 8) (right len : Nat) :
    s.checkSlice cls c right a len = .fail 1 0xFFFF := by
  rw [State.checkSlice, ha]

end Sys2Proof.Machine
end

section
/-! The statement on memory and regions, settled. -/
namespace Sys2Proof.Machine

/-- Settles O14: what a write does to a byte is the merge of its address's window, at the offset that all windows share; the offset also
says what a read returns, and the bases keep the bank. -/
theorem windows : Obligations.Windows := by
  refine ⟨fun m o data hm hfit => ⟨?plain, ?set, ?clr, ?frame⟩, fun m w o n hw ho => ⟨?reads, bankOf_window o hw, ?row⟩, ?outside⟩
  case plain => exact fun k hk => read_spStore_of_spWindow (spWindow_plain (by omega)) hm data hk
  case set => exact fun k hk => read_spStore_of_spWindow (spWindow_set (by omega)) hm data hk
  case clr => exact fun k hk => read_spStore_of_spWindow (spWindow_clr (by omega)) hm data hk
  case frame =>
    intro w a hw ha
    apply read_spStore_ne
    rwa [spOffset_window hw (by omega)]
  case reads => rw [Memory.viaBytes, spOffset_window hw (Nat.le_of_lt ho)]
  case row => unfold sliceSize at ho; omega
  case outside => exact fun s cls right a len c ha => checkSlice_of_spWindow_none (spWindow_eq_none ha) s cls c right len

end Sys2Proof.Machine
end

section
/-! SUPPORT. What a packet that its port takes at once meets before its session: every session row is received in the one way, and MAGIC,
session, tag and version are checked in turn (R298, R305, R307). -/
namespace Sys2Proof.Machine

/-- The command of every row that a session carries is the arrival of its packet under the row's own meaning (R312). -/
theorem exec_sessionRow {r : (Packet → Instr) × Spec} (hr : r ∈ sessionRows) (p : Packet) (s : State) :
    exec (r.1 p) s = .next (receive r.2 p s) := by
  unfold sessionRows at hr
  repeat' (rcases List.mem_cons.mp hr with rfl | hr; · rfl)
  cases hr

/-- A packet is dropped whose MAGIC is wrong, or that no session of the module has signed (R307). -/
theorem receive_dropsUnsigned {d : Spec} {p : Packet} {s : State} (ht : TakenAtOnce p s)
    (h : p.magic ≠ 0x46454C54 ∨
      ∀ x, s.session p.session.toNat = some x → (hmac x.key (packetBody p d.opcode)).take 16 ≠ p.tag) :
    receive d p s = s.dropTag p.port := by
  unfold receive
  simp only [ht.arrives]
  rw [arrive_taken _ ht]
  obtain hm | hunsigned := h
  · exact if_pos (bne_iff_ne.mpr hm)
  · cases hx : s.session p.session.toNat with
    | none => simp only [ite_self]
    | some x =>
      have htag : ((hmac x.key (packetBody p d.opcode)).take 16 != p.tag) = true := bne_iff_ne.mpr (hunsigned x hx)
      simp only [htag, Bool.or_true, if_true, ite_self]

/-- The version is checked before the session's own state and its window, so that nothing runs (R307). -/
theorem openPacket_otherVersion {p : Packet} (hv : p.version ≠ 1) (d : Spec) (x : Session) (s : State) :
    openPacket d x p s = (s.heard x p).reply p d.opcode (some x.key) 5 [] := by
  unfold openPacket
  exact if_pos (bne_iff_ne.mpr hv)

end Sys2Proof.Machine
end

section
/-! The statement on the command protocol, settled. -/
namespace Sys2Proof.Machine

/-- Settles O39: every session row is received alike, and each of MAGIC, session, tag and version decides before the row's meaning is
asked for. -/
theorem badPacketsDrop : Obligations.BadPacketsDrop := by
  intro r hr p s ht
  rw [exec_sessionRow hr]
  refine ⟨fun hm => ?magic, fun hnone => ?session, fun x hx htag => ?tag, fun x hx hst hm hauth htag hv => ?version⟩
  case magic => rw [receive_dropsUnsigned ht (.inl hm)]
  case session => rw [receive_dropsUnsigned ht (.inr (by simp [hnone]))]
  case tag => rw [receive_dropsUnsigned ht (.inr (by simpa [hx] using htag))]
  case version => rw [receive_known hx ht hm hst hauth htag, openPacket_otherVersion hv]

end Sys2Proof.Machine
end

section
/-! SUPPORT. How the branches of an answer and the carriers of a packet pass on that no fuse changes. The frames of the shared operations
say it of what they do. -/
namespace Sys2Proof.Machine

/-- Where a command completes, every fuse stands as before. -/
def KeepsFuses (s : State) (o : Out) : Prop := ∀ t, o = .next t → t.fuses = s.fuses

@[simp] theorem keepsFuses_next (s t : State) : KeepsFuses s (.next t) ↔ t.fuses = s.fuses :=
  ⟨fun h => h t rfl, fun h _ e => by cases e; exact h⟩

@[simp] theorem keepsFuses_ite (c : Prop) [Decidable c] (s : State) (a b : Out) :
    KeepsFuses s (if c then a else b) ↔ if c then KeepsFuses s a else KeepsFuses s b := by split <;> rfl

/-- The words of another row are refused, and a refusal has no next state. -/
theorem KeepsFuses.worded {ok : Bool} {s t : State} (h : t.fuses = s.fuses) : KeepsFuses s (worded ok t) := by
  cases ok with
  | false => exact fun _ e => nomatch e
  | true => exact (keepsFuses_next s t).mpr h

/-! ### Packets (R298, R306) -/

/-- The meaning of a row of R312 leaves every fuse as it finds it. -/
def Spec.KeepsFuses (d : Spec) : Prop := ∀ x p s, (d.run x p s).state.fuses = s.fuses

@[simp] theorem Reply.ok_state (b : Bytes) (s : State) : (Reply.ok b s).state = s := rfl
@[simp] theorem Reply.refuse_state (n : Nat) (s : State) : (Reply.refuse n s).state = s := rfl
@[simp] theorem ite_state (c : Prop) [Decidable c] (a b : Reply) : (if c then a else b).state = if c then a.state else b.state := by
  split <;> rfl

/-- Sessions, ports, waiting replies and streams hold no fuse. -/
theorem carriersKeep_fuses (P : FuseState → Prop) : CarriersKeep (fun s => P s.fuses) where
  fcp _ _ h := h
  eth _ _ h := h
  power _ _ h := h
  freeze _ _ _ _ _ h := by simpa using h
  stream _ _ h := by simpa using h

theorem receive_keepsFuses {d : Spec} (hd : d.KeepsFuses) (p : Packet) (s : State) : KeepsFuses s (.next (receive d p s)) :=
  (keepsFuses_next s _).mpr ((carriersKeep_fuses (· = s.fuses)).receive (fun x p u hu => (hd x p u).trans hu) p rfl)

/-- A packet that session 0 may carry is received in a state whose pins have been read anew. -/
theorem receiveBoth_keepsFuses {d : Spec} (hd : d.KeepsFuses) (ok : State → Bool) (p : Packet) {s u : State} (hu : u.fuses = s.fuses) :
    KeepsFuses s (.next (receiveBoth d ok p u)) :=
  (keepsFuses_next s _).mpr ((carriersKeep_fuses (· = s.fuses)).receiveBoth (fun x p u hu => (hd x p u).trans hu) p hu)

theorem arrive_fuses (d : Spec) (p : Packet) {go : State → State} (hgo : ∀ u, (go u).fuses = u.fuses) (s : State) :
    (arrive d p go s).fuses = s.fuses :=
  (carriersKeep_fuses (· = s.fuses)).arrive (fun u hu => (hgo u).trans hu) rfl

/-! ### Streams of HBM commands, frames -/

theorem hbmPlain_keepsFuses (cmd : Nat) (h : HbmIssue) (s : State) : KeepsFuses s (hbmPlain cmd h s) := .worded (by simp)

theorem hbmBanked_keepsFuses (cmd : Nat) (h : HbmIssue) {f : Bank → State → State} (hf : ∀ b t, (f b t).fuses = t.fuses) (s : State) :
    KeepsFuses s (hbmBanked cmd h f s) := .worded (by simp [hf])

theorem frameTo_keepsFuses (f : Frame) {go : State → State} (hgo : ∀ u, (go u).fuses = u.fuses) (s : State) :
    KeepsFuses s (.next (s.frameTo f go)) := by
  rw [keepsFuses_next]
  unfold State.frameTo
  split
  · rfl
  · split <;> simp [hgo]

end Sys2Proof.Machine
end

section
/-! SUPPORT. The meanings of the packets' rows: no row but OPEN_SPYHOLE changes a fuse (R312, R401). -/
namespace Sys2Proof.Machine

theorem hostRead_fuses (x : Session) (p : Packet) (h : HostPlace) (off len : Nat) (s : State) :
    (s.hostRead x p h off len).state.fuses = s.fuses := by
  unfold State.hostRead
  dsimp only
  split
  · simp
  · split <;> simp

@[simp] theorem replyPart_fuses (b : Bytes) (n : Nat) (s : State) : (replyPart b n s).state.fuses = s.fuses := by
  unfold replyPart
  split <;> rfl

theorem openSession_fuses (p : Packet) (s : State) : (openSession p s).state.fuses = s.fuses := by
  unfold openSession
  dsimp only
  (repeat' split) <;> simp

theorem thawSpec_keepsFuses : thawSpec.KeepsFuses := by
  intro x p s
  simp only [thawSpec]
  split <;> simp

theorem ringWriteSpec_keepsFuses : ringWriteSpec.KeepsFuses := by
  intro x p s
  simp only [ringWriteSpec]
  split <;> simp

theorem ringPublishSpec_keepsFuses : ringPublishSpec.KeepsFuses := by
  intro x p s
  simp only [ringPublishSpec]
  (repeat' split) <;> simp

theorem ringStatusSpec_keepsFuses : ringStatusSpec.KeepsFuses := by
  intro x p s
  simp only [ringStatusSpec]
  split <;> simp

theorem memReadSpec_keepsFuses : memReadSpec.KeepsFuses := by
  intro x p s
  simp only [memReadSpec]
  split
  · rfl
  · split
    · rfl
    · exact hostRead_fuses ..

theorem memWriteSpec_keepsFuses : memWriteSpec.KeepsFuses := by
  intro x p s
  simp only [memWriteSpec]
  split
  · rfl
  · split <;> simp

theorem restoreEndSpec_keepsFuses : restoreEndSpec.KeepsFuses := by
  intro x p s
  simp only [restoreEndSpec]
  (repeat' split) <;> simp

theorem logReadSpec_keepsFuses : logReadSpec.KeepsFuses := by
  intro x p s
  simp only [logReadSpec]
  split
  · rfl
  · split <;> rfl

theorem inputReadSpec_keepsFuses : inputReadSpec.KeepsFuses := by
  intro x p s
  simp only [inputReadSpec]
  split
  · rfl
  · split <;> rfl

theorem telemetrySpec_keepsFuses : telemetrySpec.KeepsFuses := by
  intro x p s
  simp only [telemetrySpec]
  split <;> rfl

theorem cfgReadSpec_keepsFuses : cfgReadSpec.KeepsFuses := by
  intro x p s
  simp only [cfgReadSpec]
  split
  · rfl
  · split <;> rfl

theorem cfgWriteSpec_keepsFuses : cfgWriteSpec.KeepsFuses := by
  intro x p s
  simp only [cfgWriteSpec]
  split <;> simp

/-- Of the rows that a session carries, those not settled above only choose between replies. -/
theorem sessionSpec_keepsFuses {d : Spec} (h : d ∈ sessionRows.map Prod.snd) : d.KeepsFuses := by
  revert d
  simp only [sessionRows, List.map_cons, List.map_nil, List.forall_mem_cons, thawSpec_keepsFuses, ringWriteSpec_keepsFuses,
    ringPublishSpec_keepsFuses, ringStatusSpec_keepsFuses, memReadSpec_keepsFuses, memWriteSpec_keepsFuses, restoreEndSpec_keepsFuses,
    logReadSpec_keepsFuses, inputReadSpec_keepsFuses, telemetrySpec_keepsFuses, cfgReadSpec_keepsFuses, cfgWriteSpec_keepsFuses,
    true_and]
  simp [Spec.KeepsFuses, nopSpec, closeSpec, subscribeSpec, listSpec, seatKeySpec, unclaimSpec, jobStatusSpec, loadSpec, startSpec,
    haltSpec, unloadSpec, pointSpec, replayLoadSpec, regionReadSpec, counterReadSpec, ckptRequestSpec, ckptAckSpec, ckptStatusSpec,
    restoreBeginSpec, restoreDataSpec, logAckSpec, inputAckSpec, faultLogSpec, cfgSaveSpec, setTimeSpec, macsecSpec, healthReadSpec,
    fwBeginSpec, fwDataSpec]

theorem operatorKeySpec_keepsFuses : operatorKeySpec.KeepsFuses := fun x p s => by simp [operatorKeySpec]
theorem attestSpec_keepsFuses : attestSpec.KeepsFuses := fun x p s => by simp [attestSpec]
theorem identitySpec_keepsFuses : identitySpec.KeepsFuses := fun x p s => by simp [identitySpec]
theorem testRunSpec_keepsFuses (failed : List (Fin 8 × Fin 40)) : (testRunSpec failed).KeepsFuses := fun x p s => by simp [testRunSpec]
theorem fwCommitSpec_keepsFuses (ok : Bool) : (fwCommitSpec ok).KeepsFuses := fun x p s => by simp [fwCommitSpec]

end Sys2Proof.Machine
end

section
/-! SUPPORT. The commands whose meaning turns on what the state holds: none of them changes a fuse. -/
namespace Sys2Proof.Machine

/-! ### Barriers, holds, soaks (R79, R83, R249, R276 to R285) -/

theorem execBarrierDue_keepsFuses (s : State) : KeepsFuses s (execBarrierDue s) := by
  simp only [execBarrierDue]
  split
  · simp
  · split <;> simp

theorem execBarrierRelease_keepsFuses (s : State) : KeepsFuses s (execBarrierRelease s) := by
  unfold execBarrierRelease
  split <;> simp

theorem execHoldNotice_keepsFuses (s : State) : KeepsFuses s (execHoldNotice s) := by
  unfold execHoldNotice
  split <;> simp

theorem execHoldLatencyEnd_keepsFuses (s : State) : KeepsFuses s (execHoldLatencyEnd s) := by
  unfold execHoldLatencyEnd
  split <;> simp

theorem execSoakToken_keepsFuses (p : Fin 16) (grid : BitVec 2) (s : State) : KeepsFuses s (execSoakToken p grid s) := by
  simp only [execSoakToken]
  split
  · simp
  · split <;> simp

theorem execSoakStop_keepsFuses (s : State) : KeepsFuses s (execSoakStop s) := by
  unfold execSoakStop
  split <;> simp

theorem execSoakRelease_keepsFuses (s : State) : KeepsFuses s (execSoakRelease s) := by
  unfold execSoakRelease
  split <;> simp

/-! ### HBM bursts, links, checkpoint chunks (R237, R257 to R274, R316) -/

theorem execRd_keepsFuses (h : HbmIssue) (sev : Severity) (s : State) : KeepsFuses s (execRd h sev s) := by
  refine hbmBanked_keepsFuses 2 h (fun b t => ?_) s
  dsimp only
  split <;> simp

theorem execWr_keepsFuses (h : HbmIssue) (s : State) : KeepsFuses s (execWr h s) := by
  refine hbmBanked_keepsFuses 3 h (fun b t => ?_) s
  dsimp only
  split
  · simp
  · split <;> simp

theorem execNak_keepsFuses (p : Fin 16) (slot : BitVec 15) (s : State) : KeepsFuses s (execNak p slot s) := by
  unfold execNak
  split <;> simp

theorem execFlitDelivery_keepsFuses (p : Fin 16) (s : State) : KeepsFuses s (execFlitDelivery p s) := by
  simp only [execFlitDelivery]
  split
  · simp
  · split <;> simp

theorem execFlitReceive_keepsFuses (p : Fin 16) (f : Flit) (damaged : Bool) (s : State) :
    KeepsFuses s (execFlitReceive p f damaged s) := by
  simp only [execFlitReceive]
  (repeat' split) <;> simp

theorem execDeadlineMiss_keepsFuses (p : Fin 16) (s : State) : KeepsFuses s (execDeadlineMiss p s) := by
  simp only [execDeadlineMiss]
  split
  · simp
  · split <;> simp

theorem execLaneRemap_keepsFuses (p : Fin 16) (s : State) : KeepsFuses s (execLaneRemap p s) := by
  unfold execLaneRemap
  split <;> simp

theorem execCkptChunk_keepsFuses (s : State) : KeepsFuses s (execCkptChunk s) := by
  simp only [execCkptChunk]
  split
  · simp
  next x _ =>
    have hread := (readPart_kept (s.chunkSize x.port) s).2
    split
    · simp
    · split <;> simp_all

/-! ### Sessions, recovery, tests, rails, link measurements, the spy-hole's data (R282, R303 to R309, R341, R361, R391, R402) -/

theorem execSessionAuth_keepsFuses (p : Packet) (s : State) : KeepsFuses s (execSessionAuth p s) := by
  have hrefuse : authSpec.KeepsFuses := fun _ _ _ => rfl
  unfold execSessionAuth
  split
  · split
    · refine (keepsFuses_next s _).mpr (arrive_fuses authSpec p (fun u => ?_) s)
      split <;> simp
    · exact receive_keepsFuses hrefuse p s
  · exact receive_keepsFuses hrefuse p s

theorem execSessionIdle_keepsFuses (session : U16) (s : State) : KeepsFuses s (execSessionIdle session s) := by
  unfold execSessionIdle
  split <;> simp

theorem execPendingSessionExpiry_keepsFuses (session : U16) (s : State) : KeepsFuses s (execPendingSessionExpiry session s) := by
  unfold execPendingSessionExpiry
  split <;> simp

theorem execBadTag_keepsFuses (p : Packet) (s : State) : KeepsFuses s (execBadTag p s) := by
  unfold execBadTag
  split <;> simp

theorem execBadOpcode_keepsFuses (p : Packet) (opcode : U16) (s : State) : KeepsFuses s (execBadOpcode p opcode s) := by
  unfold execBadOpcode
  split
  · simp
  · exact receive_keepsFuses (fun _ _ _ => rfl) p s

theorem execRecoveryLoad_keepsFuses (p : Packet) (s : State) : KeepsFuses s (execRecoveryLoad p s) := by
  unfold execRecoveryLoad
  split
  · simp
  · split <;> simp

theorem execRecoveryRewriteDone_keepsFuses (s : State) : KeepsFuses s (execRecoveryRewriteDone s) := by
  unfold execRecoveryRewriteDone
  split
  · simp
  · split <;> simp

theorem execTestSliceDone_keepsFuses (core : Fin 8) (pass : Bool) (detail : U32) (ecc : Bool) (s : State) :
    KeepsFuses s (execTestSliceDone core pass detail ecc s) := by
  simp only [execTestSliceDone]
  (repeat' split) <;> simp

theorem execRailSettled_keepsFuses (s : State) : KeepsFuses s (execRailSettled s) := by
  simp only [execRailSettled, keepsFuses_ite, keepsFuses_next]
  split
  · trivial
  · rw [foldl_fuses _ (fun u p => by split <;> simp)]
    (repeat' split) <;> simp

theorem execChannelMeasurement_keepsFuses (ports : List PortMeasure) (parentWall : U64) (s : State) :
    KeepsFuses s (execChannelMeasurement ports parentWall s) := by
  simp only [execChannelMeasurement, keepsFuses_ite, keepsFuses_next]
  split
  · trivial
  · exact foldl_fuses _ (fun u p => by split <;> simp) _ _

theorem execSpyData_keepsFuses (s : State) : KeepsFuses s (execSpyData s) := by
  simp only [execSpyData]
  (repeat' split) <;> simp

end Sys2Proof.Machine
end

section
/-! SUPPORT. What a command and a step can do to the fuses, said once: READY raises the SVN fuses, the opening of the spy-hole port blows
IDENTITY_KILL, and nothing else changes a fuse (R393, R401). -/
namespace Sys2Proof.Machine

theorem exec_keepsFuses {c : Instr} (hready : ∀ ms, c ≠ .ready ms) (hopen : ∀ p debugEn, c ≠ .openSpyhole p debugEn) (s : State) :
    KeepsFuses s (exec c s) := by
  cases c with
  | ready ms => exact absurd rfl (hready ms)
  | openSpyhole p debugEn => exact absurd rfl (hopen p debugEn)
  -- The timed streams: a word issues as its plan, and an instruction in progress works on memory only.
  | nop i | delay i => exact .worded (issueCommon_kept _ _ _ _ (fun _ => ⟨rfl, rfl⟩)).2
  | signal i | set i => exact .worded (issueCommon_kept _ _ _ _ (counterChange_kept _ _)).2
  | expect i => exact .worded (issueCommon_kept _ _ _ _ (expectCheck_kept _)).2
  | mmul i | mmulPack i => exact .worded (issueMatrix_kept ..).2
  | vchain i | softmax i | norm i | accsum i | rsum i | rmean i | rmax i | rmin i | rargmax i | rargmin i | rcount i | rsumf i | rprod i
  | rlse i | scan i | dscan i | gather i | scatter i | compact i | unorm i | gstore i | uclip i | update i | uclose i | stepcalc i
  | gnorm i | recast i | driftCheck i | ledger i | tables i | hash i | move i | fill i | put i | get i | addI48 i | setBits i | clrBits i
  | remoteSignal i => exact .worded (issueUnit_kept ..).2
  -- The HBM streams.
  | hbmNop h | hbmDelay h => exact hbmPlain_keepsFuses _ h s
  | act h | pre h => exact hbmBanked_keepsFuses _ h (fun b t => (setBank_kept ..).2) s
  | refpb h => exact .worded (by simp)
  | rd h sev => exact execRd_keepsFuses h sev s
  | wr h => exact execWr_keepsFuses h s
  -- Packets: the meaning of the row, and the way that every packet takes.
  | fcpNop p | sessionClose p | sessionThaw p | subscribe p | sessionList p | setSeatKey p | unclaim p | jobStatus p | loadImage p
  | startAtBarrier p | haltAtBarrier p | unload p | setOpPoint p | ringWrite p | ringPublish p | ringStatus p | replayLoad p | memRead p
  | memWrite p | regionRead p | counterRead p | ckptRequest p | ckptAck p | ckptStatus p | restoreBegin p | restoreData p | restoreEnd p
  | logRead p | logAck p | inputLogRead p | inputLogAck p | telemetryRead p | faultLogRead p | cfgRead p | cfgWrite p | rootSrcWrite p
  | logClear p | declare p | policyClippedClear p | cfgSave p | setTime p | macsecKey p | healthRead p | fwBegin p | fwData p =>
    exact receive_keepsFuses (sessionSpec_keepsFuses (by simp [sessionRows])) p s
  | testRun p failed => exact receive_keepsFuses (testRunSpec_keepsFuses failed) p s
  | fwCommit p readBackOk => exact receive_keepsFuses (fwCommitSpec_keepsFuses readBackOk) p s
  | sessionOpen p => exact receiveBoth_keepsFuses (fun _ => openSession_fuses) _ p rfl
  | setOperatorKey p claimEn => exact receiveBoth_keepsFuses operatorKeySpec_keepsFuses _ p rfl
  | attest p claimEn => exact receiveBoth_keepsFuses attestSpec_keepsFuses _ p rfl
  | identityRead p claimEn => exact receiveBoth_keepsFuses identitySpec_keepsFuses _ p rfl
  | sessionAuth p => exact execSessionAuth_keepsFuses p s
  | badTag p => exact execBadTag_keepsFuses p s
  | badOpcode p opcode => exact execBadOpcode_keepsFuses p opcode s
  | recoveryLoad p => exact execRecoveryLoad_keepsFuses p s
  -- Frames, and the events of sessions and of the Ethernet ports.
  | neighbourDiscovery f target src | arp f target src | echo f v6 target src data | ptpMessage f m locked taiNs =>
    exact frameTo_keepsFuses f (fun u => by simp) s
  | sessionIdle session => exact execSessionIdle_keepsFuses session s
  | pendingSessionExpiry session => exact execPendingSessionExpiry_keepsFuses session s
  | notice | ingressDrop port | pauseFrame port | ethLinkUp port | ethLinkDown port =>
    simp [exec, execNotice, execIngressDrop, execPauseFrame, execEthLinkUp, execEthLinkDown]
  -- Barriers, holds, soaks.
  | barrierDue => exact execBarrierDue_keepsFuses s
  | barrierRelease => exact execBarrierRelease_keepsFuses s
  | holdNotice => exact execHoldNotice_keepsFuses s
  | holdLatencyEnd => exact execHoldLatencyEnd_keepsFuses s
  | soakToken port grid => exact execSoakToken_keepsFuses port grid s
  | soakStop => exact execSoakStop_keepsFuses s
  | soakRelease => exact execSoakRelease_keepsFuses s
  | barrierToken port grid | restartToken port grid => simp [exec, execBarrierToken, execRestartToken]
  -- Fabric, links, checkpoint chunks.
  | nak port slot => exact execNak_keepsFuses port slot s
  | flitReceive port flit damaged => exact execFlitReceive_keepsFuses port flit damaged s
  | flitDelivery port => exact execFlitDelivery_keepsFuses port s
  | deadlineMiss port => exact execDeadlineMiss_keepsFuses port s
  | laneRemap port => exact execLaneRemap_keepsFuses port s
  | ckptChunk => exact execCkptChunk_keepsFuses s
  | fabricSlot channel dir half | flitTransmit port | laneFailure port lane | laneFailureReport port lane | portUp port m | lockedReport r
  | ckptResend =>
    simp [exec, execFabricSlot, execFlitTransmit, execLaneFailure, execLaneFailureReport, execPortUp, execLockedReport, execCkptResend]
  -- Clocks, rails, input power, heat, tests.
  | railSettled => exact execRailSettled_keepsFuses s
  | testSliceDone core pass detail ecc => exact execTestSliceDone_keepsFuses core pass detail ecc s
  | rootRelock | fineMonitorGate src gate | grossMonitorGate src deviation | sourceReadyCount src | avsStep vReqMv | droop | powerSample m
  | dieSensorSample readings | stackSensorSample stack reading | coolantSample inlet outlet flow | drawRingWindow core
  | healthRecordWrite | trngFail =>
    simp [exec, execRootRelock, execFineMonitorGate, execGrossMonitorGate, execSourceReadyCount, execAvsStep, execDroop, execPowerSample,
      execDieSensorSample, execStackSensorSample, execCoolantSample, execDrawRingWindow, execHealthRecordWrite, execTrngFail]
  -- Loss and return of power, reset: the fuses survive.
  | inputPowerOn | inrushEnd | inputUnderVoltage | s1Break | pwrEnRise | pwrOk | pwrEnFall | railFault rail | sb3v3Loss | sb3v3Return
  | resetNLow | resetNRise straps =>
    simp [exec, execInputPowerOn, execInrushEnd, execInputUnderVoltage, execS1Break, execPwrEnRise, execPwrOk, execPwrEnFall,
      execRailFault, execSb3v3Loss, execSb3v3Return, execResetNLow, execResetNRise]
  -- The stages of start-up before READY.
  | channelMeasurement ports parentWall => exact execChannelMeasurement_keepsFuses ports parentWall s
  | recoveryRewriteDone => exact execRecoveryRewriteDone_keepsFuses s
  | bootRom | firmwareLoad | recovery | rootLock | hbmTraining | powerOnPass failed | linkTraining ports | clockFollow depth | unfollowed
  | stageOverrun =>
    simp [exec, execBootRom, execFirmwareLoad, execRecovery, execRootLock, execHbmTraining, execPowerOnPass, execLinkTraining,
      execClockFollow, execUnfollowed, execStageOverrun]
  -- The test access port and the spy-hole.
  | spyData => exact execSpyData_keepsFuses s
  | extest | idcode | samplePreload | clamp | highz | bypass | acExtest | trstN | spyScan core unit addr | spyFrozenState core unit addr
  | spyTrace core unit addr =>
    simp [exec, execExtest, execIdcode, execSamplePreload, execClamp, execHighz, execBypass, execAcExtest, execTrstN, execSpyScan,
      execSpyFrozenState, execSpyTrace]

/-! ### The two commands that blow fuses -/

theorem exec_ready_of_mayEnd {s : State} (h : s.mayEnd 8 = true) (ms : U32) :
    exec (.ready ms) s = .next (({ s with
      boot := { s.boot with ready := true, readyMs := ms },
      fuses := { s.fuses with svn := max s.fuses.svn s.boot.fwSvn } }).toStage 9) := by
  change execReady ms s = _
  simp [execReady, h]

theorem exec_ready_of_not_mayEnd {s : State} (h : s.mayEnd 8 = false) (ms : U32) : exec (.ready ms) s = .next s := by
  change execReady ms s = _
  simp [execReady, h]

theorem openPort_fuses (s : State) : s.openPort.fuses = { s.fuses with identityKill := true } := by simp [State.openPort]

/-- The fuses are those given, but that IDENTITY_KILL may have been blown. -/
def FuseState.KilledFrom (f g : FuseState) : Prop := g = f ∨ g = { f with identityKill := true }

/-- A fuse that is blown once more is still blown. -/
theorem FuseState.KilledFrom.kill {f g : FuseState} (h : f.KilledFrom g) : f.KilledFrom { g with identityKill := true } := by
  obtain rfl | rfl := h <;> exact .inr rfl

theorem spyholeSpec_killedFrom {f : FuseState} (x : Session) (p : Packet) (s : State) (h : f.KilledFrom s.fuses) :
    f.KilledFrom (spyholeSpec.run x p s).state.fuses := by
  simp only [spyholeSpec]
  split; · exact h
  split; · exact h
  split; · exact h
  rw [Reply.ok_state, openPort_fuses]
  exact h.kill

theorem exec_openSpyhole_killedFrom {p : Packet} {debugEn : Bool} {s t : State} (h : exec (.openSpyhole p debugEn) s = .next t) :
    s.fuses.KilledFrom t.fuses := by
  cases h
  exact (carriersKeep_fuses s.fuses.KilledFrom).receive spyholeSpec_killedFrom p (.inl rfl)

/-! ### Every command, every step -/

/-- No command but READY changes more than IDENTITY_KILL, which it can only blow. -/
theorem exec_killedFrom {c : Instr} {s t : State} (hready : ∀ ms, c ≠ .ready ms) (h : exec c s = .next t) :
    s.fuses.KilledFrom t.fuses := by
  by_cases hopen : ∃ p debugEn, c = .openSpyhole p debugEn
  · obtain ⟨p, debugEn, rfl⟩ := hopen
    exact exec_openSpyhole_killedFrom h
  · exact .inl (exec_keepsFuses hready (fun p debugEn e => hopen ⟨p, debugEn, e⟩) s t h)

theorem FuseState.KilledFrom.svn {f g : FuseState} (h : f.KilledFrom g) : g.svn = f.svn := by
  obtain rfl | rfl := h <;> rfl

theorem State.FusedAtLeast.of_killedFrom {svn : Nat} {kill : Bool} {s t : State} (hs : s.FusedAtLeast svn kill)
    (h : s.fuses.KilledFrom t.fuses) : t.FusedAtLeast svn kill := by
  obtain ⟨hsvn, hkill⟩ := hs
  refine ⟨h.svn ▸ hsvn, fun hk => ?_⟩
  obtain e | e := h <;> rw [e]
  exact hkill hk

theorem exec_ready_fusedAtLeast {svn : Nat} {kill : Bool} {ms : U32} {s t : State} (hs : s.FusedAtLeast svn kill)
    (h : exec (.ready ms) s = .next t) : t.FusedAtLeast svn kill := by
  cases hend : s.mayEnd 8 with
  | true =>
    rw [exec_ready_of_mayEnd hend] at h
    cases h
    obtain ⟨hsvn, hkill⟩ := hs
    exact ⟨Nat.le_trans hsvn (Nat.le_max_left ..), hkill⟩
  | false =>
    rw [exec_ready_of_not_mayEnd hend] at h
    cases h
    exact hs

theorem exec_fusedAtLeast {svn : Nat} {kill : Bool} {c : Instr} {s t : State} (hs : s.FusedAtLeast svn kill) (h : exec c s = .next t) :
    t.FusedAtLeast svn kill := by
  by_cases hready : ∃ ms, c = .ready ms
  · obtain ⟨ms, rfl⟩ := hready
    exact exec_ready_fusedAtLeast hs h
  · exact hs.of_killedFrom (exec_killedFrom (fun ms e => hready ⟨ms, e⟩) h)

theorem tick_fuses (s : State) : s.tick.fuses = s.fuses := by
  unfold State.tick
  split
  · rfl
  · split
    · exact (endAc_kept s).2
    · rfl

theorem step_fusedAtLeast {svn : Nat} {kill : Bool} {s t : State} (hs : s.FusedAtLeast svn kill) (h : step s = .next t) :
    t.FusedAtLeast svn kill := by
  unfold step at h
  split at h
  · cases h
    exact hs.of_killedFrom (.inl (tick_fuses s))
  next rest _ => exact exec_fusedAtLeast (s := { s with pending := rest }) hs h

end Sys2Proof.Machine
end

section
/-! The statement on start-up and security, settled. -/
namespace Sys2Proof.Machine

/-- Settles O3: every command but READY and OPEN_SPYHOLE keeps the fuses, the opening of the port only blows IDENTITY_KILL, READY takes the
larger of two SVNs, and time changes no fuse. -/
theorem fusesOnlyRise : Obligations.FusesOnlyRise := by
  refine ⟨fun _ _ _ _ hs => step_fusedAtLeast hs, fun _ _ _ hready h => (exec_killedFrom hready h).svn, fun ms s => ⟨?raised, ?left⟩⟩
  case raised => exact fun hend => ⟨_, exec_ready_of_mayEnd hend ms, rfl, rfl, rfl⟩
  case left => exact fun hend => exec_ready_of_not_mayEnd hend ms

end Sys2Proof.Machine
end

section
/-! SUPPORT. What every command keeps: the canonical form of the memories, and the queue that waits behind it. A command that touches no
memory is told apart from one that writes. -/
namespace Sys2Proof.Machine

/-- A state has the memories and the queue of another. -/
def SameMems (s t : State) : Prop :=
  (Vector.map CoreState.mem t.cores = Vector.map CoreState.mem s.cores ∧ t.hbm.mem = s.hbm.mem ∧ t.boot.sram = s.boot.sram
    ∧ t.ckpt.restoreBuf = s.ckpt.restoreBuf) ∧ t.pending = s.pending

/-- A state's memories are canonical where another's are, and it has the other's queue. -/
structure Sound (s t : State) : Prop where
  canonical : s.Canonical → t.Canonical
  pending : t.pending = s.pending

theorem Sound.rfl {s : State} : Sound s s := ⟨id, Eq.refl _⟩

theorem Sound.trans {s t u : State} (h : Sound s t) (k : Sound t u) : Sound s u :=
  ⟨k.canonical ∘ h.canonical, k.pending.trans h.pending⟩

theorem SameMems.sound {s t : State} (h : SameMems s t) : Sound s t := ⟨fun hs => hs.of_mems h.1, h.2⟩

theorem Sound.ite {p : Prop} [Decidable p] {s t u : State} (h : Sound s t) (k : Sound s u) : Sound s (if p then t else u) := by
  split <;> assumption

/-- Where a command completes, memories and queue are sound. -/
def KeepsSound (s : State) (o : Out) : Prop := ∀ t, o = .next t → Sound s t

/-- Where a command completes, memories and queue stand as before. -/
def KeepsMems (s : State) (o : Out) : Prop := ∀ t, o = .next t → SameMems s t

@[simp] theorem keepsSound_next (s t : State) : KeepsSound s (.next t) ↔ Sound s t :=
  ⟨fun h => h t (Eq.refl _), fun h _ e => by cases e; exact h⟩

@[simp] theorem keepsMems_next (s t : State) : KeepsMems s (.next t) ↔ SameMems s t :=
  ⟨fun h => h t (Eq.refl _), fun h _ e => by cases e; exact h⟩

@[simp] theorem keepsMems_ite (c : Prop) [Decidable c] (s : State) (a b : Out) :
    KeepsMems s (if c then a else b) ↔ if c then KeepsMems s a else KeepsMems s b := by split <;> rfl

theorem KeepsMems.sound {s : State} {o : Out} (h : KeepsMems s o) : KeepsSound s o := fun t e => (h t e).sound

/-- The words of another row are refused, and a refusal has no next state. -/
theorem KeepsSound.worded {ok : Bool} {s t : State} (h : Sound s t) : KeepsSound s (worded ok t) := by
  cases ok with
  | false => exact fun _ e => nomatch e
  | true => exact (keepsSound_next s t).mpr h

/-! ### Packets (R298, R306) -/

/-- The meaning of a row of R312 keeps memories and queue sound. -/
def Spec.KeepsSound (d : Spec) : Prop := ∀ x p s, Sound s (d.run x p s).state

/-- The carriers of packets and replies touch no memory and no queue. -/
theorem carriersKeep_sound (s : State) : CarriersKeep (Sound s) where
  fcp _ _ h := h.trans (SameMems.sound ⟨⟨rfl, rfl, rfl, rfl⟩, rfl⟩)
  eth _ _ h := h.trans (SameMems.sound ⟨⟨rfl, rfl, rfl, rfl⟩, rfl⟩)
  power _ _ h := h.trans (SameMems.sound ⟨⟨rfl, rfl, rfl, rfl⟩, rfl⟩)
  freeze _ _ _ _ _ h := h.trans (SameMems.sound ⟨by simp, by simp⟩)
  stream _ _ h := h.trans (SameMems.sound ⟨by simp, by simp⟩)

theorem receive_keepsSound {d : Spec} (hd : d.KeepsSound) (p : Packet) (s : State) : KeepsSound s (.next (receive d p s)) :=
  (keepsSound_next s _).mpr ((carriersKeep_sound s).receive (fun x p u hu => hu.trans (hd x p u)) p .rfl)

/-- A packet that session 0 may carry is received in a state whose pins have been read anew. -/
theorem receiveBoth_keepsSound {d : Spec} (hd : d.KeepsSound) (ok : State → Bool) (p : Packet) {s u : State} (hu : Sound s u) :
    KeepsSound s (.next (receiveBoth d ok p u)) :=
  (keepsSound_next s _).mpr ((carriersKeep_sound s).receiveBoth (fun x p u hu => hu.trans (hd x p u)) p hu)

theorem arrive_sound (d : Spec) (p : Packet) {go : State → State} (hgo : ∀ u, Sound u (go u)) (s : State) :
    Sound s (arrive d p go s) :=
  (carriersKeep_sound s).arrive (fun u hu => hu.trans (hgo u)) .rfl

/-! ### Words of the streams, frames -/

/-- Issue touches no memory: what the word does happens in its own ac (R43, R66). -/
theorem issueCommon_keepsSound (ok : Bool) (i : Issue) (n : Nat) {f : State → State} (hf : ∀ s, SameMems s (f s)) (s : State) :
    KeepsSound s (worded ok (issueCommon i n f s)) := by
  refine .worded ?_
  unfold issueCommon
  split
  · exact (hf s).sound.trans ⟨fun h => h.advance i n, by simp⟩
  · exact .rfl

theorem hbmPlain_keepsSound (cmd : Nat) (h : HbmIssue) (s : State) : KeepsSound s (hbmPlain cmd h s) :=
  .worded (SameMems.sound ⟨by simp, by simp⟩)

theorem hbmBanked_keepsSound (cmd : Nat) (h : HbmIssue) {f : Bank → State → State} (hf : ∀ b t, Sound t (f b t)) (s : State) :
    KeepsSound s (hbmBanked cmd h f s) := by
  refine .worded ?_
  split
  · exact Sound.trans (SameMems.sound ⟨by simp, by simp⟩) (hf _ _)
  · exact .rfl

theorem frameTo_keepsSound (f : Frame) {go : State → State} (hgo : ∀ u, SameMems u (go u)) (s : State) :
    KeepsSound s (.next (s.frameTo f go)) := by
  rw [keepsSound_next]
  unfold State.frameTo
  split
  · exact .rfl
  · split
    · exact .rfl
    · exact SameMems.sound ⟨by simp, by simp⟩
    · exact (hgo s).sound

end Sys2Proof.Machine
end

section
/-! SUPPORT. The meanings of the packets' rows keep memories and queue: most touch no memory, and those that write do so by operations
that keep the canonical form (R312). -/
namespace Sys2Proof.Machine

/-- The meaning of a row of R312 touches no memory and no queue. -/
def Spec.KeepsMems (d : Spec) : Prop := ∀ x p s, SameMems s (d.run x p s).state

theorem Spec.KeepsMems.sound {d : Spec} (h : d.KeepsMems) : d.KeepsSound := fun x p s => (h x p s).sound

theorem SameMems.rfl {s : State} : SameMems s s := ⟨⟨Eq.refl _, Eq.refl _, Eq.refl _, Eq.refl _⟩, Eq.refl _⟩

theorem SameMems.trans {s t u : State} (h : SameMems s t) (k : SameMems t u) : SameMems s u := by
  obtain ⟨⟨hc, hh, hs, hr⟩, hp⟩ := h
  obtain ⟨⟨kc, kh, ks, kr⟩, kp⟩ := k
  exact ⟨⟨kc.trans hc, kh.trans hh, ks.trans hs, kr.trans hr⟩, kp.trans hp⟩

theorem SameMems.foldl {α : Type} {f : State → α → State} (hf : ∀ s x, SameMems s (f s x)) (l : List α) (s : State) :
    SameMems s (l.foldl f s) :=
  ⟨foldl_mems f (fun u x => (hf u x).1) l s, foldl_pending f (fun u x => (hf u x).2) l s⟩

@[simp] theorem sameMems_ite (c : Prop) [Decidable c] (s a b : State) :
    SameMems s (if c then a else b) ↔ if c then SameMems s a else SameMems s b := by split <;> exact Iff.rfl

/-! ### Rows that touch no memory -/

theorem hostRead_sameMems (x : Session) (p : Packet) (h : HostPlace) (off len : Nat) (s : State) :
    SameMems s (s.hostRead x p h off len).state := by
  unfold State.hostRead
  dsimp only
  split
  · simp [SameMems]
  · split <;> simp [SameMems]

@[simp] theorem replyPart_state (b : Bytes) (n : Nat) (s : State) : (replyPart b n s).state = s := by
  unfold replyPart
  split <;> rfl

theorem openSession_sameMems (p : Packet) (s : State) : SameMems s (openSession p s).state := by
  unfold openSession
  dsimp only
  (repeat' split) <;> simp [SameMems]

theorem thawSpec_keepsMems : thawSpec.KeepsMems := by
  intro x p s
  simp only [thawSpec]
  split <;> simp [SameMems]

theorem ringPublishSpec_keepsMems : ringPublishSpec.KeepsMems := by
  intro x p s
  simp only [ringPublishSpec]
  (repeat' split) <;> simp [SameMems]

theorem ringStatusSpec_keepsMems : ringStatusSpec.KeepsMems := by
  intro x p s
  simp only [ringStatusSpec]
  split <;> simp [SameMems]

theorem memReadSpec_keepsMems : memReadSpec.KeepsMems := by
  intro x p s
  simp only [memReadSpec]
  split
  · exact .rfl
  · split
    · exact .rfl
    · exact hostRead_sameMems ..

theorem logReadSpec_keepsMems : logReadSpec.KeepsMems := by
  intro x p s
  simp only [logReadSpec]
  split
  · exact .rfl
  · split <;> exact .rfl

theorem inputReadSpec_keepsMems : inputReadSpec.KeepsMems := by
  intro x p s
  simp only [inputReadSpec]
  split
  · exact .rfl
  · split <;> exact .rfl

theorem telemetrySpec_keepsMems : telemetrySpec.KeepsMems := by
  intro x p s
  simp only [telemetrySpec]
  split <;> exact .rfl

theorem cfgReadSpec_keepsMems : cfgReadSpec.KeepsMems := by
  intro x p s
  simp only [cfgReadSpec]
  split
  · exact .rfl
  · split <;> exact .rfl

theorem cfgWriteSpec_keepsMems : cfgWriteSpec.KeepsMems := by
  intro x p s
  simp only [cfgWriteSpec]
  split <;> simp [SameMems]

/-! ### Rows that write -/

theorem State.loadImage_sound (o n : Nat) (s : State) : Sound s (loadImage o n s).2 := ⟨fun h => h.loadImage o n, by simp⟩

theorem loadSpec_keepsSound : loadSpec.KeepsSound := fun _ p s => State.loadImage_sound (beAt p.params 0 8) (beAt p.params 8 8) s

theorem unloadSpec_keepsSound : unloadSpec.KeepsSound := by
  intro x p s
  simp only [unloadSpec, ite_state]
  exact .ite ⟨fun h => h.unloadJob, by simp⟩ .rfl

theorem hostWrite_sound (h : HostPlace) (o : Nat) (d : Bytes) (s : State) : Sound s (s.hostWrite h o d) :=
  ⟨fun k => k.hostWrite h o d, by simp⟩

theorem memWriteSpec_keepsSound : memWriteSpec.KeepsSound := by
  intro x p s
  simp only [memWriteSpec]
  split
  · exact .rfl
  · split
    · exact .rfl
    · exact hostWrite_sound ..

theorem ringWriteSpec_keepsSound : ringWriteSpec.KeepsSound := by
  intro x p s
  simp only [ringWriteSpec]
  split
  · exact .rfl
  · simp only [ite_state, Reply.ok_state]
    iterate 5 refine .ite .rfl ?_
    exact hostWrite_sound ..

theorem restoreBeginSpec_keepsSound : restoreBeginSpec.KeepsSound := by
  intro x p s
  simp only [restoreBeginSpec, ite_state]
  exact .ite .rfl ⟨fun h => ⟨h.1, h.2.1, h.2.2.1, rfl⟩, rfl⟩

theorem restoreDataSpec_keepsSound : restoreDataSpec.KeepsSound := by
  intro x p s
  simp only [restoreDataSpec, ite_state]
  exact .ite .rfl (.ite .rfl ⟨fun h => ⟨h.1, h.2.1, h.2.2.1, Memory.wf_writeBytes h.2.2.2 _ _⟩, rfl⟩)

theorem restoreEndSpec_keepsSound : restoreEndSpec.KeepsSound := by
  intro x p s
  simp only [restoreEndSpec]
  split
  · exact .rfl
  split
  · exact .rfl
  split
  · exact .rfl
  split
  case h_1 => exact ⟨fun h => h.restore _ _, by simp⟩
  case h_2 =>
    have hempty : Sound s { s with
        job := { s.job with restored := false }, ckpt := { s.ckpt with st := 6, restoreStream := none, restoreBuf := [] } } :=
      ⟨fun h => ⟨h.1, h.2.1, h.2.2.1, rfl⟩, rfl⟩
    exact hempty.trans ⟨fun h => h.spoilShelf false, by simp⟩

theorem testRunSpec_keepsSound (failed : List (Fin 8 × Fin 40)) : (testRunSpec failed).KeepsSound := by
  intro x p s
  simp only [testRunSpec, ite_state]
  exact .ite .rfl ⟨fun h => h.extendedPass 2 failed, by simp⟩

theorem fwDataSpec_keepsSound : fwDataSpec.KeepsSound := by
  intro x p s
  simp only [fwDataSpec, ite_state]
  exact .ite .rfl (.ite .rfl ⟨fun h => h.apply _, by simp⟩)

theorem fwCommitSpec_keepsSound (readBackOk : Bool) : (fwCommitSpec readBackOk).KeepsSound :=
  Spec.KeepsMems.sound (fun x p s => by simp [fwCommitSpec, SameMems])

theorem operatorKeySpec_keepsSound : operatorKeySpec.KeepsSound := Spec.KeepsMems.sound (fun x p s => by simp [operatorKeySpec, SameMems])
theorem attestSpec_keepsSound : attestSpec.KeepsSound := Spec.KeepsMems.sound (fun x p s => by simp [attestSpec, SameMems])
theorem identitySpec_keepsSound : identitySpec.KeepsSound := fun x p s => by simp [identitySpec, Sound.rfl]

theorem spyholeSpec_keepsSound : spyholeSpec.KeepsSound := Spec.KeepsMems.sound (fun x p s => by simp [spyholeSpec, SameMems])

/-- Of the rows that a session carries, those not settled above only choose between replies. -/
theorem sessionSpec_keepsSound {d : Spec} (h : d ∈ sessionRows.map Prod.snd) : d.KeepsSound := by
  revert d
  simp only [sessionRows, List.map_cons, List.map_nil, List.forall_mem_cons, thawSpec_keepsMems.sound, ringWriteSpec_keepsSound,
    ringPublishSpec_keepsMems.sound, ringStatusSpec_keepsMems.sound, memReadSpec_keepsMems.sound, memWriteSpec_keepsSound,
    restoreBeginSpec_keepsSound, restoreDataSpec_keepsSound, restoreEndSpec_keepsSound, loadSpec_keepsSound, unloadSpec_keepsSound,
    logReadSpec_keepsMems.sound, inputReadSpec_keepsMems.sound, telemetrySpec_keepsMems.sound, cfgReadSpec_keepsMems.sound,
    cfgWriteSpec_keepsMems.sound, fwDataSpec_keepsSound, true_and, List.not_mem_nil, false_imp_iff, implies_true, and_true]
  and_intros <;> refine Spec.KeepsMems.sound (fun x p s => ?_)
  all_goals simp [SameMems, nopSpec, closeSpec, subscribeSpec, listSpec, seatKeySpec, unclaimSpec, jobStatusSpec, startSpec, haltSpec,
    pointSpec, replayLoadSpec, regionReadSpec, counterReadSpec, ckptRequestSpec, ckptAckSpec, ckptStatusSpec, logAckSpec, inputAckSpec,
    faultLogSpec, cfgSaveSpec, setTimeSpec, macsecSpec, healthReadSpec, fwBeginSpec]

end Sys2Proof.Machine
end

section
/-! SUPPORT. The commands whose meaning turns on what the state holds keep memories and queue. -/
namespace Sys2Proof.Machine

/-! ### Barriers, holds, soaks (R79, R83, R249, R276 to R285) -/

theorem evaluate_sound (r : BarrierRec) (s : State) : Sound s (s.evaluate r) := ⟨fun h => h.evaluate r, by simp⟩

theorem barrierActions_sound (r : BarrierRec) (s : State) : Sound s (s.barrierActions r) := ⟨fun h => h.barrierActions r, by simp⟩

theorem resumeStart_sound (s : State) : Sound s s.resumeStart := ⟨fun h => h.resumeStart, by simp⟩

theorem reraise_sound (s : State) : Sound s s.reraise := SameMems.sound ⟨by simp, by simp⟩

theorem execBarrierDue_keepsSound (s : State) : KeepsSound s (execBarrierDue s) := by
  simp only [execBarrierDue]
  split
  · exact (keepsSound_next s s).mpr .rfl
  · split
    · exact (keepsSound_next s s).mpr .rfl
    · have hwords : Sound s { s.passBarrierWords with
          job := { s.passBarrierWords.job with barrierSeq := s.passBarrierWords.job.barrierSeq + 1 } } :=
        SameMems.sound ⟨by simp, by simp⟩
      split
      · exact (keepsSound_next s _).mpr hwords
      · exact (keepsSound_next s _).mpr (hwords.trans (evaluate_sound _ _))

theorem execBarrierRelease_keepsSound (s : State) : KeepsSound s (execBarrierRelease s) := by
  unfold execBarrierRelease
  split
  next r w _ _ _ =>
    split
    · exact (keepsSound_next s s).mpr .rfl
    · have hrun : Sound s (s.endStand.setJobState .running 0) := SameMems.sound ⟨by simp, by simp⟩
      exact (keepsSound_next s _).mpr ((hrun.trans (barrierActions_sound r _)).trans (reraise_sound _))
  · exact (keepsSound_next s s).mpr .rfl

theorem execHoldNotice_keepsMems (s : State) : KeepsMems s (execHoldNotice s) := by
  unfold execHoldNotice
  split <;> simp [SameMems]

theorem execHoldLatencyEnd_keepsMems (s : State) : KeepsMems s (execHoldLatencyEnd s) := by
  unfold execHoldLatencyEnd
  split <;> simp [SameMems]

theorem execSoakToken_keepsMems (p : Fin 16) (grid : BitVec 2) (s : State) : KeepsMems s (execSoakToken p grid s) := by
  simp only [execSoakToken]
  split
  · exact (keepsMems_next s s).mpr .rfl
  · split <;> simp [SameMems]

theorem execSoakStop_keepsMems (s : State) : KeepsMems s (execSoakStop s) := by
  unfold execSoakStop
  split <;> simp [SameMems]

theorem execSoakRelease_keepsSound (s : State) : KeepsSound s (execSoakRelease s) := by
  unfold execSoakRelease
  split
  · exact (keepsSound_next s s).mpr .rfl
  · split
    · exact (keepsSound_next s s).mpr .rfl
    · split
      · exact KeepsMems.sound (by simp [SameMems])
      · rw [keepsSound_next]
        refine .trans (.ite (SameMems.sound ?_) (.trans (SameMems.sound ?_) (resumeStart_sound _))) (reraise_sound _)
        all_goals simp [SameMems]

/-! ### HBM bursts, links, checkpoint chunks (R237, R257 to R274, R316) -/

theorem execRd_keepsSound (h : HbmIssue) (sev : Severity) (s : State) : KeepsSound s (execRd h sev s) := by
  refine hbmBanked_keepsSound 2 h (fun b t => ?_) s
  dsimp only
  split <;> exact SameMems.sound (by simp [SameMems])

theorem execWr_keepsSound (h : HbmIssue) (s : State) : KeepsSound s (execWr h s) := by
  refine hbmBanked_keepsSound 3 h (fun b t => ?_) s
  dsimp only
  have hbank : Sound t (t.setBank h { b with wrAt := some (t.wallFc h) }) := SameMems.sound (by simp [SameMems])
  split
  · exact hbank
  · split
    · exact hbank.trans ⟨fun k => k.apply _, by simp⟩
    · exact (hbank.trans (SameMems.sound (by simp [SameMems]))).trans ⟨fun k => k.apply _, by simp⟩

theorem execNak_keepsMems (p : Fin 16) (slot : BitVec 15) (s : State) : KeepsMems s (execNak p slot s) := by
  unfold execNak
  split <;> simp [SameMems]

theorem execFlitDelivery_keepsSound (p : Fin 16) (s : State) : KeepsSound s (execFlitDelivery p s) := by
  simp only [execFlitDelivery]
  split
  · exact (keepsSound_next s s).mpr .rfl
  · split
    · exact (keepsSound_next s s).mpr .rfl
    · exact (keepsSound_next s _).mpr (Sound.trans (SameMems.sound (by simp [SameMems])) ⟨fun k => k.deliver _ _, by simp⟩)

theorem takeData_sound (p : Fin 16) (f : Flit) (n : Nat) (s : State) : Sound s (s.takeData p f n) := ⟨fun k => k.takeData p f n, by simp⟩

theorem execFlitReceive_keepsSound (p : Fin 16) (f : Flit) (damaged : Bool) (s : State) :
    KeepsSound s (execFlitReceive p f damaged s) := by
  simp only [execFlitReceive]
  split
  · exact (keepsSound_next s s).mpr .rfl
  · split
    · exact KeepsMems.sound (by simp [SameMems])
    · have hpoison : Sound s (if flitFault f = true then s.linkPoison p 0 1 (flitSlot f) else s) :=
        .ite (SameMems.sound (by simp [SameMems])) .rfl
      split
      · exact (keepsSound_next s _).mpr (hpoison.trans (takeData_sound _ _ _ _))
      · exact (keepsSound_next s _).mpr ((hpoison.trans (SameMems.sound (by simp [SameMems]))).trans (takeData_sound _ _ _ _))
      · exact (keepsSound_next s _).mpr hpoison

theorem execDeadlineMiss_keepsMems (p : Fin 16) (s : State) : KeepsMems s (execDeadlineMiss p s) := by
  simp only [execDeadlineMiss]
  split
  · exact (keepsMems_next s s).mpr .rfl
  · split <;> simp [SameMems]

theorem execLaneRemap_keepsMems (p : Fin 16) (s : State) : KeepsMems s (execLaneRemap p s) := by
  unfold execLaneRemap
  split <;> simp [SameMems]

theorem execCkptChunk_keepsMems (s : State) : KeepsMems s (execCkptChunk s) := by
  simp only [execCkptChunk]
  split
  · exact (keepsMems_next s s).mpr .rfl
  next x _ =>
    have hread := readPart_mems (s.chunkSize x.port) s
    have hqueue := (readPart_kept (s.chunkSize x.port) s).1
    split
    · exact (keepsMems_next s s).mpr .rfl
    · split <;> simp_all [SameMems]

/-! ### Sessions, recovery, tests, rails, link measurements, the spy-hole's data (R282, R303 to R309, R341, R361, R391, R402) -/

theorem execSessionAuth_keepsSound (p : Packet) (s : State) : KeepsSound s (execSessionAuth p s) := by
  have hrefuse : authSpec.KeepsSound := fun _ _ _ => .rfl
  unfold execSessionAuth
  split
  · split
    · refine (keepsSound_next s _).mpr (arrive_sound authSpec p (fun u => SameMems.sound ?_) s)
      split <;> simp [SameMems]
    · exact receive_keepsSound hrefuse p s
  · exact receive_keepsSound hrefuse p s

theorem execSessionIdle_keepsMems (session : U16) (s : State) : KeepsMems s (execSessionIdle session s) := by
  unfold execSessionIdle
  split <;> simp [SameMems]

theorem execPendingSessionExpiry_keepsMems (session : U16) (s : State) : KeepsMems s (execPendingSessionExpiry session s) := by
  unfold execPendingSessionExpiry
  split <;> simp [SameMems]

theorem execBadTag_keepsMems (p : Packet) (s : State) : KeepsMems s (execBadTag p s) := by
  unfold execBadTag
  split <;> simp [SameMems]

theorem execBadOpcode_keepsSound (p : Packet) (opcode : U16) (s : State) : KeepsSound s (execBadOpcode p opcode s) := by
  unfold execBadOpcode
  split
  · exact (keepsSound_next s s).mpr .rfl
  · exact receive_keepsSound (fun _ _ _ => .rfl) p s

theorem execRecoveryLoad_keepsSound (p : Packet) (s : State) : KeepsSound s (execRecoveryLoad p s) := by
  unfold execRecoveryLoad
  split
  · split
    · exact (keepsSound_next s s).mpr .rfl
    · exact (keepsSound_next s _).mpr ⟨fun h => h.recoveryBlock p, by simp⟩
  · split
    · exact (keepsSound_next s s).mpr .rfl
    · exact KeepsMems.sound (by simp [SameMems])

theorem execRecoveryRewriteDone_keepsSound (s : State) : KeepsSound s (execRecoveryRewriteDone s) := by
  unfold execRecoveryRewriteDone
  split
  · exact (keepsSound_next s s).mpr .rfl
  · split
    · exact KeepsMems.sound (by simp [SameMems])
    · exact (keepsSound_next s _).mpr ⟨fun h => ⟨h.1, h.2.1, rfl, h.2.2.2⟩, rfl⟩

theorem execTestSliceDone_keepsMems (core : Fin 8) (pass : Bool) (detail : U32) (ecc : Bool) (s : State) :
    KeepsMems s (execTestSliceDone core pass detail ecc s) := by
  simp only [execTestSliceDone]
  (repeat' split) <;> simp [SameMems]

theorem execRailSettled_keepsMems (s : State) : KeepsMems s (execRailSettled s) := by
  simp only [execRailSettled, keepsMems_ite, keepsMems_next]
  split
  · exact .rfl
  · refine .trans (t := State.mk ..) ?_ (.foldl (fun u p => by split <;> simp [SameMems]) _ _)
    (repeat' split) <;> simp [SameMems]

theorem execChannelMeasurement_keepsMems (ports : List PortMeasure) (parentWall : U64) (s : State) :
    KeepsMems s (execChannelMeasurement ports parentWall s) := by
  simp only [execChannelMeasurement, keepsMems_ite, keepsMems_next]
  split
  · exact .rfl
  · exact .foldl (fun u p => by split <;> simp [SameMems]) _ _

theorem execSpyData_keepsMems (s : State) : KeepsMems s (execSpyData s) := by
  simp only [execSpyData]
  (repeat' split) <;> simp [SameMems]

end Sys2Proof.Machine
end

section
/-! SUPPORT. What a command keeps of memories and queue, said once for every command. -/
namespace Sys2Proof.Machine

theorem issueUnit_keepsSound (ok : Bool) (i : Issue) (plan : State → Origin → Plan) (s : State) :
    KeepsSound s (worded ok (s.issueUnit i plan)) := .worded (SameMems.sound ⟨by simp, by simp⟩)

theorem issueMatrix_keepsSound (ok : Bool) (i : Issue) (plan : State → Origin → MatPlan) (s : State) :
    KeepsSound s (worded ok (s.issueMatrix i plan)) := .worded (SameMems.sound ⟨by simp, by simp⟩)

theorem lose_sound (pins : PinState) (s : State) : Sound s (s.lose pins) := ⟨fun _ => .lose pins s, by simp⟩

theorem railsOff_sound (s : State) : Sound s s.railsOff := lose_sound _ s

theorem execPowerOnPass_keepsSound (failed : List (Fin 8 × Fin 40)) (s : State) : KeepsSound s (execPowerOnPass failed s) := by
  unfold execPowerOnPass
  split
  · exact (keepsSound_next s s).mpr .rfl
  · have hpass : Sound s (s.extendedPass 1 failed) := ⟨fun h => h.extendedPass 1 failed, by simp⟩
    exact (keepsSound_next s _).mpr (hpass.trans (SameMems.sound (by simp [SameMems])))

theorem execDieSensorSample_keepsSound (readings : List (BitVec 16)) (s : State) : KeepsSound s (execDieSensorSample readings s) := by
  simp only [execDieSensorSample]
  split
  · exact (keepsSound_next s s).mpr .rfl
  · split
    · exact (keepsSound_next s _).mpr (lose_sound _ s)
    · refine (keepsSound_next s _).mpr (SameMems.sound ?_)
      refine SameMems.trans ?_ (.foldl (fun u x => by simp [SameMems]) _ _)
      exact ⟨⟨rfl, rfl, rfl, rfl⟩, rfl⟩

theorem execStackSensorSample_keepsSound (stack : Fin 20) (reading : BitVec 16) (s : State) :
    KeepsSound s (execStackSensorSample stack reading s) := by
  simp only [execStackSensorSample]
  split
  · exact (keepsSound_next s s).mpr .rfl
  · split
    · exact (keepsSound_next s _).mpr (lose_sound _ s)
    · exact (keepsSound_next s _).mpr (SameMems.sound (by simp [SameMems]))

theorem modPins_sound (f : PinState → PinState) (s : State) : Sound s (s.modPins f) := SameMems.sound ⟨by simp, by simp⟩

theorem exec_keepsSound (c : Instr) (s : State) : KeepsSound s (exec c s) := by
  cases c with
  -- The timed streams: a word issues as its plan, and an instruction in progress works on memory in its own ac.
  | nop i | delay i => exact issueCommon_keepsSound _ i _ (fun _ => .rfl) s
  | signal i | set i => exact issueCommon_keepsSound _ i _ (fun u => by simp [SameMems]) s
  | expect i => exact issueCommon_keepsSound _ i _ (fun u => by simp [SameMems]) s
  | mmul i | mmulPack i => exact issueMatrix_keepsSound _ i _ s
  | vchain i | softmax i | norm i | accsum i | rsum i | rmean i | rmax i | rmin i | rargmax i | rargmin i | rcount i | rsumf i | rprod i
  | rlse i | scan i | dscan i | gather i | scatter i | compact i | unorm i | gstore i | uclip i | update i | uclose i | stepcalc i
  | gnorm i | recast i | driftCheck i | ledger i | tables i | hash i | move i | fill i | put i | get i | addI48 i | setBits i | clrBits i
  | remoteSignal i => exact issueUnit_keepsSound _ i _ s
  -- The HBM streams: WR alone writes.
  | hbmNop h | hbmDelay h => exact hbmPlain_keepsSound _ h s
  | act h | pre h =>
    refine hbmBanked_keepsSound _ h (f := fun b t => t.setBank h _) (fun b t => SameMems.sound ?_) s
    exact ⟨by simp, by simp⟩
  | refpb h => exact .worded (SameMems.sound (by simp [SameMems]))
  | rd h sev => exact execRd_keepsSound h sev s
  | wr h => exact execWr_keepsSound h s
  -- Packets: the meaning of the row, and the way that every packet takes.
  | fcpNop p | sessionClose p | sessionThaw p | subscribe p | sessionList p | setSeatKey p | unclaim p | jobStatus p | loadImage p
  | startAtBarrier p | haltAtBarrier p | unload p | setOpPoint p | ringWrite p | ringPublish p | ringStatus p | replayLoad p | memRead p
  | memWrite p | regionRead p | counterRead p | ckptRequest p | ckptAck p | ckptStatus p | restoreBegin p | restoreData p | restoreEnd p
  | logRead p | logAck p | inputLogRead p | inputLogAck p | telemetryRead p | faultLogRead p | cfgRead p | cfgWrite p | rootSrcWrite p
  | logClear p | declare p | policyClippedClear p | cfgSave p | setTime p | macsecKey p | healthRead p | fwBegin p | fwData p =>
    exact receive_keepsSound (sessionSpec_keepsSound (by simp [sessionRows])) p s
  | testRun p failed => exact receive_keepsSound (testRunSpec_keepsSound failed) p s
  | fwCommit p readBackOk => exact receive_keepsSound (fwCommitSpec_keepsSound readBackOk) p s
  | sessionOpen p => exact receiveBoth_keepsSound (fun _ p s => (openSession_sameMems p s).sound) _ p .rfl
  | setOperatorKey p claimEn => exact receiveBoth_keepsSound operatorKeySpec_keepsSound _ p (SameMems.sound (by simp [SameMems]))
  | attest p claimEn => exact receiveBoth_keepsSound attestSpec_keepsSound _ p (SameMems.sound (by simp [SameMems]))
  | identityRead p claimEn => exact receiveBoth_keepsSound identitySpec_keepsSound _ p (SameMems.sound (by simp [SameMems]))
  | openSpyhole p debugEn =>
    intro t h
    exact .trans (SameMems.sound (by simp [SameMems])) (receive_keepsSound spyholeSpec_keepsSound p _ t h)
  | sessionAuth p => exact execSessionAuth_keepsSound p s
  | badTag p => exact (execBadTag_keepsMems p s).sound
  | badOpcode p opcode => exact execBadOpcode_keepsSound p opcode s
  | recoveryLoad p => exact execRecoveryLoad_keepsSound p s
  -- Frames, and the events of sessions and of the Ethernet ports.
  | neighbourDiscovery f target src | arp f target src | echo f v6 target src data | ptpMessage f m locked taiNs =>
    exact frameTo_keepsSound f (fun u => by simp [SameMems]) s
  | sessionIdle session => exact (execSessionIdle_keepsMems session s).sound
  | pendingSessionExpiry session => exact (execPendingSessionExpiry_keepsMems session s).sound
  | notice | ingressDrop port | pauseFrame port | ethLinkUp port | ethLinkDown port =>
    exact KeepsMems.sound (by simp [SameMems, exec, execNotice, execIngressDrop, execPauseFrame, execEthLinkUp, execEthLinkDown])
  -- Barriers, holds, soaks: the actions of a barrier write the commit record.
  | barrierDue => exact execBarrierDue_keepsSound s
  | barrierRelease => exact execBarrierRelease_keepsSound s
  | holdNotice => exact (execHoldNotice_keepsMems s).sound
  | holdLatencyEnd => exact (execHoldLatencyEnd_keepsMems s).sound
  | soakToken port grid => exact (execSoakToken_keepsMems port grid s).sound
  | soakStop => exact (execSoakStop_keepsMems s).sound
  | soakRelease => exact execSoakRelease_keepsSound s
  | barrierToken port grid | restartToken port grid =>
    exact KeepsMems.sound (by simp [SameMems, exec, execBarrierToken, execRestartToken])
  -- Fabric, links, checkpoint chunks: a delivered flit writes at its destination.
  | nak port slot => exact (execNak_keepsMems port slot s).sound
  | flitReceive port flit damaged => exact execFlitReceive_keepsSound port flit damaged s
  | flitDelivery port => exact execFlitDelivery_keepsSound port s
  | deadlineMiss port => exact (execDeadlineMiss_keepsMems port s).sound
  | laneRemap port => exact (execLaneRemap_keepsMems port s).sound
  | ckptChunk => exact (execCkptChunk_keepsMems s).sound
  | fabricSlot channel dir half | flitTransmit port | laneFailure port lane | laneFailureReport port lane | portUp port m | lockedReport r
  | ckptResend =>
    exact KeepsMems.sound (by simp [SameMems, exec, execFabricSlot, execFlitTransmit, execLaneFailure, execLaneFailureReport, execPortUp,
      execLockedReport, execCkptResend])
  -- Clocks, rails, heat, tests: a die or stack at its limit loses the memories, an extended pass overwrites the slices.
  | railSettled => exact (execRailSettled_keepsMems s).sound
  | testSliceDone core pass detail ecc => exact (execTestSliceDone_keepsMems core pass detail ecc s).sound
  | dieSensorSample readings => exact execDieSensorSample_keepsSound readings s
  | stackSensorSample stack reading => exact execStackSensorSample_keepsSound stack reading s
  | powerOnPass failed => exact execPowerOnPass_keepsSound failed s
  | rootRelock | fineMonitorGate src gate | grossMonitorGate src deviation | sourceReadyCount src | avsStep vReqMv | droop | powerSample m
  | coolantSample inlet outlet flow | drawRingWindow core | healthRecordWrite | trngFail =>
    exact KeepsMems.sound (by simp [SameMems, exec, execRootRelock, execFineMonitorGate, execGrossMonitorGate, execSourceReadyCount,
      execAvsStep, execDroop, execPowerSample, execCoolantSample, execDrawRingWindow, execHealthRecordWrite, execTrngFail])
  -- Input power and reset: a loss leaves empty memories.
  | inputUnderVoltage | s1Break | pwrEnFall | sb3v3Loss => exact (keepsSound_next s _).mpr ((railsOff_sound s).trans (modPins_sound _ _))
  | railFault rail => exact (keepsSound_next s _).mpr (.ite (railsOff_sound s) .rfl)
  | resetNLow | resetNRise straps => exact (keepsSound_next s _).mpr ((lose_sound _ s).trans (SameMems.sound ⟨⟨rfl, rfl, rfl, rfl⟩, rfl⟩))
  | inputPowerOn | inrushEnd | pwrEnRise | pwrOk | sb3v3Return =>
    exact KeepsMems.sound (by simp [SameMems, exec, execInputPowerOn, execInrushEnd, execPwrEnRise, execPwrOk, execSb3v3Return])
  -- The stages of start-up.
  | channelMeasurement ports parentWall => exact (execChannelMeasurement_keepsMems ports parentWall s).sound
  | recoveryRewriteDone => exact execRecoveryRewriteDone_keepsSound s
  | bootRom | firmwareLoad | recovery | rootLock | hbmTraining | linkTraining ports | clockFollow depth | unfollowed | ready ms
  | stageOverrun =>
    exact KeepsMems.sound (by simp [SameMems, exec, execBootRom, execFirmwareLoad, execRecovery, execRootLock, execHbmTraining,
      execLinkTraining, execClockFollow, execUnfollowed, execReady, execStageOverrun])
  -- The test access port and the spy-hole.
  | spyData => exact (execSpyData_keepsMems s).sound
  | extest | idcode | samplePreload | clamp | highz | bypass | acExtest | trstN | spyScan core unit addr | spyFrozenState core unit addr
  | spyTrace core unit addr =>
    exact KeepsMems.sound (by simp [SameMems, exec, execExtest, execIdcode, execSamplePreload, execClamp, execHighz, execBypass,
      execAcExtest, execTrstN, execSpyScan, execSpyFrozenState, execSpyTrace])

theorem step_canonical {s t : State} (hs : s.Canonical) (h : step s = .next t) : t.Canonical := by
  unfold step at h
  split at h
  · cases h
    exact hs.tick
  next c rest _ => exact (exec_keepsSound c { s with pending := rest } t h).canonical hs

end Sys2Proof.Machine
end

section
/-! The statements on the step, its queue, its memories and what reset leaves, settled. -/
namespace Sys2Proof.Machine

/-- Settles O4: time keeps the memories canonical, and so does every command. -/
theorem canonicalKept : Obligations.CanonicalKept := fun _ _ hs h => step_canonical hs h

/-- Settles O2: every command keeps the queue behind it. -/
theorem queueUntouched : Obligations.QueueUntouched := fun c s t h => (exec_keepsSound c s t h).pending

/-- Settles O1: a step takes the command in front off the queue, and the rest is the queue that it runs with. -/
theorem stepRunsFront : Obligations.StepRunsFront := fun _ _ => rfl

theorem reset_core (c : Fin 8) : State.reset.core c = CoreState.initial := by
  simp [State.core, State.reset, State.volatileReset]

/-- Settles O5: every memory is empty at reset. -/
theorem resetCanonical : Obligations.ResetCanonical :=
  ⟨fun c => by rw [reset_core]; rfl, rfl, rfl, rfl⟩

theorem reset_port (p : Fin 16) : State.reset.port p = PortState.initial := by
  simp [State.port, State.reset, State.volatileReset]

theorem reset_eth (p : Fin 2) : State.reset.eth[p] = EthState.initial := by
  simp [State.reset, State.volatileReset]

/-- Settles O6: every part of the state is its own part as reset leaves it, and holds the values of its table there. -/
theorem resetValues : Obligations.ResetValues := by
  refine ⟨rfl, rfl, rfl, rfl, rfl, fun _ => rfl, rfl, rfl, rfl, rfl, rfl, rfl, rfl, rfl, fun p => ?port, fun p => ?eth, rfl, rfl, rfl, rfl⟩
  case port => rw [reset_port]; rfl
  case eth => rw [reset_eth]; rfl

end Sys2Proof.Machine
end

section
/-! SUPPORT. The issue of stream words (R65 to R69): what each form of words says of unit and opcode, the plan that an instruction in
progress follows, and the common operations. -/
namespace Sys2Proof.Machine

theorem fits_iff {i : Issue} {op cont : Nat} {units : List Nat} :
    fits i op cont units = true ↔ headUnit i.head = i.unit.val ∧ headCont i.head = cont ∧ i.cont.length = cont ∧ issueOpcode i = op
      ∧ i.unit.val ∈ units := by
  simp [fits, headOpcode, issueOpcode, wf, and_assoc]

/-- Words of a row of the vector engine are of unit 1 and have the row's opcode. -/
theorem vecWord_fits {op : Nat} {i : Issue} (h : vecWord op i = true) : fits i op 0 [1] = true := by
  simp only [vecWord, Bool.and_eq_true] at h
  exact h.1.1.1.1

theorem updWord_fits {op : Nat} {i : Issue} (h : updWord op i = true) : fits i op 0 [2] = true := by
  simp only [updWord, Bool.and_eq_true] at h
  exact h.1.1.1.1.1

theorem moveWord_fits {i : Issue} (h : moveWord i = true) : fits i 0x040 1 dmaUnits = true := by
  simp only [moveWord, Bool.and_eq_true] at h
  exact h.1.1.1.1.1

theorem fillWord_fits {i : Issue} (h : fillWord i = true) : fits i 0x041 1 dmaUnits = true := by
  simp only [fillWord, Bool.and_eq_true] at h
  exact h.1.1.1.1.1.1.1

theorem remoteWord_fits {op : Nat} {i : Issue} (h : remoteWord op i = true) : ∃ n, fits i op n dmaUnits = true := by
  simp only [remoteWord, Bool.and_eq_true] at h
  exact ⟨_, h.1.1.1.1.1.1.1⟩

theorem planOf_of_fits_vec {op n : Nat} {i : Issue} (h : fits i op n [1] = true) : planOf i = vecPlan op i := by
  obtain ⟨-, -, -, hop, hunit⟩ := fits_iff.mp h
  funext s o
  simp only [List.mem_singleton] at hunit
  simp only [planOf, hunit, hop]

theorem planOf_of_fits_upd {op n : Nat} {i : Issue} (h : fits i op n [2] = true) : planOf i = updPlan i ∧ issueOpcode i = op := by
  obtain ⟨-, -, -, hop, hunit⟩ := fits_iff.mp h
  refine ⟨?_, hop⟩
  funext s o
  simp only [List.mem_singleton] at hunit
  simp only [planOf, hunit]

/-- A word of a DMA engine follows the plan of its opcode (R243, R265). -/
theorem planOf_of_fits_move {n : Nat} {i : Issue} (h : fits i 0x040 n dmaUnits = true) : planOf i = movePlan i := by
  obtain ⟨-, -, -, hop, hunit⟩ := fits_iff.mp h
  funext s o
  simp only [dmaUnits, List.mem_cons, List.not_mem_nil, or_false] at hunit
  obtain e | e | e | e := hunit <;> simp only [planOf, e, hop]

theorem planOf_of_fits_fill {n : Nat} {i : Issue} (h : fits i 0x041 n dmaUnits = true) : planOf i = fillPlan i := by
  obtain ⟨-, -, -, hop, hunit⟩ := fits_iff.mp h
  funext s o
  simp only [dmaUnits, List.mem_cons, List.not_mem_nil, or_false] at hunit
  obtain e | e | e | e := hunit <;> simp only [planOf, e, hop]

theorem planOf_of_fits_remote {op n : Nat} {i : Issue} (h : fits i op n dmaUnits = true) (hmove : op ≠ 0x040) (hfill : op ≠ 0x041) :
    planOf i = remotePlan op i := by
  obtain ⟨-, -, -, hop, hunit⟩ := fits_iff.mp h
  funext s o
  simp only [dmaUnits, List.mem_cons, List.not_mem_nil, or_false] at hunit
  obtain e | e | e | e := hunit <;> simp only [planOf, e, hop]

/-- The plan of an instruction in progress is its row's. -/
theorem planOf_unitRow {r : UnitRow} (hr : r ∈ unitRows) {i : Issue} (hf : r.form i = true) (s : State) (o : Origin) :
    planOf i s o = r.plan i s o := by
  rcases List.mem_append.mp hr with hvec | hrest
  · obtain ⟨v, -, rfl⟩ := List.mem_map.mp hvec
    exact congrFun (congrFun (planOf_of_fits_vec (vecWord_fits hf)) s) o
  have upd : ∀ {op : Nat} (plan : State → Origin → Plan), updWord op i = true → (issueOpcode i = op → updPlan i = plan) →
      planOf i s o = plan s o := fun plan h e => by
    obtain ⟨hplan, hop⟩ := planOf_of_fits_upd (updWord_fits h)
    rw [hplan, e hop]
  have remote : ∀ {op : Nat}, op ≠ 0x040 → op ≠ 0x041 → remoteWord op i = true → planOf i s o = remotePlan op i s o :=
    fun hmove hfill h => congrFun (congrFun (planOf_of_fits_remote (remoteWord_fits h).choose_spec hmove hfill) s) o
  simp only [List.mem_cons, List.not_mem_nil, or_false] at hrest
  obtain rfl | rfl | rfl | rfl | rfl | rfl | rfl | rfl | rfl | rfl | rfl | rfl | rfl | rfl | rfl | rfl | rfl | rfl | rfl | rfl := hrest
  iterate 7 next => exact upd _ hf (fun e => by simp only [updPlan, e])
  next =>
    obtain ⟨hword, hflags⟩ := Bool.and_eq_true_iff.mp hf
    exact upd _ hword (fun e => by simp only [updPlan, e, beq_iff_eq.mp hflags, if_true])
  next =>
    obtain ⟨hword, hflags⟩ := Bool.and_eq_true_iff.mp hf
    exact upd _ hword (fun e => by simp only [updPlan, e, beq_iff_eq.mp hflags, Nat.one_ne_zero, if_false])
  iterate 3 next => exact upd _ hf (fun e => by simp only [updPlan, e])
  next => exact congrFun (congrFun (planOf_of_fits_move (moveWord_fits hf)) s) o
  next => exact congrFun (congrFun (planOf_of_fits_fill (fillWord_fits hf)) s) o
  iterate 6 next => exact remote (by decide) (by decide) hf

/-- What the word of a stream's command leaves: that of a common operation, of a matrix instruction, or of an engine's plan. -/
inductive IssuedAs (cmd : Issue → Instr) (i : Issue) (s : State) : State → Prop
  | pass (extra : Nat) : IssuedAs cmd i s (issueCommon i extra (fun s => s) s)
  | change (h : cmd = .signal ∨ cmd = .set) (e : Effect) : IssuedAs cmd i s (issueCommon i 0 (counterChange i e) s)
  | check : IssuedAs cmd i s (issueCommon i 0 (expectCheck i) s)
  | matrix (plan : State → Origin → MatPlan) : IssuedAs cmd i s (s.issueMatrix i plan)
  | unit (plan : State → Origin → Plan) : IssuedAs cmd i s (s.issueUnit i plan)

/-- The form of its words decides whether a stream's command has its meaning. -/
theorem exec_streamRow {cmd : Issue → Instr} (h : cmd ∈ streamRows) (i : Issue) (s : State) :
    ∃ t, IssuedAs cmd i s t ∧ exec (cmd i) s = worded (wellFormed (cmd i)) t := by
  rcases streamRows_cases h with hcommon | ⟨r, hr, rfl⟩
  · simp only [List.mem_cons, List.not_mem_nil, or_false] at hcommon
    obtain rfl | rfl | rfl | rfl | rfl | rfl | rfl := hcommon
    · exact ⟨_, .pass _, rfl⟩
    · exact ⟨_, .pass _, rfl⟩
    · exact ⟨_, .change (.inl rfl) _, rfl⟩
    · exact ⟨_, .change (.inr rfl) _, rfl⟩
    · exact ⟨_, .check, rfl⟩
    · exact ⟨_, .matrix _, rfl⟩
    · exact ⟨_, .matrix _, rfl⟩
  · obtain ⟨hexec, hform⟩ := exec_unitRow hr i s
    exact ⟨_, .unit _, hform ▸ hexec⟩

theorem IssuedAs.off {cmd : Issue → Instr} {i : Issue} {s t : State} (h : IssuedAs cmd i s t) (hs : s.canIssue i = false) : t = s := by
  cases h with
  | pass | change | check => simp [issueCommon, hs]
  | matrix plan => simp [State.issueMatrix, hs]
  | unit plan => exact issueUnit_off i plan s hs

end Sys2Proof.Machine
end

section
/-! The statements on words that do not issue and on the words of the engines, settled. -/
namespace Sys2Proof.Machine

/-- Settles O9: every stream command runs as its form allows, and no form's meaning changes anything where the word may not issue. -/
theorem wordsThatDoNotIssue : Obligations.WordsThatDoNotIssue := by
  refine ⟨fun cmd hcmd i s hoff hform => ?off, fun cmd hcmd i s hform => ?malformed⟩
  all_goals obtain ⟨t, hword, hexec⟩ := exec_streamRow hcmd i s
  case off => rw [hexec, hform, hword.off hoff, worded_true]
  case malformed => rw [hexec, hform, worded_false]

/-- Settles O10: the issue of a row of an engine has these three outcomes, and what is in progress follows the row's plan on the state of
its issue. -/
theorem unitWords : Obligations.UnitWords := by
  refine ⟨fun r hr i s free endAc effs hf hready hp => ⟨run_exec hr hf hready hp, rfl, ?plan⟩, fun r hr i s f hf hready hp => ?fault,
    fun r hr i s hf hissue hbusy => ?busy, fun s c o reads hecc t ht => ?reads⟩
  case plan => rw [State.planNow, view_newRunning]; exact planOf_unitRow hr hf _ _
  case fault => rw [(exec_unitRow hr i s).1, hf, issueUnit_fault i (r.plan i) s f hready hp, worded_true]
  case busy => rw [(exec_unitRow hr i s).1, hf, issueUnit_busy i (r.plan i) s hissue hbusy, worded_true]; rfl
  case reads =>
    rw [operandReads_of_none hecc] at ht
    obtain ⟨x, -, rfl⟩ := List.mem_map.mp ht
    exact ⟨_, _, _, rfl⟩

end Sys2Proof.Machine
end

section
/-! SUPPORT. What the issue of a word can change (R26, R43, R66): a state compared with another but for the positions and busy marks of the
streams, the instructions and effects under way, the job's fields and the faults. -/
namespace Sys2Proof.Machine

/-- A core but for what issue and freezing change of it. -/
def CoreState.unissued (k : CoreState) : CoreState :=
  { k with streams := CoreState.initial.streams, busy := CoreState.initial.busy, matrix := none, ropFrozen := false, trace := [] }

/-- What of a state neither issue nor a fault or a suspicion changes. -/
def State.unissued (s : State) : State :=
  { State.reset with
    cores := s.cores.map CoreState.unissued, wall := s.wall, sched := s.sched, hbm := s.hbm, fabric := s.fabric, counters := s.counters,
    image := s.image, regions := s.regions, cfg := s.cfg, links := s.links, ports := s.ports, clock := s.clock, power := s.power,
    therm := s.therm, flash := s.flash, boot := s.boot, pins := s.pins }

/-- The sessions, the event log, the Ethernet ports and the test status, which only a suspicion changes at issue. -/
def State.logs (s : State) : FcpState × LogState × Vector EthState 2 × TestState := (s.fcp, s.log, s.eth, s.test)

theorem unissued_modCore (c : Fin 8) {f : CoreState → CoreState} (s : State) (hf : (f (s.core c)).unissued = (s.core c).unissued) :
    (s.modCore c f).unissued = s.unissued := by
  have hcores : (s.modCore c f).cores.map CoreState.unissued = s.cores.map CoreState.unissued := by
    apply Vector.ext
    intro j hj
    simp only [State.modCore, State.setCore, Vector.getElem_map, Vector.getElem_set]
    split
    next e => subst e; exact hf
    next => rfl
  simp [State.unissued, hcores]

theorem unissued_advance (i : Issue) (n : Nat) (s : State) : (s.advance i n).unissued = s.unissued := unissued_modCore _ s rfl

theorem unissued_launch (i : Issue) (s u : State) : (s.launch i u).unissued = s.unissued := rfl

theorem unissued_freezeMaster (m : Nat) (s : State) : (s.freezeMaster m).unissued = s.unissued := by
  unfold State.freezeMaster
  dsimp only
  split
  iterate 3 next =>
    split
    · exact unissued_modCore _ s rfl
    · rfl
  · rfl
  · rfl

theorem unissued_raiseFault (r : FaultRec) (s : State) : (s.raiseFault r).unissued = s.unissued := by
  unfold State.raiseFault
  dsimp only
  generalize hu : State.freezeMaster _ _ = u
  have h : u.unissued = s.unissued := by
    rw [← hu, unissued_freezeMaster]
    split <;> rfl
  exact h

@[simp] theorem logs_raiseFault (r : FaultRec) (s : State) : (s.raiseFault r).logs = s.logs := by
  obtain ⟨k, a, b, f, st, j, h, -⟩ := raiseFault_only r s
  rw [h]
  rfl

theorem unissued_onlyLogs {s t : State} (h : OnlyLogs s t) : t.unissued = s.unissued := by
  obtain ⟨e, f, l, rfl⟩ := h
  rfl

theorem unissued_makeSuspect (a b c : Nat) (d : Bytes) (s : State) : (s.makeSuspect a b c d).unissued = s.unissued := by
  obtain ⟨h, x, j, hlogs, -⟩ := makeSuspect_only a b c d s
  exact (unissued_onlyLogs hlogs).trans rfl

theorem unissued_counterMismatch (i : Issue) (s : State) : (s.counterMismatch i).unissued = s.unissued :=
  (unissued_makeSuspect ..).trans (unissued_raiseFault ..)

theorem unissued_counterChange (i : Issue) (e : Effect) (s : State) : (counterChange i e s).unissued = s.unissued := by
  unfold counterChange
  split
  · rfl
  split
  · exact unissued_counterMismatch i s
  · rfl

/-- A counter operation that the secondary of a pair makes too, or that is not the primary's of a pair, changes no log. -/
theorem logs_counterChange {i : Issue} {s : State} (h : s.paired = false ∨ s.silent i.core = true ∨ s.mateIssues i = true) (e : Effect) :
    (counterChange i e s).logs = s.logs := by
  unfold counterChange
  obtain h | h | h := h <;> simp only [h, Bool.false_and, Bool.not_true, Bool.and_false, Bool.false_eq_true, if_false, if_true]
  all_goals (split <;> rfl)

theorem unissued_expectCheck (i : Issue) (s : State) : (expectCheck i s).unissued = s.unissued := by
  unfold expectCheck
  dsimp only
  split
  · rfl
  · exact unissued_raiseFault _ s

theorem unissued_issueCommon {i : Issue} {n : Nat} {f : State → State} {s : State} (hf : (f s).unissued = s.unissued) :
    (issueCommon i n f s).unissued = s.unissued := by
  unfold issueCommon
  split
  · exact (unissued_advance i n _).trans hf
  · rfl

theorem logs_issueCommon {i : Issue} {n : Nat} {f : State → State} {s : State} (hf : (f s).logs = s.logs) :
    (issueCommon i n f s).logs = s.logs := by
  unfold issueCommon
  split
  · exact hf
  · rfl

/-- A word of an engine issues, or its fault is raised: what issue changes, and no log. -/
theorem unissued_issueUnit (i : Issue) (plan : State → Origin → Plan) (s : State) :
    (s.issueUnit i plan).unissued = s.unissued ∧ (s.issueUnit i plan).logs = s.logs := by
  have hfault : ∀ r, ((s.advance i 0).raiseFault r).unissued = s.unissued ∧ ((s.advance i 0).raiseFault r).logs = s.logs := fun r =>
    ⟨(unissued_raiseFault r _).trans (unissued_advance i 0 s), logs_raiseFault r _⟩
  unfold State.issueUnit
  dsimp only
  split
  · exact ⟨rfl, rfl⟩
  split
  · exact hfault _
  split
  · exact hfault _
  · exact ⟨(unissued_launch ..).trans ((unissued_modCore _ _ rfl).trans (unissued_advance i 0 s)), rfl⟩

theorem unissued_issueMatrix (i : Issue) (plan : State → Origin → MatPlan) (s : State) :
    (s.issueMatrix i plan).unissued = s.unissued ∧ (s.issueMatrix i plan).logs = s.logs := by
  have hfault : ∀ r, ((s.advance i 0).raiseFault r).unissued = s.unissued ∧ ((s.advance i 0).raiseFault r).logs = s.logs := fun r =>
    ⟨(unissued_raiseFault r _).trans (unissued_advance i 0 s), logs_raiseFault r _⟩
  unfold State.issueMatrix
  dsimp only
  split
  · exact ⟨rfl, rfl⟩
  split
  · exact hfault _
  split
  · exact hfault _
  · exact ⟨(unissued_launch ..).trans ((unissued_modCore _ _ rfl).trans (unissued_advance i 0 s)), rfl⟩

/-- Whatever a stream's command is, its issue changes no more than what issue changes. -/
theorem IssuedAs.unissued {cmd : Issue → Instr} {i : Issue} {s t : State} (h : IssuedAs cmd i s t) : t.unissued = s.unissued := by
  cases h with
  | pass n => exact unissued_issueCommon rfl
  | change _ e => exact unissued_issueCommon (unissued_counterChange i e s)
  | check => exact unissued_issueCommon (unissued_expectCheck i s)
  | matrix plan => exact (unissued_issueMatrix i plan s).1
  | unit plan => exact (unissued_issueUnit i plan s).1

theorem IssuedAs.logs {cmd : Issue → Instr} {i : Issue} {s t : State} (h : IssuedAs cmd i s t)
    (hpair : cmd = .signal ∨ cmd = .set → s.paired = false ∨ s.silent i.core = true ∨ s.mateIssues i = true) : t.logs = s.logs := by
  cases h with
  | pass n => exact logs_issueCommon rfl
  | change hc e => exact logs_issueCommon (logs_counterChange (hpair hc) e)
  | check =>
    refine logs_issueCommon ?_
    unfold expectCheck
    dsimp only
    split
    · rfl
    · exact logs_raiseFault _ s
  | matrix plan => exact (unissued_issueMatrix i plan s).2
  | unit plan => exact (unissued_issueUnit i plan s).2

theorem worded_eq_next {ok : Bool} {s t : State} (h : worded ok s = .next t) : t = s := by
  cases ok <;> cases h
  rfl

/-- What issue leaves of a core. -/
theorem unissued_core {s t : State} (h : t.unissued = s.unissued) (c : Fin 8) : (t.core c).unissued = (s.core c).unissued := by
  have hcores : t.cores.map CoreState.unissued = s.cores.map CoreState.unissued := congrArg State.cores h
  simpa [State.core] using congrArg (fun v => v[c]) hcores

end Sys2Proof.Machine
end

section
/-! The statements on the common operations and on the frame of issue, settled. -/
namespace Sys2Proof.Machine

/-- Settles O11: what issue, faults and suspicions change of a state is none of these parts. -/
theorem issueFrame : Obligations.IssueFrame := by
  intro cmd hcmd i s t hexec
  obtain ⟨u, hword, hrun⟩ := exec_streamRow hcmd i s
  obtain rfl := worded_eq_next (hrun.symm.trans hexec)
  have h := hword.unissued
  refine ⟨fun c => ?core, (congrArg State.hbm h :), (congrArg State.fabric h :), (congrArg State.counters h :), (congrArg State.ports h :),
    (congrArg State.links h :), (congrArg State.clock h :), (congrArg State.power h :), (congrArg State.therm h :), (congrArg State.flash h :),
    (congrArg State.boot h :), (congrArg State.cfg h :), (congrArg State.image h :), (congrArg State.regions h :), (congrArg State.wall h :),
    (congrArg State.sched h :), (congrArg State.pins h :), fun hpair => ?logs⟩
  case core =>
    have hc := unissued_core h c
    exact ⟨(congrArg CoreState.mem hc :), (congrArg CoreState.anchors hc :), (congrArg CoreState.quanta hc :), (congrArg CoreState.groups hc :),
      (congrArg CoreState.sha hc :), (congrArg CoreState.vecFlags hc :), (congrArg CoreState.stepCalc hc :)⟩
  case logs =>
    have hl := hword.logs hpair
    exact ⟨(congrArg (·.1) hl :), (congrArg (·.2.1) hl :), (congrArg (·.2.2.1) hl :), (congrArg (·.2.2.2) hl :)⟩

/-- A suspicion leaves the fault log. -/
theorem makeSuspect_faults (a b c : Nat) (d : Bytes) (s : State) :
    (s.makeSuspect a b c d).faults = s.faults ∧ (s.makeSuspect a b c d).test.suspect = true
      ∧ (s.makeSuspect a b c d).counters = s.counters ∧ (s.makeSuspect a b c d).inflight = s.inflight := by
  obtain ⟨h, x, j, ⟨e, f, l, hs⟩, hx⟩ := makeSuspect_only a b c d s
  rw [hs]
  exact ⟨rfl, hx, rfl, rfl⟩

/-- Settles O7: each common operation issues as its meaning; the mismatch of a pair is a fault of the primary's sequencer and a suspicion,
which changes no counter. -/
theorem commonWords : Obligations.CommonWords := by
  refine ⟨fun i s hissue => ⟨fun hf => ?nop, fun hf => ?delay, fun hf => ?signal, fun hf => ?set, fun hf hfound => ?expect⟩,
    fun i s hempty => ?mismatch⟩
  case nop => change worded _ _ = _; rw [hf, worded_true, issueCommon, if_pos hissue]
  case delay => change worded _ _ = _; rw [hf, worded_true, issueCommon, if_pos hissue]
  case signal => change worded _ _ = _; rw [hf, worded_true, issueCommon, if_pos hissue]; rfl
  case set => change worded _ _ = _; rw [hf, worded_true, issueCommon, if_pos hissue]; rfl
  case expect => change worded _ _ = _; rw [hf, worded_true, issueCommon, if_pos hissue, expectCheck, if_pos hfound]
  case mismatch =>
    let r := faultRec 3 (seqMaster i.core i.unit) 0xFFFF 1 0 0 (s.headIndex i) (issueOpcode i) 0 0 (crc32c []).toNat
    obtain ⟨hfaults, hsuspect, hcounters, hinflight⟩ :=
      makeSuspect_faults 2 0xFF 0xFF ((((s.raiseFault r).faults.job.head?).map FaultRec.bytes).getD []) (s.raiseFault r)
    obtain ⟨k, a, b, f, st, j, hr, -⟩ := raiseFault_only r s
    refine ⟨⟨s.stampRecord r, ?_, rfl, rfl, rfl⟩, hsuspect, hcounters.trans ?_, hinflight.trans ?_⟩
    · exact (congrArg FaultLog.job hfaults).trans (raiseFault_faults_of_empty hempty r)
    · rw [hr]
    · rw [hr]

end Sys2Proof.Machine
end

section
/-! SUPPORT. What of an ac's end leaves the counts, and whether the schedule runs, as they are (R39): accesses, faults, notices, tokens. -/
namespace Sys2Proof.Machine

/-- The counts and what decides whether the schedule runs. -/
def State.time (s : State) : U64 × U64 × JobState × Bool × Bool := (s.wall, s.sched, s.job.st, s.job.starting, s.clock.relocking)

theorem scheduleRuns_of_time {s t : State} (h : t.time = s.time) : t.scheduleRuns = s.scheduleRuns := by
  simp only [State.time, Prod.mk.injEq] at h
  obtain ⟨-, -, hst, hstarting, hlock⟩ := h
  simp only [State.scheduleRuns, hst, hstarting, hlock]

/-- What no effect changes as it lands: the counts, what decides whether the schedule runs, the configuration and what is under way (R43). -/
def State.landFrame (s : State) : (U64 × U64 × JobState × Bool × Bool) × CfgRegs × List Timed := (s.time, s.cfg, s.inflight)

theorem time_of_landFrame {s t : State} (h : t.landFrame = s.landFrame) : t.time = s.time := congrArg Prod.fst h

theorem foldl_same {α β : Type} (g : State → β) {f : State → α → State} (hf : ∀ s x, g (f s x) = g s) (l : List α) (s : State) :
    g (l.foldl f s) = g s := by
  induction l generalizing s with
  | nil => rfl
  | cons a t ih => exact (ih (f s a)).trans (hf s a)

theorem OnlyLogs.landFrame {s t : State} (h : OnlyLogs s t) : t.landFrame = s.landFrame := by
  obtain ⟨e, f, l, rfl⟩ := h
  rfl

theorem OnlyLogs.time {s t : State} (h : OnlyLogs s t) : t.time = s.time := time_of_landFrame h.landFrame

/-! ### Effects (R43, R230, R231) -/

theorem raiseFault_landFrame (r : FaultRec) (s : State) : (s.raiseFault r).landFrame = s.landFrame := by
  obtain ⟨k, a, b, f, st, j, h, hst, hstarting⟩ := raiseFault_only r s
  simp only [h, State.landFrame, State.time, hst, hstarting]

theorem makeSuspect_landFrame (a b c : Nat) (d : Bytes) (s : State) : (s.makeSuspect a b c d).landFrame = s.landFrame := by
  obtain ⟨h, x, j, hlogs, -⟩ := makeSuspect_only a b c d s
  exact hlogs.landFrame

theorem countCorrected_landFrame (hbm : Bool) (n : Nat) (s : State) : (s.countCorrected hbm n).landFrame = s.landFrame := by
  unfold State.countCorrected
  dsimp only
  exact foldl_same State.landFrame (fun u _ => (event_onlyLogs ..).landFrame) _ _

theorem addRepair_landFrame (e : Nat) (s : State) : (s.addRepair e).landFrame = s.landFrame := by
  unfold State.addRepair
  dsimp only
  split <;> rfl

theorem correctedRow_landFrame (row : Nat) (s : State) : (s.correctedRow row).landFrame = s.landFrame := by
  unfold State.correctedRow
  dsimp only
  split
  · exact (addRepair_landFrame _ _).trans (countCorrected_landFrame ..)
  · exact countCorrected_landFrame ..

theorem apply_landFrame (e : Effect) (s : State) : (s.apply e).landFrame = s.landFrame := by
  cases e with
  | ratioBand => exact (event_onlyLogs ..).landFrame
  | fault r => exact raiseFault_landFrame r s
  | corrected b n => exact countCorrected_landFrame b n s
  | rowCorrected a => exact correctedRow_landFrame _ s
  | suspect => exact makeSuspect_landFrame ..
  | repair e => exact addRepair_landFrame e s
  | _ => rfl

theorem spoilRead_landFrame (x u : BankUse) (s : State) : (s.spoilRead x u).landFrame = s.landFrame := by
  unfold State.spoilRead
  split
  · rfl
  · refine foldl_same State.landFrame (fun t i => ?_) _ _
    rfl

theorem spoilReads_landFrame (used : List BankUse) (u : BankUse) (s : State) : (s.spoilReads used u).landFrame = s.landFrame := by
  refine foldl_same State.landFrame (fun t x => ?_) _ _
  split
  · rfl
  split
  · exact spoilRead_landFrame ..
  split
  · rfl
  · exact spoilRead_landFrame ..

theorem correctedMarks_landFrame (n : Nat) (s : State) : (if n = 0 then s else s.countCorrected false n).landFrame = s.landFrame := by
  split
  · rfl
  · exact countCorrected_landFrame ..

theorem landOne_landFrame (acc : State × List BankUse) (t : Timed) : (landOne acc t).1.landFrame = acc.1.landFrame := by
  obtain ⟨s, used⟩ := acc
  unfold landOne
  dsimp only
  split
  · exact apply_landFrame ..
  split
  · exact (raiseFault_landFrame ..).trans (spoilReads_landFrame ..)
  split
  · exact raiseFault_landFrame ..
  · exact (apply_landFrame ..).trans (correctedMarks_landFrame ..)

theorem landAll_landFrame (l : List Timed) (acc : State × List BankUse) : (l.foldl landOne acc).1.landFrame = acc.1.landFrame := by
  induction l generalizing acc with
  | nil => rfl
  | cons t l ih => exact (ih (landOne acc t)).trans (landOne_landFrame acc t)

theorem landEarly_landFrame (s : State) : s.landEarly.landFrame = s.landFrame := landAll_landFrame _ (s, [])

theorem settle_landFrame (t : Timed) (s : State) : (s.settle t).landFrame = s.landFrame := by
  unfold State.settle
  split
  · split
    · rfl
    · exact apply_landFrame ..
  · exact apply_landFrame ..

theorem refreshBusy_landFrame (s : State) : s.refreshBusy.landFrame = s.landFrame := by
  refine foldl_same State.landFrame (fun t r => ?_) _ _
  split
  · rfl
  · split <;> rfl

/-- The state when all effects of an ac have taken place, before what has ended leaves (R43). -/
def State.settled (s : State) : State :=
  let rest := s.landEarly.effectsNow.filter (fun t => !t.early)
  (rest.filter (fun t => t.eff.isFault) ++ rest.filter (fun t => !t.eff.isFault)).foldl State.settle s.landEarly

theorem settled_landFrame (s : State) : s.settled.landFrame = s.landFrame :=
  (foldl_same State.landFrame (fun u t => settle_landFrame t u) _ _).trans (landEarly_landFrame s)

/-- What of an ac that has passed stays under way (R43). -/
def State.leaveDue (s : State) : State := { s with inflight := s.inflight.filter (fun t => decide (s.now < t.at_)) }

/-- Instructions that have ended leave, while the schedule runs (R69, R353). -/
def State.leaveEnded (s : State) : State := if s.scheduleRuns then s.refreshBusy.retire else s

theorem land_eq (s : State) : s.land = s.settled.leaveDue.leaveEnded := rfl

theorem leaveEnded_landFrame (s : State) : s.leaveEnded.landFrame = s.landFrame := by
  unfold State.leaveEnded
  split
  · exact refreshBusy_landFrame s
  · rfl

theorem leaveDue_time (s : State) : s.leaveDue.time = s.time := rfl

theorem land_time (s : State) : s.land.time = s.time := calc
  s.land.time = s.settled.leaveDue.time := time_of_landFrame (leaveEnded_landFrame _)
  _ = s.settled.time := leaveDue_time _
  _ = s.time := time_of_landFrame (settled_landFrame s)

/-! ### The rest of an ac's end (R21, R89, R236, R249, R274) -/

theorem failPort_time (p : Fin 16) (s : State) : (s.failPort p).time = s.time := by
  unfold State.failPort
  split
  · rfl
  · exact (event_onlyLogs ..).time

theorem askAgain_time (p : Fin 16) (s : State) : (s.askAgain p).time = s.time := by
  refine foldl_same State.time (fun u d => ?_) _ _
  unfold State.askFor
  split
  · exact failPort_time p u
  · rfl

theorem raiseFaultEvent_time (s : State) : s.raiseFaultEvent.time = s.time := by
  unfold State.raiseFaultEvent
  split
  · exact (event_onlyLogs ..).time
  · rfl

theorem endSoak_time (s : State) : s.endSoak.time = s.time :=
  foldl_same State.time (fun _ _ => (eventAt_onlyLogs ..).time) (s.links.soakCause.toNat :: s.links.joined) s

theorem clearCause_time (c t : Nat) (s : State) : (s.clearCause c t).time = s.time := by
  unfold State.clearCause
  dsimp only
  split
  · rfl
  split
  · exact endSoak_time _
  · rfl

theorem releaseCkpt_time (s : State) : s.releaseCkpt.time = s.time := by
  unfold State.releaseCkpt
  split
  · exact clearCause_time ..
  · rfl

theorem landAc_time (s : State) : s.landAc.time = s.settleToken.time := by
  change (if _ then _ else _ : State).time = _
  split
  · exact land_time _
  · rfl

theorem askAll_time (s : State) : (if s.jobOn then allPorts.foldl (fun t p => t.askAgain p) s else s).time = s.time := by
  split
  · exact foldl_same State.time (fun t p => askAgain_time p t) _ _
  · rfl

theorem trackLoop_time (s : State) : s.trackLoop.time = s.time := rfl

/-- The accesses of an ac, the requests for damaged flits, the fault event and the hold loop leave the counts to the counting itself. -/
theorem passAc_eq_count (s : State) : ∃ u : State, s.passAc = u.count ∧ u.time = s.settleToken.time :=
  ⟨_, rfl, calc
    _ = _ := trackLoop_time _
    _ = _ := releaseCkpt_time _
    _ = _ := raiseFaultEvent_time _
    _ = _ := askAll_time _
    _ = _ := landAc_time s⟩

theorem count_counts (s : State) :
    s.count.wall = s.wall + 1 ∧ s.count.sched = if s.scheduleRuns then s.sched + 1 else s.sched := by
  unfold State.count
  dsimp only
  split
  case isTrue h =>
    have h' : s.scheduleRuns = false := (Bool.not_eq_true' _).mp h
    rw [h']
    exact ⟨rfl, rfl⟩
  case isFalse h =>
    have h' : s.scheduleRuns = true := by
      cases hr : s.scheduleRuns with
      | true => rfl
      | false => exact absurd ((Bool.not_eq_true' _).mpr hr) h
    rw [h']
    split <;> exact ⟨rfl, rfl⟩

/-! ### What only the wall count shows, or neither count (R284, R285, R336, R364) -/

theorem OnlyLogs.counts {s t : State} (h : OnlyLogs s t) : t.wall = s.wall ∧ t.sched = s.sched := by
  obtain ⟨e, f, l, rfl⟩ := h
  exact ⟨Eq.refl s.wall, Eq.refl s.sched⟩

@[simp] theorem event_counts (k : Nat) (d x : Bytes) (s : State) : (s.event k d x).wall = s.wall ∧ (s.event k d x).sched = s.sched :=
  (event_onlyLogs ..).counts

@[simp] theorem setJobState_counts (st : JobState) (k : Nat) (s : State) :
    (s.setJobState st k).wall = s.wall ∧ (s.setJobState st k).sched = s.sched := by
  obtain ⟨sel, h⟩ := setJobState_only st k s
  exact h.counts

@[simp] theorem clearTokens_counts (s : State) : s.clearTokens.wall = s.wall ∧ s.clearTokens.sched = s.sched := ⟨rfl, rfl⟩

@[simp] theorem clearRestart_counts (s : State) : s.clearRestart.wall = s.wall ∧ s.clearRestart.sched = s.sched := ⟨rfl, rfl⟩

@[simp] theorem recordHold_counts (r : BarrierRec) (s : State) :
    (s.recordHold r).wall = s.wall ∧ (s.recordHold r).sched = s.sched :=
  (eventAt_onlyLogs 2 0 s.now s.job.holdWall (holdData s.wall.toNat r.id s.job.holdCause) [] s).counts

@[simp] theorem endSoak_counts (s : State) : s.endSoak.wall = s.wall ∧ s.endSoak.sched = s.sched := by
  have h := endSoak_time s
  simp only [State.time, Prod.mk.injEq] at h
  exact ⟨h.1, h.2.1⟩

@[simp] theorem endStand_counts (s : State) : s.endStand.wall = s.wall ∧ s.endStand.sched = s.sched := by
  unfold State.endStand
  dsimp only
  (repeat' split) <;> simp

@[simp] theorem haltAt_counts (how : Resume) (s : State) : (s.haltAt how).wall = s.wall ∧ (s.haltAt how).sched = s.sched := by
  simp [State.haltAt]

@[simp] theorem noteWaits_counts (r : BarrierRec) (s : State) :
    (s.noteWaits r).wall = s.wall ∧ (s.noteWaits r).sched = s.sched := ⟨rfl, rfl⟩

@[simp] theorem barrierTokens_counts (r : BarrierRec) (b : Nat) (s : State) :
    (s.barrierTokens r b).wall = s.wall ∧ (s.barrierTokens r b).sched = s.sched := by
  unfold State.barrierTokens
  (repeat' split) <;> exact ⟨rfl, rfl⟩

@[simp] theorem watchBarrier_counts (s : State) : s.watchBarrier.wall = s.wall ∧ s.watchBarrier.sched = s.sched := by
  unfold State.watchBarrier
  (repeat' split) <;> simp

@[simp] theorem haltStanding_counts (s : State) : s.haltStanding.wall = s.wall ∧ s.haltStanding.sched = s.sched := by
  unfold State.haltStanding
  split
  · exact haltAt_counts ..
  · exact ⟨rfl, rfl⟩

@[simp] theorem watchRestart_counts (s : State) : s.watchRestart.wall = s.wall ∧ s.watchRestart.sched = s.sched := by
  unfold State.watchRestart
  dsimp only
  (repeat' split) <;> exact haltStanding_counts s

@[simp] theorem suspectHold_counts (s : State) : s.suspectHold.wall = s.wall ∧ s.suspectHold.sched = s.sched := by
  unfold State.suspectHold
  split
  · exact haltAt_counts ..
  · exact ⟨rfl, rfl⟩

theorem drainNotice_counts (s : State) : s.drainNotice.wall = s.wall ∧ s.drainNotice.sched = s.sched := by
  unfold State.drainNotice
  split
  · exact ⟨rfl, rfl⟩
  · split
    · exact (notify_onlyLogs ..).counts
    · exact ⟨rfl, rfl⟩

@[simp] theorem drainNotices_counts (n : Nat) (s : State) :
    (State.drainNotices n s).wall = s.wall ∧ (State.drainNotices n s).sched = s.sched := by
  induction n generalizing s with
  | zero => exact ⟨rfl, rfl⟩
  | succ n ih =>
    obtain ⟨hw, hs⟩ := drainNotice_counts s
    obtain ⟨iw, is⟩ := ih s.drainNotice
    exact ⟨iw.trans hw, is.trans hs⟩

/-! ### The actions of a barrier leave the schedule cycle (R79, R174, R336) -/

theorem setReg_sched (n inst v bits : Nat) (s : State) : (s.setReg n inst v bits).sched = s.sched := by
  unfold State.setReg
  split
  case h_9 =>
    split
    · unfold State.clearFaultLog
      split <;> rfl
    · rfl
  case h_22 =>
    dsimp only
    split
    · exact (congrArg (·.1.2.1) (makeSuspect_landFrame ..) :)
    · rfl
  all_goals (repeat' split) <;> rfl

theorem activateReg_sched (seq : Nat) (due : List Shadow) (reg : Nat) (s : State) : (activateReg seq due reg s).sched = s.sched := by
  unfold activateReg
  dsimp only
  split
  · rfl
  · exact (event_counts ..).2.trans (setReg_sched ..)

@[simp] theorem activate_sched (seq : Nat) (exact' : Bool) (s : State) : (s.activate seq exact').sched = s.sched :=
  foldl_same State.sched (fun u r => activateReg_sched seq _ r u) _ _

@[simp] theorem captureCommit_sched (r : BarrierRec) (s : State) : (s.captureCommit r).sched = s.sched := by
  unfold State.captureCommit State.startStream
  dsimp only
  (repeat' split) <;> rfl

@[simp] theorem stepNotice_sched (ab : Bool) (t g : Nat) (b : Bytes) (s : State) : (stepNotice ab t g b s).sched = s.sched := by
  unfold stepNotice
  dsimp only
  (repeat' split) <;> simp

@[simp] theorem commit_sched (s : State) : s.commit.sched = s.sched := by
  simp [State.commit, State.apply]

@[simp] theorem opPointAction_sched (seq : Nat) (s : State) : (s.opPointAction seq).sched = s.sched := by
  unfold State.opPointAction State.switchPoint
  dsimp only
  (repeat' split) <;> simp

@[simp] theorem takeRings_sched (l : List Take) (s : State) : (l.foldl takeRing s).sched = s.sched :=
  foldl_same State.sched (f := takeRing) (fun _ _ => rfl) l s

@[simp] theorem inputLow_sched (s : State) : s.inputLow.sched = s.sched := by
  unfold State.inputLow
  dsimp only
  (repeat' split) <;> simp

@[simp] theorem actionsFrom4_sched (r : BarrierRec) (s : State) : (s.actionsFrom4 r).sched = s.sched := by
  unfold State.actionsFrom4
  dsimp only
  (repeat' split) <;> simp

@[simp] theorem barrierActions_sched (r : BarrierRec) (s : State) : (s.barrierActions r).sched = s.sched := by
  unfold State.barrierActions
  dsimp only
  (repeat' split) <;> simp

@[simp] theorem takeStop_sched (cause : Nat) (loc : Bool) (port x : Nat) (s : State) : (s.takeStop cause loc port x).sched = s.sched := by
  unfold State.takeStop
  split <;> rfl

@[simp] theorem raiseSoak_sched (cause tag : Nat) (held : Bool) (s : State) : (s.raiseSoak cause tag held).sched = s.sched := by
  unfold State.raiseSoak
  dsimp only
  (repeat' split) <;> simp

@[simp] theorem beginHold_sched (r : BarrierRec) (cause : Nat) (s : State) : (s.beginHold r cause).sched = s.sched := by
  unfold State.beginHold
  dsimp only
  (repeat' split) <;> simp

theorem settleToken_sched (s : State) : s.settleToken.sched = s.sched := by
  unfold State.settleToken
  dsimp only
  (repeat' split) <;> simp

end Sys2Proof.Machine
end
section
/-! PROOF. A step on an empty queue, case by case of `State.tick`. -/
namespace Sys2Proof.Machine

/-- What an ac's end begins with: the ac passes, but while the root relocks (R337). -/
def State.startAc (s : State) : State := if s.clock.relocking then s else s.passAc

theorem startAc_counts (s : State) :
    s.startAc.wall = (if s.clock.relocking then s.wall else s.settleToken.wall + 1)
    ∧ s.startAc.sched = (if !s.clock.relocking && s.settleToken.scheduleRuns then s.sched + 1 else s.sched) := by
  unfold State.startAc
  cases s.clock.relocking with
  | true => exact ⟨rfl, rfl⟩
  | false =>
    obtain ⟨u, hpass, htime⟩ := passAc_eq_count s
    obtain ⟨hwall, hsched⟩ := count_counts u
    have hruns := scheduleRuns_of_time htime
    simp only [State.time, Prod.mk.injEq] at htime
    obtain ⟨htw, hts, -⟩ := htime
    simp [hpass, hwall, hsched, hruns, htw, hts, settleToken_sched]

theorem watchTokens_counts (s : State) :
    (if s.clock.relocking then s else s.watchBarrier.watchRestart.suspectHold).wall = s.wall
    ∧ (if s.clock.relocking then s else s.watchBarrier.watchRestart.suspectHold).sched = s.sched := by
  split
  · exact ⟨rfl, rfl⟩
  · simp

/-- The counts at the end of an ac: they move while it passes, and stay while the root relocks (R39, R337). -/
theorem endAc_counts (s : State) :
    s.endAc.wall = (if s.clock.relocking then s.wall else s.settleToken.wall + 1)
    ∧ s.endAc.sched = (if !s.clock.relocking && s.settleToken.scheduleRuns then s.sched + 1 else s.sched) := by
  obtain ⟨hww, hws⟩ := watchTokens_counts
    (State.drainNotices s.startAc.log.waiting.length { s.startAc with eth := s.startAc.eth.map (EthState.drain s.startAc.divider) })
  obtain ⟨hdw, hds⟩ := drainNotices_counts s.startAc.log.waiting.length
    { s.startAc with eth := s.startAc.eth.map (EthState.drain s.startAc.divider) }
  obtain ⟨hw, hs⟩ := startAc_counts s
  exact ⟨hww.trans (hdw.trans hw), hws.trans (hds.trans hs)⟩

/-- Settles O12: a step on an empty queue is `State.tick`; its last case by the counts of `State.endAc` (`endAc_counts`). -/
theorem timePasses : Obligations.TimePasses := by
  intro s hq
  have hstep : step s = .next s.tick := by simp [step, hq]
  refine ⟨fun ha => ?_, fun ha ho => ?_, fun ha ho => ?_⟩
  · rw [hstep]; simp [State.tick, ha]
  · rw [hstep]; simp [State.tick, ha, ho]
  · have htick : s.tick = s.endAc := by simp [State.tick, ha, ho]
    obtain ⟨hw, hs⟩ := endAc_counts s
    refine ⟨s.endAc, by rw [hstep, htick], (endAc_kept s).1.trans hq, rfl, hw, hs, fun h => ?_⟩
    simp [State.settleToken, h]

end Sys2Proof.Machine
end

section
/-! SUPPORT. What one effect stores (R43, R137, R228, R270): every other byte of a slice and of HBM keeps its value. -/
namespace Sys2Proof.Machine

theorem leBytes_length (n x : Nat) : (leBytes n x).length = n := by
  induction n generalizing x with
  | zero => rfl
  | succ n ih => simp [leBytes, ih]

theorem i48Bytes_length (x : Int) : (i48Bytes x).length = 8 := leBytes_length ..

theorem slotBytes_length (g : Gather) : g.slotBytes.length = 16 := by simp [Gather.slotBytes, leBytes_length, le16]

/-- Cores with the memories of another state's read as its cores. -/
theorem core_mem_of_mems {s t : State} (h : Vector.map CoreState.mem t.cores = Vector.map CoreState.mem s.cores) (c : Fin 8) :
    (t.core c).mem = (s.core c).mem := by
  simpa [State.core] using congrArg (fun v : Vector Memory 8 => v[c]) h

/-- A byte outside an extent that starts at `a` and holds `n` bytes. -/
theorem outside_of_not_within {x a n : Nat} (h : ¬(a ≤ x ∧ x < a + n)) : x < a ∨ a + n ≤ x := by omega

theorem modCore_read {f : CoreState → CoreState} {c d : Fin 8} {s : State} {x : Nat}
    (h : c = d → (f (s.core c)).mem.read x = (s.core c).mem.read x) : ((s.modCore c f).core d).mem.read x = (s.core d).mem.read x := by
  by_cases hc : d = c
  · subst hc
    simpa using h (Eq.refl d)
  · simp [Ne.symm hc]

/-- The i48 add stores its word, and OVF into the working slot where it saturates (R137, R270). -/
theorem read_add48 (m : Memory) (a slot : Nat) (v : Int) {x : Nat} (hword : x < (spTarget .plain a).2 ∨ (spTarget .plain a).2 + 8 ≤ x)
    (hslot : x < slot ∨ slot + 16 ≤ x) :
    (if (spAdd48 m a v).2 then spWrite .set (spAdd48 m a v).1 slot (Gather.slotBytes ⟨0, true, false, false⟩) else (spAdd48 m a v).1).read x
      = m.read x := by
  have hadd : (spAdd48 m a v).1.read x = m.read x := by
    rw [spAdd48_mem]
    exact read_spWrite_ne _ _ _ _ (by rwa [i48Bytes_length])
  split
  · exact (read_spWrite_ne _ _ _ _ (by rwa [slotBytes_length])).trans hadd
  · exact hadd

theorem outside_of_not_stores_i48 {c' c : Fin 8} {b p id w x : Nat} {v : Int} (hc : c' = c)
    (h : ¬ (Effect.i48 c' b p id v).stores w c x) :
    (x < (spTarget .plain b).2 ∨ (spTarget .plain b).2 + 8 ≤ x) ∧ (x < w + 16 * id ∨ w + 16 * id + 16 ≤ x) := by
  simp only [Effect.stores, hc, true_and, not_or] at h
  obtain ⟨hword, hslot⟩ := h
  exact ⟨outside_of_not_within hword, outside_of_not_within hslot⟩

theorem apply_slice_read (e : Effect) (s : State) (c : Fin 8) (x : Nat) (h : ¬ e.stores s.cfg.workBase.toNat c x) :
    ((s.apply e).core c).mem.read x = (s.core c).mem.read x := by
  cases e with
  | sp c' b op p d =>
    refine modCore_read fun hc => read_spWrite_ne _ _ _ d (outside_of_not_within fun hx => h ⟨hc, hx⟩)
  | i48 c' b p id v =>
    simp only [State.apply]
    refine Eq.trans (modCore_read fun hc => ?_) (Eq.refl ((s.core c).mem.read x))
    obtain ⟨hword, hslot⟩ := outside_of_not_stores_i48 hc h
    dsimp only
    rw [show ((s.remember (some c') (spOffset b) 8).remember (some c') (s.cfg.workBase.toNat + 16 * id) 16).core c' = s.core c' from rfl]
    exact read_add48 _ b _ v hword hslot
  | slotOr c' id g =>
    simp only [Effect.stores, not_and] at h
    simp only [State.apply]
    refine Eq.trans (modCore_read fun hc => ?_) (Eq.refl ((s.core c).mem.read x))
    dsimp only
    rw [show (s.remember (some c') (s.cfg.workBase.toNat + 16 * id) 16).core c' = s.core c' from rfl]
    refine read_spWrite_ne .set _ _ g.slotBytes ?_
    rw [slotBytes_length]
    exact outside_of_not_within (not_and.mpr (h hc))
  | vecDone => exact modCore_read fun _ => rfl
  | tables => exact modCore_read fun _ => rfl
  | normAdd => exact modCore_read fun _ => rfl
  | groupSet => exact modCore_read fun _ => rfl
  | lanesAdd => exact modCore_read fun _ => rfl
  | stepCalc => exact modCore_read fun _ => rfl
  | shaSlot => exact modCore_read fun _ => rfl
  | crossed => exact modCore_read fun _ => rfl
  | gnorm => simp [State.apply, State.core]
  | ratioBand => exact congrArg (Memory.read · x) (core_mem_of_mems (by simp [State.apply]) c)
  | fault r => exact congrArg (Memory.read · x) (core_mem_of_mems (by simp [State.apply]) c)
  | corrected b n => exact congrArg (Memory.read · x) (core_mem_of_mems (by simp [State.apply]) c)
  | rowCorrected a => exact congrArg (Memory.read · x) (core_mem_of_mems (by simp [State.apply]) c)
  | suspect => exact congrArg (Memory.read · x) (core_mem_of_mems (by simp [State.apply]) c)
  | repair e => exact congrArg (Memory.read · x) (core_mem_of_mems (by simp [State.apply]) c)
  | _ => rfl

theorem apply_hbm_read (e : Effect) (s : State) (x : Nat) (h : ¬ e.storesHbm x) : (s.apply e).hbm.mem.read x = s.hbm.mem.read x := by
  cases e with
  | hbm a d => exact Memory.read_writeBytes_ne _ a d x (outside_of_not_within h)
  | ratioBand => simp [State.apply]
  | fault r => simp [State.apply]
  | corrected b n => simp [State.apply]
  | rowCorrected a => simp [State.apply]
  | suspect => simp [State.apply]
  | repair e => simp [State.apply]
  | _ => rfl

/-! ### The landing of all effects of an ac -/

/-- A byte of a memory, which an effect changes only where it is one that `stores` names. -/
structure ByteOf (g : State → Byte) (work : Nat) (stores : Effect → Prop) : Prop where
  same : ∀ s t : State, SameMems s t → g t = g s
  apply : ∀ (e : Effect) (s : State), s.cfg.workBase.toNat = work → ¬ stores e → g (s.apply e) = g s

theorem sliceByteOf (c : Fin 8) (x work : Nat) : ByteOf (fun s => (s.core c).mem.read x) work (fun e => e.stores work c x) where
  same _ _ h := congrArg (Memory.read · x) (core_mem_of_mems h.1.1 c)
  apply e s hw h := apply_slice_read e s c x (by rwa [hw])

theorem hbmByteOf (x work : Nat) : ByteOf (fun s => s.hbm.mem.read x) work (fun e => e.storesHbm x) where
  same _ _ h := congrArg (Memory.read · x) h.1.2.1
  apply e s _ h := apply_hbm_read e s x h

/-- Landing an effect does at most the effect to the memories; a collision or a bad code word leaves them (R231, R232). -/
theorem landOne_cases (acc : State × List BankUse) (t : Timed) :
    ∃ u, SameMems acc.1 u ∧ u.landFrame = acc.1.landFrame ∧ ((landOne acc t).1 = u ∨ (landOne acc t).1 = u.apply t.eff) := by
  obtain ⟨s, used⟩ := acc
  unfold landOne
  dsimp only
  split
  · exact ⟨s, .rfl, rfl, .inr rfl⟩
  split
  · exact ⟨_, by simp [SameMems], (raiseFault_landFrame ..).trans (spoilReads_landFrame ..), .inl rfl⟩
  split
  · exact ⟨_, by simp [SameMems], raiseFault_landFrame .., .inl rfl⟩
  · exact ⟨_, by simp [SameMems], correctedMarks_landFrame .., .inr rfl⟩

theorem settle_cases (t : Timed) (s : State) : s.settle t = s ∨ s.settle t = s.apply t.eff := by
  unfold State.settle
  split
  · split
    · exact .inl rfl
    · exact .inr rfl
  · exact .inr rfl

theorem workBase_of_landFrame {s t : State} (h : t.landFrame = s.landFrame) : t.cfg.workBase = s.cfg.workBase :=
  congrArg (·.2.1.workBase) h

section
variable {g : State → Byte} {work : Nat} {stores : Effect → Prop} (hg : ByteOf g work stores)
include hg

theorem ByteOf.landOne {acc : State × List BankUse} {t : Timed} (hw : acc.1.cfg.workBase.toNat = work) (ht : ¬ stores t.eff) :
    g (landOne acc t).1 = g acc.1 := by
  obtain ⟨u, hmems, hframe, h | h⟩ := landOne_cases acc t
  · rw [h, hg.same _ _ hmems]
  · rw [h, hg.apply _ _ (by rw [workBase_of_landFrame hframe, hw]) ht, hg.same _ _ hmems]

theorem ByteOf.settle {s : State} {t : Timed} (hw : s.cfg.workBase.toNat = work) (ht : ¬ stores t.eff) : g (s.settle t) = g s := by
  obtain h | h := settle_cases t s
  · rw [h]
  · rw [h, hg.apply _ _ hw ht]

theorem ByteOf.landAll (l : List Timed) (acc : State × List BankUse) (hw : acc.1.cfg.workBase.toNat = work)
    (hl : ∀ t ∈ l, ¬ stores t.eff) : g (l.foldl Machine.landOne acc).1 = g acc.1 := by
  induction l generalizing acc with
  | nil => rfl
  | cons t l ih =>
    have hw' : (Machine.landOne acc t).1.cfg.workBase.toNat = work := by rw [workBase_of_landFrame (landOne_landFrame acc t), hw]
    exact (ih _ hw' fun x hx => hl x (.tail _ hx)).trans (hg.landOne hw (hl t (.head _)))

theorem ByteOf.settleAll (l : List Timed) (s : State) (hw : s.cfg.workBase.toNat = work) (hl : ∀ t ∈ l, ¬ stores t.eff) :
    g (l.foldl State.settle s) = g s := by
  induction l generalizing s with
  | nil => rfl
  | cons t l ih =>
    have hw' : (s.settle t).cfg.workBase.toNat = work := by rw [workBase_of_landFrame (settle_landFrame t s), hw]
    exact (ih _ hw' fun x hx => hl x (.tail _ hx)).trans (hg.settle hw (hl t (.head _)))

end

theorem leaveEnded_sameMems (s : State) : SameMems s s.leaveEnded := by
  unfold State.leaveEnded
  split
  · simp [SameMems, State.retire]
  · exact .rfl

theorem leaveDue_sameMems (s : State) : SameMems s s.leaveDue := by simp [SameMems, State.leaveDue]

theorem leaveDue_inflight {s t : State} (hnow : s.now = t.now) (hflight : s.inflight = t.inflight) :
    s.leaveDue.inflight = t.inflight.filter (fun x => decide (t.now < x.at_)) := by
  unfold State.leaveDue
  dsimp only
  rw [hnow, hflight]

theorem leaveEnded_inflight (s : State) : s.leaveEnded.inflight = s.inflight := by
  have h := leaveEnded_landFrame s
  simp only [State.landFrame, Prod.mk.injEq] at h
  obtain ⟨-, -, h⟩ := h
  exact h

theorem mem_dueOrder {l : List Timed} {t : Timed} (h : t ∈ dueOrder l) : t ∈ l := by
  simp only [dueOrder, List.mem_append, List.mem_flatMap, List.mem_filter] at h
  obtain (⟨h, -⟩ | ⟨_, -, _, -, ⟨h, -⟩, -⟩) | ⟨⟨h, -⟩, -⟩ := h <;> exact h

/-- A byte that no effect of the ac stores to (R43). -/
theorem ByteOf.land {g : State → Byte} {stores : Effect → Prop} {s : State} (hg : ByteOf g s.cfg.workBase.toNat stores)
    (hearly : ∀ x ∈ s.effectsNow, x.early = true → ¬ stores x.eff)
    (hrest : ∀ x ∈ s.landEarly.effectsNow, x.early = false → ¬ stores x.eff) : g s.land = g s := by
  have hlate : g s.settled = g s.landEarly := by
    refine hg.settleAll _ _ (by rw [workBase_of_landFrame (landEarly_landFrame s)]) fun t ht => ?_
    simp only [List.mem_append, List.mem_filter, Bool.not_eq_true'] at ht
    obtain ⟨⟨hmem, hlate⟩, -⟩ | ⟨⟨hmem, hlate⟩, -⟩ := ht <;> exact hrest t hmem hlate
  have hfirst : g s.landEarly = g s := by
    refine hg.landAll _ (s, []) rfl fun t ht => ?_
    obtain ⟨hmem, he⟩ := List.mem_filter.mp (mem_dueOrder ht)
    exact hearly t hmem he
  have hleft : g s.settled.leaveDue = g s.settled := hg.same _ _ (leaveDue_sameMems _)
  rw [land_eq, hg.same _ _ (leaveEnded_sameMems _), hleft, hlate, hfirst]

theorem land_inflight (s : State) : s.land.inflight = s.inflight.filter (fun t => decide (s.now < t.at_)) := by
  have hframe := settled_landFrame s
  simp only [State.landFrame, State.time, Prod.mk.injEq] at hframe
  obtain ⟨⟨-, hsched, -⟩, -, hunder⟩ := hframe
  rw [land_eq, leaveEnded_inflight, leaveDue_inflight (congrArg BitVec.toNat hsched) hunder]

end Sys2Proof.Machine
end
section
/-! PROOF. The frame of the landing of an ac's effects, and the landing of a write that is alone. -/
namespace Sys2Proof.Machine

theorem flatMap_range_ite {α : Type} (l : List α) (p n : Nat) :
    (List.range n).flatMap (fun k => if p = k then l else []) = if p < n then l else [] := by
  induction n with
  | zero => rfl
  | succ n ih =>
    rw [List.range_succ, List.flatMap_append, ih, List.flatMap_singleton]
    rcases Nat.lt_trichotomy p n with h | h | h
    · rw [if_pos h, if_neg (Nat.ne_of_lt h), if_pos (Nat.lt_succ_of_lt h), List.append_nil]
    · subst h
      rw [if_neg (Nat.lt_irrefl p), if_pos rfl, if_pos (Nat.lt_succ_self p), List.nil_append]
    · rw [if_neg (Nat.lt_asymm h), if_neg (Nat.ne_of_gt h), if_neg (by omega), List.append_nil]

theorem dueOrder_single {t : Timed} (hset : t.eff.isSet = false) (hport : t.eff.port < 16) : dueOrder [t] = [t] := by
  have hports : (List.range 16).flatMap (fun p => if t.eff.port = p then [t] else []) = [t] :=
    (flatMap_range_ite ..).trans (if_pos hport)
  have hother : (List.range 16).flatMap (fun _ => ([] : List Timed)) = [] := rfl
  have hrest : (t.eff.port == 16) = false := beq_false_of_ne (Nat.ne_of_lt hport)
  cases hhalf : t.half <;> simp [dueOrder, List.filter_cons, hset, hhalf, hrest, hports, hother]

theorem OnlyLogs.hbm {s t : State} (h : OnlyLogs s t) : t.hbm = s.hbm := by
  obtain ⟨e, f, l, rfl⟩ := h
  rfl

theorem countCorrected_hbm (hbm : Bool) (n : Nat) (s : State) : (s.countCorrected hbm n).hbm = s.hbm := by
  unfold State.countCorrected
  dsimp only
  refine foldl_same State.hbm (fun u _ => ?_) _ _
  exact (event_onlyLogs ..).hbm

theorem apply_sp_mem (u : State) (c k : Fin 8) (a p : Nat) (op : WriteOp) (d : Bytes) :
    ((u.apply (.sp c a op p d)).core k).mem = if c = k then spStore op (u.core k).mem a d else (u.core k).mem := by
  simp only [State.apply, State.core_modCore]
  split
  next h => rfl
  next h => rfl

/-- A write that accesses the banks of an ac alone lands with its bytes (R43, R230, R231). -/
theorem landEarly_of_alone {s : State} {t : Timed} {c : Fin 8} {a p : Nat} {op : WriteOp} {d : Bytes}
    (halone : s.effectsNow.filter Timed.early = [t]) (ht : t.eff = .sp c a op p d) (hp : p < 16)
    (hecc : eccBlocks (s.core c).ecc (spTarget op a).1 (spOffset a) d.length = none) :
    ∃ u, SameMems s u ∧ u.hbm = s.hbm ∧ s.landEarly = u.apply t.eff := by
  have horder : dueOrder [t] = [t] := dueOrder_single (by rw [ht]; rfl) (by rw [ht]; exact hp)
  refine ⟨if eccMerged (s.core c).ecc (spTarget op a).1 (spOffset a) d.length = 0 then s
    else s.countCorrected false (eccMerged (s.core c).ecc (spTarget op a).1 (spOffset a) d.length), by simp [SameMems], ?_, ?_⟩
  · split
    · rfl
    · exact countCorrected_hbm ..
  unfold State.landEarly
  rw [halone, horder]
  simp [landOne, Timed.use, ht, hecc]

/-- Settles O13: each byte by `ByteOf.land`, what stays under way by `land_inflight`, and the write alone by `landEarly_of_alone`. -/
theorem landingFrame : Obligations.LandingFrame := by
  refine ⟨fun s => ⟨fun c a hearly hrest => (sliceByteOf c a _).land hearly hrest, fun a hearly hrest => (hbmByteOf a _).land hearly hrest,
    land_inflight s⟩, fun s t c a p op d halone ht hp hecc => ?_⟩
  obtain ⟨u, hmems, hhbm, hland⟩ := landEarly_of_alone halone ht hp hecc
  have hcore := core_mem_of_mems hmems.1.1
  have hcores : ∀ k : Fin 8, (s.landEarly.core k).mem = if c = k then spStore op (s.core k).mem a d else (s.core k).mem := by
    intro k
    rw [hland, ht, apply_sp_mem]
    split <;> simp [hcore]
  refine ⟨by simp [hcores], fun k hk => by simp [hcores, Ne.symm hk], ?_⟩
  rw [hland, ht]
  exact hhbm

end Sys2Proof.Machine
end

section
/-! SUPPORT. Bytes and numbers (R6): what a little-endian number of bytes spells, and the parts of a string of fields. -/
namespace Sys2Proof.Machine

theorem leNat_leBytes (n x : Nat) : leNat (leBytes n x) = x % 256 ^ n := by
  induction n generalizing x with
  | zero => simp [leBytes, leNat, Nat.mod_one]
  | succ n ih =>
    simp only [leBytes, leNat, ih, BitVec.toNat_ofNat]
    rw [show 256 ^ (n + 1) = 256 * 256 ^ n from Nat.pow_succ', Nat.mod_mul]

theorem slice_zero_append {n : Nat} {a : Bytes} (b : Bytes) (h : a.length = n) : slice 0 n (a ++ b) = a := by
  subst h
  simp [slice]

theorem slice_zero_self {n : Nat} {a : Bytes} (h : a.length = n) : slice 0 n a = a := by
  subst h
  simp [slice]

theorem slice_length_append {k : Nat} (n : Nat) {a : Bytes} (b : Bytes) (h : a.length = k) : slice k n (a ++ b) = slice 0 n b := by
  subst h
  simp [slice]

theorem slice_length (off n : Nat) (bs : Bytes) : (slice off n bs).length = n := by
  simp only [slice, List.length_append, List.length_take, List.length_drop, List.length_replicate]
  omega

end Sys2Proof.Machine
end
section
/-! PROOF. The arithmetic of i48, of order-free sums, of the clip decision and of SHA-256 (R119, R125 to R134, R183, R201). -/
namespace Sys2Proof.Machine

theorem toSigned_ofSigned_i48 {x : Int} (hlo : -(2 ^ 47) ≤ x) (hhi : x ≤ 2 ^ 47 - 1) :
    toSigned 48 (ofSigned 64 x % 256 ^ 8) = x := by
  unfold toSigned ofSigned
  dsimp only
  split <;> omega

theorem i48Add_fst (x y : Int) : (i48Add x y).1 = max (-(2 ^ 47)) (min (2 ^ 47 - 1) (x + y)) := by
  unfold i48Add
  dsimp only
  split
  · dsimp only; omega
  split <;> dsimp only <;> omega

/-- Settles O16: the sum's three cases, and a value within i48 read back from its 8 bytes. -/
theorem i48Saturates : Obligations.I48Saturates := by
  intro x y _ _ _ _
  refine ⟨i48Add_fst x y, ?_, ?_⟩
  · unfold i48Add
    dsimp only
    split
    · simp; omega
    split <;> simp <;> omega
  · rw [i48Of, i48Bytes, le64, leNat_leBytes]
    apply toSigned_ofSigned_i48 <;> rw [i48Add_fst] <;> omega

/-! ### Order-free sums -/

theorem Lane.addLane_comm (l m : Lane) : l.addLane m = m.addLane l := by
  simp [Lane.addLane, BitVec.add_comm, Bool.or_comm]

theorem Lane.addLane_assoc (l m n : Lane) : (l.addLane m).addLane n = l.addLane (m.addLane n) := by
  simp [Lane.addLane, BitVec.add_assoc, Bool.or_assoc]

theorem Lane.addLane_zero (l : Lane) : l.addLane Lane.zero = l := by simp [Lane.addLane, Lane.zero]

/-- What an element adds does not depend on what the lane holds (R125, R131). -/
theorem Lane.addVal_eq (a : Int) (l : Lane) (v : Val) : l.addVal a v = l.addLane (Lane.zero.addVal a v) := by
  cases v <;> simp [Lane.addVal, Lane.addInt, Lane.addLane, Lane.zero]

theorem foldl_addVal (a : Int) (xs : List Nat) (l : Lane) :
    xs.foldl (fun l x => l.addVal a (f32Val x)) l = l.addLane (exactSum a xs) := by
  induction xs generalizing l with
  | nil => exact (Lane.addLane_zero l).symm
  | cons x xs ih =>
    simp only [exactSum, List.foldl_cons, ih (l.addVal a (f32Val x)), ih (Lane.zero.addVal a (f32Val x))]
    rw [Lane.addVal_eq, Lane.addLane_assoc]

theorem exactSum_append (a : Int) (xs ys : List Nat) : exactSum a (xs ++ ys) = (exactSum a xs).addLane (exactSum a ys) := by
  rw [exactSum, List.foldl_append, foldl_addVal a ys]
  rfl

theorem exactSum_cons (a : Int) (x : Nat) (xs : List Nat) :
    exactSum a (x :: xs) = (Lane.zero.addVal a (f32Val x)).addLane (exactSum a xs) := foldl_addVal a xs _

theorem exactSum_perm (a : Int) {xs ys : List Nat} (h : xs.Perm ys) : exactSum a xs = exactSum a ys := by
  induction h with
  | nil => rfl
  | cons x _ ih => rw [exactSum_cons, exactSum_cons, ih]
  | swap x y l => simp only [exactSum_cons, ← Lane.addLane_assoc, Lane.addLane_comm (Lane.zero.addVal a (f32Val y))]
  | trans _ _ ih₁ ih₂ => exact ih₁.trans ih₂

theorem Lane.ofRecord_record (l : Lane) : Lane.ofRecord l.record = l := by
  obtain ⟨t, inv, clamp⟩ := l
  have hsum : leNat (leBytes 15 t.toNat) = t.toNat := by
    rw [leNat_leBytes]
    exact Nat.mod_eq_of_lt (Nat.lt_of_lt_of_le t.isLt (by decide))
  simp only [Lane.ofRecord, Lane.record, leAt, slice_zero_append _ (leBytes_length 15 _), slice_length_append 1 _ (leBytes_length 15 _),
    hsum, BitVec.ofNat_toNat, BitVec.setWidth_eq]
  cases inv <;> cases clamp <;> rfl

/-- Settles O19: lanes add as a commutative monoid, and an exact sum is the sum of what its elements add to an empty lane. -/
theorem sumsAreOrderFree : Obligations.SumsAreOrderFree :=
  ⟨fun a _ _ h => exactSum_perm a h, exactSum_append, fun l m n => ⟨l.addLane_comm m, l.addLane_assoc m n⟩, Lane.ofRecord_record⟩

/-! ### The decision of UCLIP -/

/-- Settles O21: the decision's fields; what `UCLIP` abandons and clips for stands in its definition as R183 lists it. -/
theorem clipDecision_fields : Obligations.ClipDecision := by
  intro g sc lead recs st old
  dsimp only [clipDecision]
  refine ⟨?_, ?_, Iff.rfl, ?_, ?_⟩
  · split
    next h => simpa [or_assoc] using h
    next h => simpa [or_assoc] using h
  · split <;> simp
  · intro hclip hlag
    simp [hclip, hlag]
  · intro h
    simp [h]

/-! ### SHA-256 in parts -/

theorem chunksFuel_eq {α : Type} {n : Nat} (hn : 0 < n) (f g : Nat) (l : List α) (hf : l.length ≤ f) (hg : l.length ≤ g) :
    chunksFuel n f l = chunksFuel n g l := by
  induction f generalizing l g with
  | zero =>
    obtain rfl := List.eq_nil_of_length_eq_zero (Nat.le_zero.mp hf)
    cases g <;> rfl
  | succ f ih =>
    cases l with
    | nil => cases g <;> rfl
    | cons x t =>
      obtain ⟨g, rfl⟩ : ∃ k, g = k + 1 := Nat.exists_eq_succ_of_ne_zero (by rintro rfl; simp at hg)
      have hdrop : ((x :: t).drop n).length ≤ t.length := by simp only [List.length_drop, List.length_cons]; omega
      simp only [List.length_cons] at hf hg
      simp only [chunksFuel, List.isEmpty_cons, ih g ((x :: t).drop n) (by omega) (by omega)]

theorem chunks_cons_piece {α : Type} {n : Nat} (hn : 0 < n) {l : List α} (hl : l ≠ []) :
    chunks n l = l.take n :: chunks n (l.drop n) := by
  obtain ⟨x, t, rfl⟩ := List.exists_cons_of_ne_nil hl
  have hdrop : ((x :: t).drop n).length ≤ t.length := by simp only [List.length_drop, List.length_cons]; omega
  simp only [chunks, List.length_cons, chunksFuel, List.isEmpty_cons, chunksFuel_eq hn t.length _ ((x :: t).drop n) hdrop (Nat.le_refl _)]
  rfl

/-- Whole pieces in front are pieces of the whole. -/
theorem chunks_append {α : Type} {n : Nat} (hn : 0 < n) (k : Nat) (l m : List α) (hl : l.length = n * k) :
    chunks n (l ++ m) = chunks n l ++ chunks n m := by
  induction k generalizing l with
  | zero =>
    obtain rfl : l = [] := List.eq_nil_of_length_eq_zero (by simpa using hl)
    rfl
  | succ k ih =>
    have hlen : n ≤ l.length := by rw [hl]; exact Nat.le_mul_of_pos_right n (Nat.succ_pos k)
    have hne : l ≠ [] := List.ne_nil_of_length_pos (by omega)
    rw [chunks_cons_piece hn (l := l ++ m) (by simp [hne]), chunks_cons_piece hn hne, List.take_append_of_le_length hlen,
      List.drop_append_of_le_length hlen, ih (l.drop n) (by rw [List.length_drop, hl, Nat.mul_succ, Nat.add_sub_cancel])]
    rfl

/-- The whole 64-byte blocks of a string behind whole blocks, and what is left of it. -/
theorem wholeBlocks_append (k : Nat) (front rest : Bytes) (h : front.length = 64 * k) :
    (front ++ rest).take (64 * ((front ++ rest).length / 64)) = front ++ rest.take (64 * (rest.length / 64))
    ∧ (front ++ rest).drop (64 * ((front ++ rest).length / 64)) = rest.drop (64 * (rest.length / 64)) := by
  have hblocks : 64 * ((front ++ rest).length / 64) = front.length + 64 * (rest.length / 64) := by
    rw [List.length_append, h, Nat.mul_add_div (by decide), Nat.mul_add]
  rw [hblocks]
  exact ⟨List.take_length_add_append .., List.drop_length_add_append ..⟩

/-- Settles O25: the whole blocks of a part and of what it leaves are the whole blocks of the string, in order. -/
theorem hashInParts : Obligations.HashInParts := by
  intro x a b _
  have hfront : ((x.buf ++ a).take (64 * ((x.buf ++ a).length / 64))).length = 64 * ((x.buf ++ a).length / 64) := by
    rw [List.length_take, Nat.min_eq_left (Nat.mul_div_le _ 64)]
  have hstring : x.buf ++ (a ++ b) = (x.buf ++ a).take (64 * ((x.buf ++ a).length / 64))
      ++ ((x.buf ++ a).drop (64 * ((x.buf ++ a).length / 64)) ++ b) := by
    rw [← List.append_assoc (List.take _ _), List.take_append_drop, List.append_assoc]
  obtain ⟨htake, hdrop⟩ := wholeBlocks_append _ _ ((x.buf ++ a).drop (64 * ((x.buf ++ a).length / 64)) ++ b) hfront
  unfold shaAbsorb
  dsimp only
  rw [hstring, htake, hdrop, chunks_append (by decide) _ _ _ hfront, List.foldl_append,
    List.length_append (as := a), Nat.add_assoc]

end Sys2Proof.Machine
end

section
/-! PROOF. The changes of a counter that land in one ac (R74): the SET is early, and the SIGNALs settle behind it. -/
namespace Sys2Proof.Machine

/-- With nothing in progress and no stop, the effects of an ac are those under way for it. -/
theorem effectsNow_of_due {s : State} (hrun : s.running = []) (hstop : s.stopped = []) (hdue : ∀ t ∈ s.inflight, t.at_ ≤ s.now)
    (hexpand : ∀ t ∈ s.inflight, t.expand s = [t]) : s.effectsNow = s.inflight := by
  have hnow : s.inflight.filter (fun t => decide (t.at_ ≤ s.now)) = s.inflight := by
    simpa [List.filter_eq_self] using hdue
  have hsame : ∀ l : List Timed, (∀ t ∈ l, t.expand s = [t]) → l.flatMap (Timed.expand s) = l := by
    intro l hl
    induction l with
    | nil => rfl
    | cons t l ih => simp [List.flatMap_cons, hl t (.head _), ih fun x hx => hl x (.tail _ hx)]
  have hgoes : s.inflight.filter (Timed.goesOn []) = s.inflight := by simp [List.filter_eq_self, Timed.goesOn]
  simp only [State.effectsNow, hrun, hstop, hnow, List.flatMap_nil, ite_self, List.append_nil, hgoes, hsame _ hexpand]

theorem counter_lt (s : State) (c : Nat) : s.counter c < 2 ^ 32 := BitVec.isLt _

/-- SIGNALs of one counter add to it, modulo 2^32 (R74). -/
theorem settle_adds_counter (adds : List U32) (s : State) (c at_ : Nat) (o : Origin) :
    ((adds.map (fun a => (⟨at_, false, o, .counterAdd c a⟩ : Timed))).foldl State.settle s).counter c
      = (s.counter c + (adds.map (·.toNat)).sum) % 2 ^ 32 := by
  induction adds generalizing s with
  | nil => exact (Nat.mod_eq_of_lt (counter_lt s c)).symm
  | cons a adds ih =>
    simp only [List.map_cons, List.foldl_cons, ih, State.settle, State.apply, State.counter_setCounter, if_true, List.sum_cons,
      Nat.mod_add_mod, Nat.add_assoc]

theorem leaveDue_counter (s : State) (c : Nat) : s.leaveDue.counter c = s.counter c := rfl

theorem refreshBusy_counters (s : State) : s.refreshBusy.counters = s.counters := by
  refine foldl_same State.counters (fun t r => ?_) _ _
  split
  · rfl
  · split <;> rfl

theorem leaveEnded_counter (s : State) (c : Nat) : s.leaveEnded.counter c = s.counter c := by
  unfold State.leaveEnded
  split
  · simp only [State.counter, State.retire, refreshBusy_counters]
  · rfl

/-- Settles O15: the SET is the ac's one early effect, and the SIGNALs settle on the counter that it left. -/
theorem setBeforeSignals : Obligations.SetBeforeSignals := by
  intro s c v o adds _ hrun hstop hflight
  have heffects : ∀ u : State, u.running = [] → u.stopped = [] → u.inflight = s.inflight → u.now = s.now → u.effectsNow = s.inflight := by
    intro u hurun hustop huflight hunow
    rw [← huflight]
    refine effectsNow_of_due hurun hustop (fun t ht => ?_) (fun t ht => ?_) <;>
    · rw [huflight, hflight] at ht
      simp only [List.mem_append, List.mem_map, List.mem_singleton] at ht
      obtain ⟨a, -, rfl⟩ | rfl := ht <;> simp [Timed.expand, hunow]
  have hearly : s.landEarly = s.setCounter c v.toNat := by
    have hone : s.effectsNow.filter Timed.early = [⟨s.now, false, o, .counterSet c v⟩] := by
      rw [heffects s hrun hstop rfl rfl, hflight]
      simp [List.filter_append, Timed.early, Effect.isSet, Effect.port]
    have hnone : (List.range 16).flatMap (fun _ => ([] : List Timed)) = [] := rfl
    simp [State.landEarly, hone, dueOrder, Effect.isSet, landOne, Timed.use, State.apply, hnone]
  have hrest : s.settled = (adds.map (fun a => (⟨s.now, false, o, .counterAdd c a⟩ : Timed))).foldl State.settle (s.setCounter c v.toNat) := by
    have hlate : s.landEarly.effectsNow = s.inflight := heffects _ (by rw [hearly]; exact hrun) (by rw [hearly]; exact hstop)
      (by rw [hearly]; rfl) (by rw [hearly]; rfl)
    have hadds : ∀ t ∈ adds.map (fun a => (⟨s.now, false, o, .counterAdd c a⟩ : Timed)), t.early = false ∧ t.eff.isFault = false := by
      intro t ht
      obtain ⟨a, -, rfl⟩ := List.mem_map.mp ht
      exact ⟨rfl, rfl⟩
    have hlast : (⟨s.now, false, o, .counterSet c v⟩ : Timed).early = true := rfl
    have hkeep : s.inflight.filter (fun t => !t.early) = adds.map (fun a => ⟨s.now, false, o, .counterAdd c a⟩) := by
      rw [hflight, List.filter_append, List.filter_eq_self.mpr fun t ht => by simp [(hadds t ht).1]]
      simp [hlast]
    simp only [State.settled, hlate, hkeep]
    rw [hearly, List.filter_eq_nil_iff.mpr fun t ht => by simp [(hadds t ht).2],
      List.filter_eq_self.mpr fun t ht => by simp [(hadds t ht).2], List.nil_append]
  rw [land_eq, leaveEnded_counter, leaveDue_counter, hrest, settle_adds_counter]
  simp

end Sys2Proof.Machine
end

section
/-! PROOF. The rows of the update engine: each plan runs where its descriptor can be read (`withDesc_runs`) and its accesses are allowed
(`updRun_runs`), and a row whose plan runs completes. -/
namespace Sys2Proof.Machine

/-- A row of an engine whose plan runs completes, with what the plan says. -/
theorem exec_of_runs {i : Issue} {s : State} {r : UnitRow} (hr : r ∈ unitRows) (hf : r.form i = true) (h : s.Ready i) {c : Fin 8}
    {o : Origin} {free endAc : Nat} {effs : List Timed} (hp : (r.plan i s (s.origin i)).Runs s c o free endAc effs) :
    exec (r.cmd i) s = .next (s.issued i free) ∧ (r.plan i s (s.origin i)).Runs s c o free endAc effs :=
  ⟨run_exec hr hf h hp.choose_spec, hp⟩

theorem unorm_mem : (⟨.unorm, updWord 0x040, unormPlan⟩ : UnitRow) ∈ unitRows := by simp [unitRows]
theorem gstore_mem : (⟨.gstore, updWord 0x041, gstorePlan⟩ : UnitRow) ∈ unitRows := by simp [unitRows]
theorem uclip_mem : (⟨.uclip, updWord 0x042, uclipPlan⟩ : UnitRow) ∈ unitRows := by simp [unitRows]
theorem update_mem : (⟨.update, updWord 0x043, updatePlan⟩ : UnitRow) ∈ unitRows := by simp [unitRows]
theorem uclose_mem : (⟨.uclose, updWord 0x044, uclosePlan⟩ : UnitRow) ∈ unitRows := by simp [unitRows]
theorem stepcalc_mem : (⟨.stepcalc, updWord 0x045, stepcalcPlan⟩ : UnitRow) ∈ unitRows := by simp [unitRows]
theorem recast_mem : (⟨.recast, fun i => updWord 0x047 i && (uHead i.head).flags == 0, recastPlan⟩ : UnitRow) ∈ unitRows := by
  simp [unitRows]
theorem drift_mem : (⟨.driftCheck, fun i => updWord 0x047 i && (uHead i.head).flags == 1, driftPlan⟩ : UnitRow) ∈ unitRows := by
  simp [unitRows]
theorem ledger_mem : (⟨.ledger, updWord 0x048, ledgerPlan⟩ : UnitRow) ∈ unitRows := by simp [unitRows]
theorem tables_mem : (⟨.tables, updWord 0x049, tablesPlan⟩ : UnitRow) ∈ unitRows := by simp [unitRows]
theorem hash_mem : (⟨.hash, updWord 0x04A, hashPlan⟩ : UnitRow) ∈ unitRows := by simp [unitRows]
theorem gnorm_mem : (⟨.gnorm, updWord 0x046, gnormPlan⟩ : UnitRow) ∈ unitRows := by simp [unitRows]

/-- A plan on a descriptor whose reserved bytes are the `n` bytes at `off`. -/
theorem withDesc_runs_of_zeroAt {s : State} {c : Fin 8} {o : Origin} {u : UHead} {len off n : Nat} {f : Bytes → Plan} {b : Bytes}
    (hb : (s.sliceNow c).viaBytes u.desc len = b) (hd : ∃ g, s.checkSlice 0 c 0 u.desc len = .pass g) (hz : zeroAt b off n = true)
    {free endAc : Nat} {effs : List Timed} (hf : (f b).Runs s c o free endAc effs) :
    (withDesc s c o u len (fun b => zeroAt b off n) f).Runs s c o free endAc effs := by
  subst hb
  exact withDesc_runs (rsv := fun b => zeroAt b off n) hd hz hf

/-- Settles O20: the four plans of the norm rows. -/
theorem normRows : Obligations.NormRows := by
  intro i s h
  dsimp only
  generalize hb : (s.sliceNow i.core).viaBytes (uHead i.head).desc 64 = b
  refine ⟨fun hw hd hz hcheck => ?_, fun hw hcheck => ?_, fun hw hd hz hcheck => ?_, fun hw hcheck => ?_⟩
  · refine exec_of_runs unorm_mem hw h ?_
    dsimp only [unormPlan]
    exact withDesc_runs_of_zeroAt hb hd hz (updRun_runs _ _ _ (by simpa [groupExt] using hcheck))
  · refine exec_of_runs gstore_mem hw h ?_
    dsimp only [gstorePlan]
    refine updRun_runs _ _ _ ?_
    simpa using hcheck
  · refine exec_of_runs uclip_mem hw h ?_
    dsimp only [uclipPlan]
    refine withDesc_runs_of_zeroAt hb hd hz (updRun_runs _ _ _ ?_)
    simpa [groupExt] using hcheck
  · refine exec_of_runs gnorm_mem hw h ?_
    dsimp only [gnormPlan]
    refine updRun_runs _ _ _ ?_
    simpa using hcheck

/-- Settles O24: the three plans of the ledger rows. -/
theorem ledgerRows : Obligations.LedgerRows := by
  intro i s h
  dsimp only
  generalize hb : (s.sliceNow i.core).viaBytes (uHead i.head).desc 64 = b
  intro hd
  refine ⟨fun hw hz hcheck => ?_, fun hw hz hcheck => ?_, fun hw hz hcheck => ?_⟩
  · refine exec_of_runs ledger_mem hw h ?_
    dsimp only [ledgerPlan]
    exact withDesc_runs_of_zeroAt hb hd hz (updRun_runs _ _ _ (by simpa using hcheck))
  · refine exec_of_runs tables_mem hw h ?_
    dsimp only [tablesPlan]
    exact withDesc_runs_of_zeroAt hb hd hz (updRun_runs _ _ _ (by simpa using hcheck))
  · refine exec_of_runs hash_mem hw h ?_
    dsimp only [hashPlan]
    refine withDesc_runs_of_zeroAt hb hd hz (updRun_runs _ _ _ ?_)
    cases hfin : bitAt (uHead i.head).flags 3 <;> simpa [hfin] using hcheck

/-- The first element at which the drift check finds a difference (R199), its descriptor being `b`. -/
def driftFirst (i : Issue) (s : State) (b : Bytes) : Option Nat :=
  (List.range (uHead i.head).count).find? (fun j =>
    recastElem (s.group i.core (uHead i.head).group).wc (leNat (s.spRead i.core (s.now + 1 + j / 256) (leAt b 0 4 + 2 * j) 2))
      != leNat (s.spRead i.core (s.now + 1 + j / 256) (leAt b 4 4 + j) 1))

/-- The record of a drift check's difference (R253). -/
def driftRec (i : Issue) (s : State) (o : Origin) (b : Bytes) (j : Nat) : FaultRec :=
  faultRec 3 o.master ((s.sliceRegion i.core (leAt b 4 4 + j) 1).getD 0xFFFF) 0 2 (sliceAddress i.core (leAt b 4 4 + j)) o.instr o.opcode
    j 0 0

/-- What a drift check does by what it finds (R199, R363). -/
def driftEffects (i : Issue) (s : State) (o : Origin) (b : Bytes) : Option Nat → List Timed
  | none => []
  | some j => [⟨s.now + 17 + j / 256, false, o, .fault (driftRec i s o b j)⟩, ⟨s.now + 17 + j / 256, false, o, .suspect 4 i.core.val⟩]

theorem driftPlan_runs {i : Issue} {s : State} {o : Origin} {b : Bytes} (hb : (s.sliceNow i.core).viaBytes (uHead i.head).desc 64 = b)
    (hd : ∃ r, s.checkSlice 0 i.core 0 (uHead i.head).desc 64 = .pass r) (hz : zeroAt b 8 56 = true)
    (hcheck : s.checkAll 0 i.core [⟨0, [(leAt b 0 4, 2 * (uHead i.head).count)]⟩, ⟨0, [(leAt b 4 4, (uHead i.head).count)]⟩,
      ⟨0, [(s.groupAddr (uHead i.head).group, 64)]⟩] = none) :
    (driftPlan i s o).Runs s i.core o (s.now + ceilDiv (uHead i.head).count 256 + 16 + 1) (s.now + ceilDiv (uHead i.head).count 256 + 16)
      (driftEffects i s o b (driftFirst i s b)) := by
  dsimp only [driftPlan]
  refine withDesc_runs_of_zeroAt hb hd hz ?_
  cases hfirst : driftFirst i s b <;>
  · unfold driftFirst at hfirst
    rw [hfirst]
    exact updRun_runs _ _ _ (by simpa [groupExt] using hcheck)

/-- Settles O23: RECAST's plan, and the drift check's by its first difference. -/
theorem workingCopyRows : Obligations.WorkingCopyRows := by
  intro i s h hw
  dsimp only
  generalize hb : (s.sliceNow i.core).viaBytes (uHead i.head).desc 64 = b
  intro hd hz
  refine ⟨fun hflags hcheck => ?_, fun hflags hcheck => ?_⟩
  · refine exec_of_runs recast_mem (by simp [hw, hflags]) h ?_
    dsimp only [recastPlan]
    exact withDesc_runs_of_zeroAt hb hd hz (updRun_runs _ _ _ (by simpa [groupExt] using hcheck))
  · have hruns := driftPlan_runs (o := s.origin i) hb hd hz hcheck
    refine ⟨(exec_of_runs drift_mem (by simp [hw, hflags]) h hruns).1, fun hsame => ?_, fun j hj hbelow hdiff => ?_⟩
    · have hfirst : driftFirst i s b = none := by simpa [driftFirst, List.find?_eq_none] using hsame
      rwa [hfirst] at hruns
    · have hfirst : driftFirst i s b = some j := by simpa [driftFirst, List.find?_range_eq_some, hj, hdiff] using hbelow
      rw [hfirst] at hruns
      exact ⟨driftRec i s (s.origin i) b j, rfl, rfl, rfl, hruns⟩

/-! ### The optimiser -/

/-- UPDATE and UCLOSE on a group that no UCLIP has decided fault at issue (R181). -/
theorem exec_of_fault {i : Issue} {s : State} {r : UnitRow} (hr : r ∈ unitRows) (hf : r.form i = true) (h : s.Ready i) {f : FaultRec}
    (hp : r.plan i s (s.origin i) = .fault f) : exec (r.cmd i) s = .next ((s.advance i 0).raiseFault f) := by
  rw [(exec_unitRow hr i s).1, hf, issueUnit_fault _ _ _ _ h hp]
  rfl

/-- The entry that UCLOSE writes (R196): step, group, flags and five f32 values. -/
def ratioEntry (s : State) (group flags ratio dw w gn clip : Nat) : Bytes :=
  le64 s.job.stepNum.toNat ++ le16 group ++ le16 flags ++ le32 ratio ++ le32 dw ++ le32 w ++ le32 gn ++ le32 clip

theorem ratioEntry_length (s : State) (group flags ratio dw w gn clip : Nat) : (ratioEntry s group flags ratio dw w gn clip).length = 32 := by
  simp [ratioEntry, le64, le32, le16, leBytes_length]

theorem ratioEntry_fields (s : State) (group flags ratio dw w gn clip : Nat) :
    slice 0 8 (ratioEntry s group flags ratio dw w gn clip) = le64 s.job.stepNum.toNat ∧ slice 8 2 (ratioEntry s group flags ratio dw w gn clip) = le16 group := by
  unfold ratioEntry le64 le16
  simp only [List.append_assoc]
  exact ⟨slice_zero_append _ (leBytes_length ..), by
    rw [slice_length_append 2 _ (leBytes_length 8 _), slice_zero_append _ (leBytes_length 2 _)]⟩

/-- UCLOSE's plan on a decided group (R196, R197). -/
theorem uclosePlan_runs {i : Issue} {s : State} {o : Origin} {b : Bytes} (hb : (s.sliceNow i.core).viaBytes (uHead i.head).desc 64 = b)
    (hst : (s.entry i.core (uHead i.head).group).st ≠ .undecided) (hd : ∃ r, s.checkSlice 0 i.core 0 (uHead i.head).desc 64 = .pass r)
    (hz : zeroAt b 36 28 = true)
    (hcheck : s.checkAll 0 i.core (((s.groupAddr (uHead i.head).group, 64) :: (List.range 8).map (fun k => (leAt b (4 * k) 4, 32))).map
      (fun x => ⟨0, [x]⟩) ++ [⟨1, [(leAt b 32 4, 32)]⟩, slotAccess s (s.group i.core (uHead i.head).group).dwId,
        slotAccess s (s.group i.core (uHead i.head).group).wId]) = none) :
    ∃ flags ratio dw w gn clip gd gw post, (∀ y ∈ post, y.eff = .ratioBand (ratioEntry s (uHead i.head).group flags ratio dw w gn clip) (uHead i.head).group ∨ y.eff = .fmtSat)
      ∧ (uclosePlan i s o).Runs s i.core o (s.now + 41) (s.now + 40)
        ([⟨s.now + 40, false, o, .sp i.core (leAt b 32 4) .plain 4 (ratioEntry s (uHead i.head).group flags ratio dw w gn clip)⟩,
          slotWrite s i.core (s.now + 40) o 4 (s.group i.core (uHead i.head).group).dwId gd,
          { slotWrite s i.core (s.now + 40) o 4 (s.group i.core (uHead i.head).group).wId gw with half := true }] ++ post) := by
  dsimp only [uclosePlan, ratioEntry]
  iterate 9 apply Exists.intro
  refine ⟨?_, withDesc_runs_of_zeroAt hb hd hz ?_⟩
  rotate_left
  · rw [if_neg (by simpa using hst), List.append_assoc]
    exact updRun_runs _ _ _ (by simpa [groupExt, Function.comp_def] using hcheck)
  · intro y hy
    simp only [List.mem_append] at hy
    obtain hy | hy := hy <;> split at hy <;> simp at hy <;> subst hy
    · exact .inr rfl
    · exact .inl rfl

/-- What a descriptor plans that is a mismatch is one whatever its reserved bytes hold (R178). -/
theorem withDesc_mismatch {s : State} {c : Fin 8} {o : Origin} {u : UHead} {len : Nat} {rsv : Bytes → Bool} {f : Bytes → Plan}
    (hd : ∃ g, s.checkSlice 0 c 0 u.desc len = .pass g) (hf : ∀ b, f b = updMismatch o) : withDesc s c o u len rsv f = updMismatch o := by
  obtain ⟨g, hg⟩ := hd
  simp only [withDesc, hg, hf, updMismatch, ite_self]

/-- Settles O22: the plans of the optimiser's rows, and their faults on an undecided group. -/
theorem optimiserRows : Obligations.OptimiserRows := by
  refine ⟨fun i s h => ?_, fun i s h hst => ?_⟩
  · dsimp only
    refine ⟨fun hw hd hz hcheck => ?_, fun hw hst hd hz hz' hrow hcount hcol hkind hblock hcheck => ?_, fun hw hst hd hz hcheck => ?_⟩
    · refine exec_of_runs stepcalc_mem hw h ?_
      dsimp only [stepcalcPlan]
      exact withDesc_runs_of_zeroAt rfl hd hz (updRun_runs _ _ _ (by simpa using hcheck))
    · refine exec_of_runs update_mem hw h ?_
      dsimp only [updatePlan]
      refine withDesc_runs hd (by simp [hz, hz']) ?_
      rw [if_neg (by simpa using hst), if_neg]
      · refine updRun_runs _ _ _ ?_
        simpa [groupExt] using hcheck
      · simp [hrow, hcount, hcol, Nat.not_lt.mpr hkind]
        exact hblock
    · obtain ⟨flags, ratio, dw, w, gn, clip, gd, gw, post, hpost, hruns⟩ := uclosePlan_runs (o := s.origin i) rfl hst hd hz hcheck
      obtain ⟨hstep, hgroup⟩ := ratioEntry_fields s (uHead i.head).group flags ratio dw w gn clip
      exact ⟨(exec_of_runs uclose_mem hw h hruns).1, _, gd, gw, post, ratioEntry_length s _ flags ratio dw w gn clip, hstep, hgroup, hpost, hruns⟩
  · refine ⟨fun hw hd => exec_of_fault update_mem hw h ?_, fun hw hd => exec_of_fault uclose_mem hw h ?_⟩
    · dsimp only [updatePlan]
      exact withDesc_mismatch hd fun b => if_pos (by simp [hst])
    · dsimp only [uclosePlan]
      exact withDesc_mismatch hd fun b => if_pos (by simp [hst])

end Sys2Proof.Machine
end

section
/-! PROOF. The rows of the vector engine and of the matrix array. -/
namespace Sys2Proof.Machine

theorem vector_mem {r : Nat × (Issue → Instr)} (hr : r ∈ vectorRows) : (⟨r.2, vecWord r.1, vecPlan r.1⟩ : UnitRow) ∈ unitRows :=
  List.mem_append_left _ (List.mem_map_of_mem hr)

/-- An output's check entries, of a core's slice, are writes of the slice (R119, R242). -/
theorem sealOutput_sp {s : State} {core : Fin 8} {unit port : Nat} {o : Origin} {ext : List (Nat × Nat)} {parts : List OutPart}
    {writes : List Timed} {e : Timed} (he : e ∈ sealOutput s core unit port o ext parts writes) :
    ∃ a w k d, e.eff = .sp core a w k d := by
  unfold sealOutput at he
  dsimp only at he
  obtain ⟨idx, -, he⟩ := List.mem_flatMap.mp he
  split at he
  · cases he
  obtain ⟨j, -, he⟩ := List.mem_flatMap.mp he
  simp only [entryWrite, Bool.false_eq_true, if_false, List.mem_cons, List.not_mem_nil, or_false] at he
  obtain rfl | rfl := he <;> exact ⟨_, _, _, _, rfl⟩

/-- The check entries of a vector instruction's output, where its CRC flag asks for them (R209). -/
def VEnv.checks (v : VEnv) : List Timed :=
  if v.h.crc then sealOutput v.s v.core 1 4 v.o (v.written v.result.effs).1 (v.written v.result.effs).2 v.result.effs else []

/-- The ORs into working slots of a vector instruction, where its SLOT flag asks for them (R210, R213). -/
def VEnv.slots (v : VEnv) : List Timed :=
  if v.h.slot then
    slotWrite v.s v.core (v.lastAc + 2) v.o 4 v.h.anchorId v.result.gather
      :: (if v.op = 0x042 ∧ v.h.flags % 2 = 1 then
            [{ slotWrite v.s v.core (v.lastAc + 2) v.o 4 ((v.h.anchorId + 1) % 65536) v.result.gather2 with half := true }] else [])
  else []

theorem VEnv.post_sp (v : VEnv) : ∀ e ∈ v.checks ++ v.slots, ∃ a w k d, e.eff = .sp v.core a w k d := by
  intro e he
  obtain he | he := List.mem_append.mp he
  · unfold VEnv.checks at he
    split at he
    · exact sealOutput_sp he
    · cases he
  · unfold VEnv.slots at he
    split at he
    · obtain rfl | he := List.mem_cons.mp he
      · exact ⟨_, _, _, _, rfl⟩
      · split at he
        · obtain rfl := List.mem_singleton.mp he
          exact ⟨_, _, _, _, rfl⟩
        · cases he
    · cases he

/-- A vector instruction's plan on a descriptor and operands that its regions allow (R210, R248). -/
theorem vecPlan_runs {op : Nat} {i : Issue} {s : State} {o : Origin} {v : VEnv} {b : Bytes}
    (hb : (s.sliceNow i.core).viaBytes (vHead i.head).desc 128 = b) (hv : (⟨s, i.core, o, op, vHead i.head, vDesc b⟩ : VEnv) = v)
    (hd : ∃ g, s.checkSlice 0 i.core 0 (vHead i.head).desc 128 = .pass g) (hr : vDescReserved b = true) (hok : v.ok = true)
    (hcheck : s.checkAll 0 i.core v.accesses = none) :
    (vecPlan op i s o).Runs s i.core o (v.lastAc + 1) (v.lastAc + 2)
      (v.result.effs ++ v.result.status ++ (v.checks ++ v.slots) ++ [⟨v.lastAc, false, o, .vecDone i.core v.result.flags⟩]) := by
  subst hb
  obtain ⟨g, hg⟩ := hd
  refine ⟨[v.timedReads], ?_⟩
  subst hv
  unfold vecPlan
  dsimp only
  rw [hg]
  dsimp only
  rw [if_neg (by simp [hr, hok]), hcheck]
  simp only [VEnv.checks, VEnv.slots, List.flatMap_cons, List.flatMap_nil, List.append_nil, List.append_assoc]

/-- Settles O18: the plan of a row of the vector engine (`vecPlan_runs`), and the one change of VEC_COUNT and VEC_STATUS. -/
theorem vectorRows_complete : Obligations.VectorRows := by
  refine ⟨fun r hr i s => ?_, fun s c f => ?_⟩
  · dsimp only
    intro hw h hd hres hok hcheck
    obtain ⟨hexec, hruns⟩ := exec_of_runs (vector_mem hr) hw h (vecPlan_runs (op := r.1) (o := s.origin i) rfl rfl hd hres hok hcheck)
    refine ⟨hexec, _, hruns, fun hcrc hslot => ?_, VEnv.post_sp _⟩
    simp [VEnv.checks, VEnv.slots, hcrc, hslot]
  · simp [State.apply]

/-! ### The matrix array -/

theorem findIdxFrom_of_none {α : Type} {p : α → Bool} {l : List α} (h : ∀ x ∈ l, p x = false) (k : Nat) : findIdxFrom p k l = none := by
  induction l generalizing k with
  | nil => rfl
  | cons x l ih =>
    rw [findIdxFrom, h x (.head _), if_neg Bool.false_ne_true]
    exact ih (fun y hy => h y (.tail _ hy)) (k + 1)

/-- A matrix instruction that the array can take, with what its plan runs (R97, R103). -/
theorem issueMatrix_run {i : Issue} {s : State} {plan : State → Origin → MatPlan} {last free endAc : Nat} {effs : List Timed}
    (hcan : s.canIssue i = true)
    (hfree : arrayBusy s i (matCfg i.head)
      (s.now + (matCfg i.head).pace * (matCfg i.head).e + routeDelay (matCfg i.head).rb (matCfg i.head).pace) = false)
    (hplan : plan s (s.origin i) = .run last free endAc effs) :
    s.issueMatrix i plan = ((s.advance i 0).modCore i.core (fun k => { k with
      matrix := some ⟨(matCfg i.head).e, (matCfg i.head).pace, last, free⟩, busy := k.busy.set 0 free })).launch i s := by
  unfold State.issueMatrix
  dsimp only
  rw [if_neg (by simp [hcan]), if_neg (by simp [hfree]), hplan]

/-- The tiles of an instruction run where every access is allowed (R110, R248). -/
theorem tilesPlan_ok {s : State} {core : Fin 8} {o : Origin} {c : MatCfg} {ts : List Tile}
    (h : s.checkAll 0 core (ts.flatMap (tileAccesses s c)) = none) :
    tilesPlan s core o c ts = .run (((ts.map (fun t => lastPass c t (tileBlocks c t s.now))).map (·.1)).foldl max 0)
      (((ts.map (fun t => lastPass c t (tileBlocks c t s.now))).map (·.2)).foldl max 0)
      ((ts.map (fun t => finalResult c t (tileBlocks c t s.now) + 1)).foldl max 0) (ts.flatMap (tileEffects s core o c)) := by
  unfold tilesPlan
  rw [h]

/-- The pack's plan is that of its tiles behind the read of their descriptors (R110, R111). -/
theorem packPlan_ok {i : Issue} {s : State} {o : Origin} {ts : List Tile}
    (hd : ∃ r, s.checkSlice 0 i.core 0 (packDesc i) (64 * packCount i) = .pass r)
    (hok : ∀ g < packCount i, (descTile ((s.sliceNow i.core).viaBytes (packDesc i + 64 * g) 64)).2 = true)
    (hts : ts = (List.range (packCount i)).map (fun g => (descTile ((s.sliceNow i.core).viaBytes (packDesc i + 64 * g) 64)).1))
    {last free endAc : Nat} {effs : List Timed} (hrun : tilesPlan s i.core o (matCfg i.head) ts = .run last free endAc effs) :
    packPlan i s o = .run last free endAc (operandReads s i.core o [⟨0, s.now, 0, 0, packDesc i, 64 * packCount i⟩] ++ effs) := by
  subst hts
  obtain ⟨r, hr⟩ := hd
  have hnone : findIdxFrom (fun t : Tile × Bool => !t.2) 0
      ((List.range (packCount i)).map (fun g => descTile ((s.sliceNow i.core).viaBytes (packDesc i + 64 * g) 64))) = none := by
    refine findIdxFrom_of_none (fun x hx => ?_) 0
    obtain ⟨g, hg, rfl⟩ := List.mem_map.mp hx
    simp [hok g (List.mem_range.mp hg)]
  unfold packPlan
  dsimp only
  rw [hr]
  dsimp only
  rw [hnone]
  dsimp only
  rw [List.map_map]
  simp only [Function.comp_def, hrun]

/-- Settles O17: the plans of the two rows, and the last write of a tile. -/
theorem matrixWords : Obligations.MatrixWords := by
  refine ⟨fun i s ts => ?_, fun s c o m t => ⟨_, (tileResults s c o m t (tileBlocks m t s.now)).2, rfl⟩⟩
  dsimp only
  intro hcan hfree hcheck
  have htiles := tilesPlan_ok (o := s.origin i) hcheck
  refine ⟨fun hw hts => ?_, fun hw hd hok hts => ?_⟩
  · have hone : mmulPlan i s (s.origin i) = tilesPlan s i.core (s.origin i) (matCfg i.head) ts := by rw [mmulPlan, hts]
    have hplan := hone.trans htiles
    refine ⟨?_, hplan⟩
    change worded (mmulWord i) (s.issueMatrix i (mmulPlan i)) = _
    rw [hw, issueMatrix_run hcan hfree hplan]
    rfl
  · have hplan := packPlan_ok hd hok hts htiles
    refine ⟨?_, _, hplan⟩
    change worded (packWord i) (s.issueMatrix i (packPlan i)) = _
    rw [hw, issueMatrix_run hcan hfree hplan]
    rfl

end Sys2Proof.Machine
end

section
/-! SUPPORT. The pace of a transfer's source (R244): 2,048 bytes per ac where they stand ready, so that the last byte decides. -/
namespace Sys2Proof.Machine

theorem foldl_max_le {l : List Nat} {a n : Nat} (ha : a ≤ n) (h : ∀ x ∈ l, x ≤ n) : l.foldl max a ≤ n := by
  induction l generalizing a with
  | nil => exact ha
  | cons x l ih => exact ih (Nat.max_le.2 ⟨ha, h x (.head _)⟩) fun y hy => h y (.tail _ hy)

theorem foldl_max_append_last {l : List Nat} {n : Nat} (h : ∀ x ∈ l, x ≤ n) : (l ++ [n]).foldl max 0 = n := by
  rw [List.foldl_append]
  exact Nat.max_eq_right (foldl_max_le (Nat.zero_le n) h)

/-- The last byte of an extent that is read at the steady pace (R244). -/
theorem steadyFeed_ready (s : State) (d : Bytes) (len : Nat) :
    (steadyFeed s d).ready ⟨[(0, len)], none, none⟩ = s.now + 2 + (len - 1) / 2048 := by
  have hparts : ∀ x ∈ (List.range (ceilDiv len 32)).map (fun k => s.now + 2 + (0 + 32 * k) / 2048), x ≤ s.now + 2 + (0 + len - 1) / 2048 := by
    intro x hx
    obtain ⟨k, hk, rfl⟩ := List.mem_map.mp hx
    rw [List.mem_range, ceilDiv] at hk
    omega
  simp only [Feed.ready, steadyFeed, List.map_cons, List.map_nil, List.foldl_cons, List.foldl_nil, Nat.zero_max]
  rw [foldl_max_append_last hparts, Nat.zero_add]

theorem sourceFeed_steady {s : State} {core : Fin 8} {engine : Nat} {r : Region} {off len : Nat}
    (h : r.inHbm = false ∨ s.booksHbm (engineCode core.val engine) false = false) :
    sourceFeed s core engine r off len = steadyFeed s (readSide s core r off len) := by
  unfold sourceFeed
  rw [if_neg]
  obtain h | h := h <;> simp [h]

theorem leBytes_getElem? (n x : Nat) {k : Nat} (hk : k < n) : (leBytes n x)[k]? = some (BitVec.ofNat 8 (x / 256 ^ k)) := by
  induction n generalizing x k with
  | zero => omega
  | succ n ih =>
    cases k with
    | zero => simp [leBytes]
    | succ k => simp [leBytes, ih (x / 256) (Nat.lt_of_succ_lt_succ hk), Nat.pow_succ', Nat.div_div_eq_div_mul]

/-- Equal pieces laid one behind the other. -/
theorem flatMap_const_getElem? {α : Type} (n : Nat) {l : List α} {w : Nat} (hw : l.length = w) {k : Nat} (hk : k < n * w) :
    ((List.range n).flatMap (fun _ => l))[k]? = l[k % w]? := by
  induction n generalizing k with
  | zero => omega
  | succ n ih =>
    have hcons : (List.range (n + 1)).flatMap (fun _ => l) = l ++ (List.range n).flatMap (fun _ => l) := by
      simp [List.range_succ_eq_map, List.flatMap_cons, List.flatMap_map]
    rw [hcons]
    by_cases h : k < w
    · rw [List.getElem?_append_left (by omega), Nat.mod_eq_of_lt h]
    · have hsucc : (n + 1) * w = n * w + w := Nat.succ_mul n w
      rw [List.getElem?_append_right (by omega), hw, ih (by omega), Nat.mod_eq_sub_mod (by omega : k ≥ w)]

theorem fillBytes_getElem? (pattern : Nat) {len k : Nat} (hlen : len % 8 = 0) (hk : k < len) :
    (fillBytes pattern len)[k]? = some (BitVec.ofNat 8 (pattern / 256 ^ (k % 8))) := by
  unfold fillBytes
  rw [flatMap_const_getElem? _ (l := le64 pattern) (leBytes_length 8 pattern) (by omega)]
  exact leBytes_getElem? 8 pattern (Nat.mod_lt k (by decide))

theorem fillBytes_length (pattern : Nat) {len : Nat} (hlen : len % 8 = 0) : (fillBytes pattern len).length = len := by
  have h8 : (le64 pattern).length = 8 := leBytes_length ..
  simp only [fillBytes, List.length_flatMap, h8, List.map_const', List.sum_replicate_nat, List.length_range]
  omega

end Sys2Proof.Machine
end
section
/-! PROOF. MOVE and FILL (R242 to R245): one plan of the transfer, at the pace of its source. -/
namespace Sys2Proof.Machine

theorem move_mem : (⟨.move, moveWord, movePlan⟩ : UnitRow) ∈ unitRows := by simp [unitRows]
theorem fill_mem : (⟨.fill, fillWord, fillPlan⟩ : UnitRow) ∈ unitRows := by simp [unitRows]

theorem moveOp_len_mod (i : Issue) : (moveOp i).len % 8 = 0 := by
  simp only [moveOp]
  omega

theorem transferPlan_eq {s : State} {i : Issue} {o : Origin} {x : Transfer} {n len last : Nat} {reads : List Piece → List Timed}
    (hlast : x.feed.ready ⟨[(0, len)], none, none⟩ + 8 = last) :
    transferPlan s i o x n len reads = .run (last + 1) last
      ((reads (movePieces x.verify n (x.src.map (fun (_, r, off) => (r, off))) x.dst x.dstOff len)).map
          (fun t => t.progress x.feed (movePieces x.verify n (x.src.map (fun (_, r, off) => (r, off))) x.dst x.dstOff len))
        ++ pieceEffects s i o x 0 (movePieces x.verify n (x.src.map (fun (_, r, off) => (r, off))) x.dst x.dstOff len)) := by
  subst hlast
  rfl

theorem steady_last (s : State) (d : Bytes) (len : Nat) :
    (steadyFeed s d).ready ⟨[(0, len)], none, none⟩ + 8 = s.now + 10 + (len - 1) / 2048 := by
  rw [steadyFeed_ready]
  omega

theorem fillPlan_ok {i : Issue} {s : State} {o : Origin} {di : Nat}
    (h : s.checkRegion 1 i.core (moveOp i).dst (moveOp i).dstView 1 (moveOp i).dstOff (moveOp i).len = .pass di) :
    fillPlan i s o = .run (s.now + 11 + ((moveOp i).len - 1) / 2048) (s.now + 11 + ((moveOp i).len - 1) / 2048 - 1)
      (pieceEffects s i o ⟨steadyFeed s (fillBytes (moveOp i).srcOff (moveOp i).len),
        mateBytes s i (s.region di).inHbm (fun _ => fillBytes (moveOp i).srcOff (moveOp i).len), none, s.region di, (moveOp i).dstOff, false⟩ 0
        (movePieces false 2048 none (s.region di) (moveOp i).dstOff (moveOp i).len)) := by
  have hfree : s.now + 10 + ((moveOp i).len - 1) / 2048 + 1 = s.now + 11 + ((moveOp i).len - 1) / 2048 := by omega
  have hend : s.now + 10 + ((moveOp i).len - 1) / 2048 = s.now + 11 + ((moveOp i).len - 1) / 2048 - 1 := by omega
  unfold fillPlan
  dsimp only
  rw [h]
  dsimp only
  rw [transferPlan_eq (steady_last s _ _), hfree, hend]
  rfl

/-- The transfer of a MOVE between the regions of its two sides (R242, R244). -/
def moveTransfer (i : Issue) (s : State) (si di : Nat) : Transfer :=
  let m := moveOp i
  let f := sourceFeed s i.core (i.unit.val - 3) (s.region si) m.srcOff m.len
  ⟨f, mateBytes s i (s.region di).inHbm (fun k => if (s.region si).inHbm then f.bytes else readSide s k (s.region si) m.srcOff m.len),
    some (si, s.region si, m.srcOff), s.region di, m.dstOff, m.verify⟩

/-- What a MOVE reads of its source, before the progress of its ac is noted (R230, R232, R242). -/
def moveReads (i : Issue) (s : State) (o : Origin) (si : Nat) (f : Feed) (ps : List Piece) : List Timed :=
  (if (s.region si).inHbm then [] else
    sliceReads i.core (dmaPort i) (s.now + 2) o ((s.region si).base + (moveOp i).srcOff) (moveOp i).len)
  ++ entryReads s i.core (dmaPort i) o f (s.region si) ps ++ sourceEffects s i o f si (s.region si) (moveOp i).srcOff (moveOp i).len

theorem movePlan_ok {i : Issue} {s : State} {o : Origin} {si di : Nat}
    (hsrc : s.checkRegion 1 i.core (moveOp i).src (moveOp i).srcView 0 (moveOp i).srcOff (moveOp i).len = .pass si)
    (hdst : s.checkRegion 1 i.core (moveOp i).dst (moveOp i).dstView 1 (moveOp i).dstOff (moveOp i).len = .pass di)
    (hver : (moveOp i).verify = true → verifyExtent (s.region si) (moveOp i).srcOff (moveOp i).len = true) :
    movePlan i s o = transferPlan s i o (moveTransfer i s si di) (if (s.region si).inHbm then 512 else 2048) (moveOp i).len
      (moveReads i s o si (moveTransfer i s si di).feed) := by
  have hok : ((moveOp i).verify && !verifyExtent (s.region si) (moveOp i).srcOff (moveOp i).len) = false := by
    cases hv : (moveOp i).verify
    · rfl
    · simp [hver hv]
  unfold movePlan
  dsimp only
  rw [hsrc, hdst]
  dsimp only
  rw [hok]
  rfl

/-- A source without errors adds nothing but the banks that the transfer reads (R230). -/
theorem moveReads_spRead {i : Issue} {s : State} {o : Origin} {si : Nat} {f : Feed} {ps : List Piece} (hecc : (s.core i.core).ecc = [])
    (hhbm : s.hbm.ecc = []) : ∀ e ∈ moveReads i s o si f ps, ∃ a n, e.eff = .spRead i.core a n (dmaPort i) := by
  have hmarks : ∀ bad, sourceMarks s i (s.region si) (moveOp i).srcOff (moveOp i).len bad = [] := by
    intro bad
    unfold sourceMarks
    simp [hecc, hhbm]
  intro e he
  simp only [moveReads, sourceEffects, hmarks, List.filter_nil, List.flatMap_nil, List.map_nil, List.append_nil, List.mem_append] at he
  obtain he | he := he
  · split at he
    · cases he
    · obtain ⟨k, -, rfl⟩ := List.mem_map.mp he
      exact ⟨_, _, rfl⟩
  · unfold entryReads at he
    split at he
    · cases he
    obtain ⟨p, -, he⟩ := List.mem_flatMap.mp he
    split at he
    · cases he
    · obtain ⟨x, -, rfl⟩ := List.mem_map.mp he
      exact ⟨_, _, rfl⟩

theorem progress_spRead {t : Timed} {f : Feed} {ps : List Piece} {c : Fin 8} {a n p : Nat} (h : t.eff = .spRead c a n p) :
    (t.progress f ps).eff = .spRead c a n p := by
  simp only [Timed.progress, h]

/-- Settles O26: both plans are `transferPlan`'s; a steady source gives its last byte in `steadyFeed_ready`. -/
theorem dmaRows : Obligations.DmaRows := by
  intro i s di h
  dsimp only
  intro hdst
  refine ⟨fun hw => ?_, fun si hw hsrc hver => ?_⟩
  · have hplan := fillPlan_ok (o := s.origin i) hdst
    exact ⟨fun k hk => fillBytes_getElem? _ (moveOp_len_mod i) hk, fillBytes_length _ (moveOp_len_mod i),
      run_exec fill_mem hw h hplan, hplan⟩
  · have hplan := (movePlan_ok (o := s.origin i) hsrc hdst hver).trans (transferPlan_eq rfl)
    refine ⟨run_exec move_mem hw h hplan, fun hsteady => ?_, _, hplan, fun hecc hhbm e he => ?_⟩
    · rw [sourceFeed_steady hsteady, steady_last]
      exact ⟨by omega, rfl⟩
    · obtain ⟨t, ht, rfl⟩ := List.mem_map.mp he
      obtain ⟨a, n, heff⟩ := moveReads_spRead hecc hhbm t ht
      exact ⟨a, n, progress_spRead heff⟩

end Sys2Proof.Machine
end

section
/-! PROOF. Remote operations (R265 to R272): what each plan is over a link and over PORT 16, and the pace of a slice's source. -/
namespace Sys2Proof.Machine

theorem get_mem : (⟨.get, remoteWord 0x081, remotePlan 0x081⟩ : UnitRow) ∈ unitRows := by simp [unitRows]
theorem remoteSignal_mem : (⟨.remoteSignal, remoteWord 0x085, remotePlan 0x085⟩ : UnitRow) ∈ unitRows := by simp [unitRows]

/-- The remote operations that read a source: opcode and command (R266). -/
def sendRows : List (Nat × (Issue → Instr)) := [(0x080, .put), (0x082, .addI48), (0x083, .setBits), (0x084, .clrBits)]

theorem sendRow_mem {r : Nat × (Issue → Instr)} (hr : r ∈ sendRows) : (⟨r.2, remoteWord r.1, remotePlan r.1⟩ : UnitRow) ∈ unitRows := by
  simp only [sendRows, List.mem_cons, List.not_mem_nil, or_false] at hr
  obtain rfl | rfl | rfl | rfl := hr <;> simp [unitRows]

theorem sendRow_sends {r : Nat × (Issue → Instr)} (hr : r ∈ sendRows) : ¬(r.1 = 0x081 ∨ r.1 = 0x085) := by
  simp only [sendRows, List.mem_cons, List.not_mem_nil, or_false] at hr
  obtain rfl | rfl | rfl | rfl := hr <;> decide

theorem remotePlan_link {i : Issue} (h : (remoteOp i).port < 16) (op : Nat) (s : State) (o : Origin) :
    remotePlan op i s o = linkPlan op i ⟨(remoteOp i).port, h⟩ s o := dif_pos h

theorem remotePlan_port16 {i : Issue} (h : (remoteOp i).port = 16) (op : Nat) (s : State) (o : Origin) :
    remotePlan op i s o = port16Plan op i s o := dif_neg (by omega)

/-- The last byte of a source in a slice (R244). -/
theorem remoteTransfer_ready {i : Issue} {s : State} {si : Nat} {sr : Region} (h : sr.inHbm = false) :
    (remoteTransfer i s si sr).feed.ready ⟨[(0, 64 * (remoteOp i).len64)], none, none⟩ = s.now + 2 + (64 * (remoteOp i).len64 - 1) / 2048 := by
  unfold remoteTransfer
  dsimp only
  rw [sourceFeed_steady (.inl h), steadyFeed_ready]

/-- A row of an engine completes as its plan runs. -/
theorem exec_of_plan {i : Issue} {s : State} {r : UnitRow} (hr : r ∈ unitRows) (hf : r.form i = true) (h : s.Ready i)
    {free endAc : Nat} {effs : List Timed} (hp : r.plan i s (s.origin i) = .run free endAc effs) :
    exec (r.cmd i) s = .next (s.issued i free) ∧ r.plan i s (s.origin i) = .run free endAc effs := ⟨run_exec hr hf h hp, hp⟩

/-- The record of a destination that refuses a transfer over PORT 16 (R253, R270). -/
def refusedRec (op : Nat) (i : Issue) (s : State) (k r : Nat) : FaultRec :=
  let core : Fin 8 := Fin.ofNat 8 (remoteOp i).dstCore
  let g := s.region r
  let a := g.base + (remoteOp i).dstOff
  ropFault core k (if k = 1 then 0xFFFF else r) (remoteFaultOp op) (if g.used then g.place else 2)
    (if g.inHbm then a else sliceAddress core a) op 0 0 0

/-- What a transfer over PORT 16 does at its destination: the writes of the cores that it reaches and its SIG, or the fault of the
destination's port (R266 to R270). -/
def port16Arrives (op : Nat) (i : Issue) (s : State) (o : Origin) (si : Nat) (sr : Region) : List Timed :=
  let m := remoteOp i
  let x := remoteTransfer i s si sr
  let good := (passing s i o x sr 0 (remotePieces i sr)).1
  let read := x.feed.ready ⟨[(0, 64 * m.len64)], none, none⟩
  let core : Fin 8 := Fin.ofNat 8 m.dstCore
  match destination s op m with
  | .error (k, r) =>
    let t := x.feed.at_ 0
    [⟨t + 16, false, ⟨ropMaster core, 0xFFFFFFFF, op, some (o.master, t), 0, 0⟩, .fault (refusedRec op i s k r)⟩]
  | .ok j =>
    (s.reached core).flatMap (arrivals16 i s op m o j sr x good)
    ++ (if m.sig && good.length == (remotePieces i sr).length then
          [⟨read + 17, false, ⟨ropMaster core, 0xFFFFFFFF, op, some (o.master, read), 0, 0⟩, .counterAdd m.counter 1⟩]
        else [])

theorem port16Plan_ok {op : Nat} {i : Issue} {s : State} {o : Origin} {si : Nat} {sr : Region} (h : remoteSource i s o = .ok (si, sr)) :
    port16Plan op i s o =
      (let m := remoteOp i
       let x := remoteTransfer i s si sr
       let read := x.feed.ready ⟨[(0, 64 * m.len64)], none, none⟩
       .run (read + 17 + (if m.sig then 2 else 0)) (read + 17)
         (remoteReads s i o x.feed si sr ++ (passing s i o x sr 0 (remotePieces i sr)).2
           ++ (if s.silent i.core then [] else port16Arrives op i s o si sr))) := by
  unfold port16Plan
  rw [h]
  rfl

/-- Settles O27: the plans of the link forms and of PORT 16, by the case of `destination`. -/
theorem remoteRows : Obligations.RemoteRows := by
  refine ⟨fun i s hport h => ?_, fun i s si sr h hport hsrc => ?_⟩
  · dsimp only
    refine ⟨fun hw => ?_, fun hw => ?_, fun si sr hsrc r hr hw => ?_⟩
    · exact exec_of_plan get_mem hw h (remotePlan_link hport 0x081 s (s.origin i))
    · exact exec_of_plan remoteSignal_mem hw h (remotePlan_link hport 0x085 s (s.origin i))
    · refine and_assoc.mp ⟨exec_of_plan (sendRow_mem hr) hw h ?_, fun hslice => ?_⟩
      · refine (remotePlan_link hport r.1 s (s.origin i)).trans ?_
        unfold linkPlan
        dsimp only
        rw [if_neg (sendRow_sends hr), hsrc]
      · rw [remoteTransfer_ready hslice]
        omega
  · dsimp only
    intro r hr hw
    have hplan := (remotePlan_port16 hport r.1 s (s.origin i)).trans (port16Plan_ok hsrc)
    dsimp only at hplan
    refine ⟨run_exec (sendRow_mem hr) hw h hplan, fun hslice => ?_, fun hsilent => ?_, fun j hloud hdest => ?_, fun k reg hloud hdest => ?_⟩
    · rw [remoteTransfer_ready hslice]
      omega
    · rw [hplan, hsilent, if_pos (Eq.refl true), List.append_nil]
    · rw [hplan, hloud, if_neg Bool.false_ne_true, port16Arrives, hdest]
    · refine ⟨refusedRec r.1 i s k reg, rfl, rfl, ?_⟩
      rw [hplan, hloud, if_neg Bool.false_ne_true, port16Arrives, hdest]

end Sys2Proof.Machine
end

section
/-! SUPPORT. What an HBM burst touches (R232, R237, R254): errors that it meets are counted and logged, and leave the bytes of HBM, its
banks and the slots of the fabric. -/
namespace Sys2Proof.Machine

/-- The bytes of HBM, its banks and the fabric's slots. -/
def State.burst (s : State) : Memory × List (Nat × Bank) × FabricState := (s.hbm.mem, s.hbm.banks, s.fabric)

theorem raiseFault_burst (r : FaultRec) (s : State) : (s.raiseFault r).burst = s.burst := by
  obtain ⟨k, a, b, f, st, j, h, -, -⟩ := raiseFault_only r s
  rw [h]
  rfl

theorem addRepair_burst (e : Nat) (s : State) : (s.addRepair e).burst = s.burst := by
  unfold State.addRepair
  dsimp only
  split <;> rfl

theorem OnlyLogs.burst {s t : State} (h : OnlyLogs s t) : t.burst = s.burst := by
  obtain ⟨e, f, l, rfl⟩ := h
  rfl

theorem countCorrected_burst (hbm : Bool) (n : Nat) (s : State) : (s.countCorrected hbm n).burst = s.burst := by
  unfold State.countCorrected
  dsimp only
  exact foldl_same State.burst (fun u _ => (event_onlyLogs ..).burst) _ _

theorem correctedRow_burst (row : Nat) (s : State) : (s.correctedRow row).burst = s.burst := by
  unfold State.correctedRow
  dsimp only
  split
  · exact (addRepair_burst _ _).trans (countCorrected_burst ..)
  · exact countCorrected_burst ..

theorem uncorrectedBurst_burst (pc bank row xfer addr : Nat) (s : State) : (s.uncorrectedBurst pc bank row xfer addr).burst = s.burst := by
  unfold State.uncorrectedBurst
  dsimp only
  split
  · exact addRepair_burst ..
  · exact (raiseFault_burst ..).trans (addRepair_burst ..)

/-- A read burst of an open row leaves HBM and its banks; its data enter their slot unless they are uncorrected (R71, R237). -/
theorem readBurst_burst (h : HbmIssue) (sev : Severity) (row : Nat) (s : State) :
    (s.readBurst h sev row).burst = (s.hbm.mem, s.hbm.banks,
      if sev = .uncorrected then s.fabric else s.fabric.fill (controllerChannel h.pc.val) (hbmXfer h.word)
        (burstAddress h.pc.val (hbmBank h.word) row (hbmCol h.word))
        (s.hbm.mem.readBytes (burstAddress h.pc.val (hbmBank h.word) row (hbmCol h.word)) 32)) := by
  unfold State.readBurst
  cases sev with
  | clean => rfl
  | corrected => exact correctedRow_burst ..
  | uncorrected => exact uncorrectedBurst_burst ..

theorem fill_none (f : FabricState) (channel a : Nat) (d : Bytes) : f.fill channel 0x1FFF a d = f := if_pos rfl

theorem fill_slot {f : FabricState} {channel xfer : Nat} (h : xfer ≠ 0x1FFF) (a : Nat) (d : Bytes) :
    tabGet [] (slotKey channel xfer) (f.fill channel xfer a d).slots = tabGet [] (slotKey channel xfer) f.slots ++ [(a, d)] := by
  unfold FabricState.fill
  rw [if_neg h]
  dsimp only
  rw [tabGet_tabSet, if_pos (Eq.refl _)]

theorem bank_setBank (h : HbmIssue) (b : Bank) (s : State) : (s.setBank h b).bank h = b := by
  simp only [State.bank, State.setBank, tabGet_tabSet, if_true]

theorem bank_of_banks {s t : State} (e : t.hbm.banks = s.hbm.banks) (h : HbmIssue) : t.bank h = s.bank h := by
  simp only [State.bank, e]

/-- Bytes that a slot gives are as many as are asked for. -/
theorem slotBytes_some_length {a n : Nat} {l : List (Nat × Bytes)} {d : Bytes} (h : slotBytes a n l = some d) : d.length = n := by
  obtain ⟨x, -, rfl⟩ := Option.map_eq_some_iff.mp h
  exact slice_length ..

end Sys2Proof.Machine
end
section
/-! PROOF. The commands of an HBM stream (R70 to R72, R235 to R237, R430). -/
namespace Sys2Proof.Machine

/-- The state as RD and WR reach the bank: the stream moved on, the bank with its time of the command. -/
def State.atBank (h : HbmIssue) (b : Bank) (s : State) : State := (s.hbmAdvance h).setBank h b

theorem atBank_bank (h : HbmIssue) (b : Bank) (s : State) : (s.atBank h b).bank h = b := bank_setBank ..

theorem atBank_mem (h : HbmIssue) (b : Bank) (s : State) : (s.atBank h b).hbm.mem = s.hbm.mem := rfl

theorem atBank_fabric (h : HbmIssue) (b : Bank) (s : State) : (s.atBank h b).fabric = s.fabric := rfl

section
variable {cmd : Nat} {h : HbmIssue} {s : State}

theorem hbmPlain_running (hruns : s.scheduleRuns = true) (hw : hbmRowWord cmd h = true) : hbmPlain cmd h s = .next (s.hbmAdvance h) := by
  rw [hbmPlain, hw, hruns]
  rfl

theorem hbmPlain_standing (hruns : s.scheduleRuns = false) (hw : hbmRowWord cmd h = true) : hbmPlain cmd h s = .next s := by
  rw [hbmPlain, hw, hruns]
  rfl

theorem hbmBanked_running (hruns : s.scheduleRuns = true) (hw : hbmRowWord cmd h = true) (f : Bank → State → State) :
    hbmBanked cmd h f s = .next (f (s.bank h) (s.hbmAdvance h)) := by
  rw [hbmBanked, hw, hruns]
  rfl

theorem hbmBanked_standing (hruns : s.scheduleRuns = false) (hw : hbmRowWord cmd h = true) (f : Bank → State → State) :
    hbmBanked cmd h f s = .next s := by
  rw [hbmBanked, hw, hruns]
  rfl

end

theorem execRd_open {h : HbmIssue} {s : State} {row : Nat} (hruns : s.scheduleRuns = true) (hw : hbmRowWord 2 h = true) (sev : Severity)
    (hrow : (s.bank h).row = some row) :
    exec (.rd h sev) s = .next ((s.atBank h { s.bank h with rdAt := some (s.wallFc h) }).readBurst h sev row) := by
  change execRd h sev s = _
  rw [execRd, hbmBanked_running hruns hw]
  dsimp only
  rw [hrow]
  rfl

/-- RD of a bank without an open row: undefined data, at an address of no burst (log 142). -/
theorem execRd_closed {h : HbmIssue} {s : State} (hruns : s.scheduleRuns = true) (hw : hbmRowWord 2 h = true) (sev : Severity)
    (hrow : (s.bank h).row = none) : ∃ (d : Bytes) (n : Nat), d.length = 32 ∧
    exec (.rd h sev) s = .next { s.atBank h { s.bank h with rdAt := some (s.wallFc h) } with
      free := n, fabric := s.fabric.fill (controllerChannel h.pc.val) (hbmXfer h.word) hbmSize d } := by
  refine ⟨(List.range 32).map (Config.freeByte s.free), s.free + 1, by simp, ?_⟩
  change execRd h sev s = _
  rw [execRd, hbmBanked_running hruns hw]
  dsimp only
  rw [hrow]
  rfl

/-- RD, of a bank with an open row or without one. -/
theorem execRd_result {h : HbmIssue} {s : State} (hruns : s.scheduleRuns = true) (hw : hbmRowWord 2 h = true) (sev : Severity) :
    ∃ t, exec (.rd h sev) s = .next t ∧ t.hbm.mem = s.hbm.mem ∧ t.bank h = { s.bank h with rdAt := some (s.wallFc h) }
      ∧ (∀ row, (s.bank h).row = some row → t.fabric = if sev = .uncorrected then s.fabric else
          s.fabric.fill (controllerChannel h.pc.val) (hbmXfer h.word) (burstAddress h.pc.val (hbmBank h.word) row (hbmCol h.word))
            (s.hbm.mem.readBytes (burstAddress h.pc.val (hbmBank h.word) row (hbmCol h.word)) 32))
      ∧ ((s.bank h).row = none →
          ∃ d : Bytes, d.length = 32 ∧ t.fabric = s.fabric.fill (controllerChannel h.pc.val) (hbmXfer h.word) hbmSize d) := by
  cases hrow : (s.bank h).row with
  | some row =>
    have hburst := readBurst_burst h sev row (s.atBank h { s.bank h with rdAt := some (s.wallFc h) })
    simp only [State.burst, Prod.mk.injEq] at hburst
    obtain ⟨hmem, hbanks, hfabric⟩ := hburst
    refine ⟨_, execRd_open hruns hw sev hrow, hmem, (bank_of_banks hbanks h).trans (atBank_bank ..), fun r hr => ?_, fun hn => (nomatch hn)⟩
    obtain rfl := Option.some.inj hr
    exact hfabric
  | none =>
    obtain ⟨d, n, hd, hexec⟩ := execRd_closed hruns hw sev hrow
    exact ⟨_, hexec, rfl, atBank_bank h _ s, fun r hr => (nomatch hr), fun _ => ⟨d, hd, rfl⟩⟩

theorem setBank_fabric (h : HbmIssue) (b : Bank) (s : State) : (s.setBank h b).fabric = s.fabric := rfl

theorem hbmAdvance_fabric (h : HbmIssue) (s : State) : (s.hbmAdvance h).fabric = s.fabric := rfl

/-- The bytes that the slot of a WR holds for its burst (R60, R71). -/
def State.burstBytes (h : HbmIssue) (row : Nat) (s : State) : Option Bytes :=
  slotBytes (burstAddress h.pc.val (hbmBank h.word) row (hbmCol h.word)) 32
    (tabGet [] (slotKey (controllerChannel h.pc.val) (hbmXfer h.word)) s.fabric.slots)

theorem execWr_filled {h : HbmIssue} {s : State} {row : Nat} {d : Bytes} (hruns : s.scheduleRuns = true) (hw : hbmRowWord 3 h = true)
    (hrow : (s.bank h).row = some row) (hd : s.burstBytes h row = some d) :
    exec (.wr h) s = .next ((s.atBank h { s.bank h with wrAt := some (s.wallFc h) }).apply
      (.hbm (burstAddress h.pc.val (hbmBank h.word) row (hbmCol h.word)) d)) := by
  unfold State.burstBytes at hd
  change execWr h s = _
  rw [execWr, hbmBanked_running hruns hw]
  dsimp only
  rw [hrow]
  dsimp only
  rw [setBank_fabric, hbmAdvance_fabric, hd]
  rfl

/-- A burst for which the slot holds no data writes undefined data (log 142). -/
theorem execWr_unfilled {h : HbmIssue} {s : State} {row : Nat} (hruns : s.scheduleRuns = true) (hw : hbmRowWord 3 h = true)
    (hrow : (s.bank h).row = some row) (hd : s.burstBytes h row = none) :
    exec (.wr h) s = .next ((s.atBank h { s.bank h with wrAt := some (s.wallFc h) }).freeBurst.2.apply
      (.hbm (burstAddress h.pc.val (hbmBank h.word) row (hbmCol h.word))
        (s.atBank h { s.bank h with wrAt := some (s.wallFc h) }).freeBurst.1)) := by
  unfold State.burstBytes at hd
  change execWr h s = _
  rw [execWr, hbmBanked_running hruns hw]
  dsimp only
  rw [hrow]
  dsimp only
  rw [setBank_fabric, hbmAdvance_fabric, hd]
  rfl

/-- A write leaves the banks (R233). -/
theorem apply_hbm_bank (h : HbmIssue) (a : Nat) (d : Bytes) (u : State) : (u.apply (.hbm a d)).bank h = u.bank h := rfl

theorem apply_hbm_mem (a : Nat) (d : Bytes) (u : State) : (u.apply (.hbm a d)).hbm.mem = u.hbm.mem.writeBytes a d := rfl

theorem freeBurst_bank (h : HbmIssue) (u : State) : u.freeBurst.2.bank h = u.bank h := rfl

theorem freeBurst_mem (u : State) : u.freeBurst.2.hbm.mem = u.hbm.mem := rfl

theorem execWr_closed {h : HbmIssue} {s : State} (hruns : s.scheduleRuns = true) (hw : hbmRowWord 3 h = true)
    (hrow : (s.bank h).row = none) : exec (.wr h) s = .next (s.atBank h { s.bank h with wrAt := some (s.wallFc h) }) := by
  change execWr h s = _
  rw [execWr, hbmBanked_running hruns hw]
  dsimp only
  rw [hrow]
  rfl

/-- WR stores 32 bytes into an open row, those of its slot where the slot holds them (R71, log 142). -/
theorem execWr_open {h : HbmIssue} {s : State} {row : Nat} (hruns : s.scheduleRuns = true) (hw : hbmRowWord 3 h = true)
    (hrow : (s.bank h).row = some row) : ∃ (t : State) (d : Bytes), exec (.wr h) s = .next t ∧ d.length = 32
      ∧ t.bank h = { s.bank h with wrAt := some (s.wallFc h) }
      ∧ t.hbm.mem = s.hbm.mem.writeBytes (burstAddress h.pc.val (hbmBank h.word) row (hbmCol h.word)) d
      ∧ ∀ e, s.burstBytes h row = some e → e = d := by
  cases hd : s.burstBytes h row with
  | some d =>
    exact ⟨_, d, execWr_filled hruns hw hrow hd, slotBytes_some_length hd, atBank_bank h _ s, apply_hbm_mem ..,
      fun e he => (Option.some.inj he).symm⟩
  | none =>
    refine ⟨_, (s.atBank h { s.bank h with wrAt := some (s.wallFc h) }).freeBurst.1, execWr_unfilled hruns hw hrow hd, ?_, ?_, ?_, fun e he => (nomatch he)⟩
    · simp [State.freeBurst]
    · rw [apply_hbm_bank, freeBurst_bank, atBank_bank]
    · rw [apply_hbm_mem, freeBurst_mem, atBank_mem]

/-- Settles O28: each row's result, the two data rows by whether the bank has an open row. -/
theorem hbmRows : Obligations.HbmRows := by
  refine ⟨fun h s hruns => ?_, fun h s hruns => ?_⟩
  · dsimp only
    refine ⟨fun hw => ?_, fun hw => ?_, fun hw => ?_, fun hw => ?_, fun hw => ?_, fun hw sev => ?_, fun hw => ?_⟩
    · exact hbmPlain_running hruns hw
    · exact hbmPlain_running hruns hw
    · change execAct h s = _
      exact hbmBanked_running hruns hw _
    · change execPre h s = _
      exact hbmBanked_running hruns hw _
    · change execRefpb h s = _
      rw [execRefpb, hw, hruns]
      rfl
    · obtain ⟨t, hexec, hmem, hbank, hopen, hclosed⟩ := execRd_result hruns hw sev
      refine ⟨t, hexec, hmem, by rw [hbank], by rw [hbank], fun hx => ?_, fun r hx hr hsev => ?_, fun hr hsev => ?_, fun hx hr => ?_⟩
      · cases hrow : (s.bank h).row with
        | some row => rw [hopen row hrow, hx, fill_none, ite_self]
        | none =>
          obtain ⟨d, -, hfabric⟩ := hclosed hrow
          rw [hfabric, hx, fill_none]
      · rw [hopen r hr, if_neg hsev, fill_slot hx]
      · obtain ⟨row, hrow⟩ := Option.isSome_iff_exists.mp hr
        rw [hopen row hrow, if_pos hsev]
      · obtain ⟨d, hd, hfabric⟩ := hclosed hr
        exact ⟨d, hd, by rw [hfabric, fill_slot hx]⟩
    · cases hrow : (s.bank h).row with
      | none =>
        refine ⟨_, execWr_closed hruns hw hrow, ?_, ?_, fun _ => rfl, fun r d k _ hr => (nomatch hr), fun r x hr => (nomatch hr)⟩
        · rw [atBank_bank, hrow]
        · rw [atBank_bank]
      | some row =>
        obtain ⟨t, d, hexec, hlen, hbank, hmem, hslot⟩ := execWr_open hruns hw hrow
        refine ⟨t, hexec, by rw [hbank, hrow], by rw [hbank], fun hn => (nomatch hn), fun r e k hcan hr he hk => ?_, fun r x hr hx => ?_⟩
        · obtain rfl := Option.some.inj hr
          obtain rfl := hslot e he
          obtain ⟨-, hwf, -⟩ := hcan
          rw [hmem, Memory.read_writeBytes hwf, if_pos (by omega), Nat.add_sub_cancel_left]
          simp [List.getD, hlen, hk]
        · obtain rfl := Option.some.inj hr
          rw [hmem, Memory.read_writeBytes_ne _ _ _ _ (by omega)]
  · refine ⟨hbmPlain_standing hruns, hbmPlain_standing hruns, fun hw => ?_, fun hw => ?_, fun hw sev => ?_, fun hw => ?_, fun hw => ?_⟩
    · change execAct h s = _
      exact hbmBanked_standing hruns hw _
    · change execPre h s = _
      exact hbmBanked_standing hruns hw _
    · change execRd h sev s = _
      exact hbmBanked_standing hruns hw _
    · change execWr h s = _
      exact hbmBanked_standing hruns hw _
    · change execRefpb h s = _
      rw [execRefpb, hw, hruns]
      rfl

end Sys2Proof.Machine
end

section
/-! PROOF. FABRIC_SLOT: what one slot moves, by its kind and direction (R20, R21, R60). -/
namespace Sys2Proof.Machine

theorem tabGet_tabDel {α : Type} (d : α) (k : Nat) (t : List (Nat × α)) : tabGet d k (tabDel k t) = d := by
  induction t with
  | nil => rfl
  | cons p t ih =>
    by_cases h : p.1 = k
    · simpa [tabDel, h] using ih
    · simpa [tabDel, h, tabGet] using ih

/-- A slot of a running schedule, its channel's table holding `w` at the slot of the fc (R60). -/
theorem execFabricSlot_running {channel : Fin 136} {dir half : Bool} {s : State} {w : Word128} {table : List Word128} {j : Nat}
    (hruns : s.scheduleRuns = true) (ht : s.program!.fabric.getD channel.val [] = table) (hj : (2 * s.stepOffset + bit half) % table.length = j)
    (hw : table[j]? = some w) :
    exec (.fabricSlot channel dir half) s = .next (if (fabricHalf w dir).kind = 1 ∨ (fabricHalf w dir).kind = 2
      then { s with fabric := s.fabric.slot s.now channel.val j dir (fabricHalf w dir) }
      else s.reservedSlot (fabricHalf w dir).kind channel.val) := by
  have hne : table.isEmpty = false := by
    cases table with
    | nil => simp at hw
    | cons => rfl
  have hget : table.getD j 0 = w := by simp [List.getD, hw]
  change execFabricSlot channel dir half s = _
  unfold execFabricSlot slotIndex
  dsimp only
  rw [ht, if_neg (by simp [hruns, hne]), hj, hget]

/-- A slot of direction 0 of the controller that SRC names gives its burst data to the unit that DST names (R60). -/
theorem slot_out {f : FabricState} {now channel j u : Nat} {x : FabricHalf} (hu : controllerOf channel = some u) (hx : x.src = u) :
    f.slot now channel j false x =
      { f with slots := tabDel (slotKey channel j) f.slots }.give now x.dst (tabGet [] (slotKey channel j) f.slots) := by
  unfold FabricState.slot
  rw [hu]
  dsimp only
  rw [if_pos (by simp [hx])]

/-- A slot of direction 1 of the controller that DST names takes the part that SRC names (R60). -/
theorem slot_in {f : FabricState} {now channel j u : Nat} {x : FabricHalf} (hu : controllerOf channel = some u) (hx : x.dst = u) {p : FabricPart}
    (hp : f.out.find? (fun p => p.unit == x.src && p.part == x.part && p.addr / 2048 % 640 / 32 + 0x40 == u) = some p) :
    f.slot now channel j true x = { f with slots := tabSet (slotKey channel j) [(p.addr, p.data)] f.slots, out := f.out.erase p } := by
  unfold FabricState.slot
  rw [hu]
  dsimp only
  rw [if_neg (by simp), if_pos (by simp [hx]), hp]

theorem reservedSlot_none (channel : Nat) (s : State) : s.reservedSlot 0 channel = s := by
  unfold State.reservedSlot
  split <;> rfl

/-- Settles O29: the slot's move by its direction, and what a reserved slot does. -/
theorem fabricSlotMoves : Obligations.FabricSlotMoves := by
  intro channel dir half s w
  dsimp only
  refine ⟨fun hstop => ?_, fun hruns hw => ⟨execFabricSlot_running hruns rfl rfl hw, fun u hu => ⟨fun hdir hsrc => ?_, fun p hdir hdst hp => ?_⟩,
    fun hkind => ?_, fun hatt hwin hkind hst => ?_⟩⟩
  · change execFabricSlot channel dir half s = _
    unfold execFabricSlot
    dsimp only
    rw [if_pos (by simp [hstop])]
  · subst hdir
    rw [slot_out hu hsrc]
    exact ⟨rfl, tabGet_tabDel .., rfl⟩
  · subst hdir
    rw [slot_in hu hdst hp]
    refine ⟨?_, rfl, rfl⟩
    rw [tabGet_tabSet, if_pos (Eq.refl _)]
  · rw [hkind, reservedSlot_none]
  · obtain ⟨a, ha⟩ := Option.isSome_iff_exists.mp hatt
    unfold State.reservedSlot
    rw [if_neg, hkind, ha]
    · exact if_pos hst
    · by_cases h64 : channel.val < 64
      · simp [hwin h64]
      · simp [h64]

end Sys2Proof.Machine
end

section
/-! PROOF. Link events (R261, R273, R274, R282, R394, R395): retry copies, misses, lanes, ports that train late. -/
namespace Sys2Proof.Machine

/-- A retry copy of a flit: KIND 2, and the fields of the flit below (R258, R273). -/
theorem retryHeader_fields (hdr : BitVec 48) :
    field (BitVec.ofNat 48 (2 * 2 ^ 46 + hdr.toNat % 2 ^ 46)).toNat 46 2 = 2
    ∧ field (BitVec.ofNat 48 (2 * 2 ^ 46 + hdr.toNat % 2 ^ 46)).toNat 29 15 = field hdr.toNat 29 15
    ∧ field (BitVec.ofNat 48 (2 * 2 ^ 46 + hdr.toNat % 2 ^ 46)).toNat 0 8 = field hdr.toNat 0 8 := by
  have hnat : (BitVec.ofNat 48 (2 * 2 ^ 46 + hdr.toNat % 2 ^ 46)).toNat = 2 * 2 ^ 46 + hdr.toNat % 2 ^ 46 := by
    rw [BitVec.toNat_ofNat]
    omega
  rw [hnat]
  unfold field
  omega

theorem OnlyLogs.ports {s t : State} (h : OnlyLogs s t) : t.ports = s.ports := by
  obtain ⟨e, f, l, rfl⟩ := h
  rfl

theorem checkLinkClock_ports (s : State) : s.checkLinkClock.ports = s.ports := by
  unfold State.checkLinkClock
  split <;> rfl

theorem recordLane_ports (p : Fin 16) (lane : Nat) (s : State) : (s.recordLane p lane).ports = s.ports := by
  unfold State.recordLane
  dsimp only
  split <;> rfl

theorem port_of_ports {s t : State} (h : t.ports = s.ports) (p : Fin 16) : t.port p = s.port p := by
  simp only [State.port, h]

/-- A port that is failed is FAILED, and no other port changes (R261, R274). -/
theorem failPort_port (p q : Fin 16) (s : State) :
    ((s.failPort p).port p).st = 4 ∧ (q ≠ p → (s.failPort p).port q = s.port q) := by
  unfold State.failPort
  split
  next h => exact ⟨by simpa using h, fun _ => rfl⟩
  next h =>
    have hports := (event_onlyLogs 14 (u8 p.val) [] (s.modPort p (fun x => { x with st := 4, remap := none }))).ports
    refine ⟨?_, fun hq => ?_⟩
    · rw [port_of_ports hports]
      simp
    · rw [port_of_ports hports]
      simp [Ne.symm hq]

/-- The failed lane enters the port's list, with what follows of it (R333, R366). -/
def State.noteLane (p : Fin 16) (rx : Bool) (lane : Nat) (s : State) : State :=
  ((s.modPort p (fun x => { x with failed := x.failed ++ [(rx, lane)] })).checkLinkClock).recordLane p lane

theorem noteLane_port (p q : Fin 16) (rx : Bool) (lane : Nat) (s : State) :
    (s.noteLane p rx lane).port q = if p = q then { s.port p with failed := (s.port p).failed ++ [(rx, lane)] } else s.port q := by
  have h : (s.noteLane p rx lane).ports = _ := (recordLane_ports ..).trans (checkLinkClock_ports _)
  rw [port_of_ports h]
  by_cases hq : p = q
  · subst hq
    simp
  · simp [hq]

/-- A lane that fails is noted; where it is the port's second, the port fails (R261). -/
theorem loseLane_eq (p : Fin 16) (rx : Bool) (lane : Nat) (s : State) :
    s.loseLane p rx lane = if (s.port p).failed = [] then s.noteLane p rx lane else (s.noteLane p rx lane).failPort p := by
  change (if 2 ≤ ((s.noteLane p rx lane).port p).failed.length then (s.noteLane p rx lane).failPort p else s.noteLane p rx lane) = _
  rw [noteLane_port, if_pos (Eq.refl p)]
  cases (s.port p).failed <;> simp

/-- A port that carries flits is not FAILED. -/
theorem notFailed_of_carries {x : PortState} (h : x.carries = true) : (x.st == 4) = false := by
  unfold PortState.carries at h
  cases h4 : x.st == 4
  · rfl
  · rw [beq_iff_eq.mp h4] at h
    exact absurd h (by decide)

theorem carries_of_lanesChange {p : Fin 16} {rx : Bool} {lane : Nat} {s : State} (h : s.lanesChange p rx lane = true) :
    (s.port p).carries = true := by
  simp only [State.lanesChange, Bool.and_eq_true] at h
  exact h.1.2

/-- The first failed lane of a port leaves its state (R261). -/
theorem loseLane_first_st {p : Fin 16} {rx : Bool} {lane : Nat} {s : State} (h : s.lanesChange p rx lane = true)
    (hf : (s.port p).failed = []) : (((s.loseLane p rx lane).port p).st == 4) = false := by
  rw [loseLane_eq, if_pos hf, noteLane_port, if_pos (Eq.refl p)]
  exact notFailed_of_carries (carries_of_lanesChange h)

/-- The second failed lane of a port makes it FAILED and changes no other port (R261). -/
theorem loseLane_second {p : Fin 16} (rx : Bool) (lane : Nat) {s : State} (hf : (s.port p).failed ≠ []) :
    ((s.loseLane p rx lane).port p).st = 4 ∧ ∀ q : Fin 16, q ≠ p → (s.loseLane p rx lane).port q = s.port q := by
  rw [loseLane_eq, if_neg hf]
  refine ⟨(failPort_port p p _).1, fun q hq => ?_⟩
  rw [(failPort_port p q _).2 hq, noteLane_port, if_neg (Ne.symm hq)]

/-- Noting a failed lane changes the ports, the monitor of LINK and the health record. -/
theorem noteLane_only (p : Fin 16) (rx : Bool) (lane : Nat) (s : State) :
    ∃ ports mon sec, s.noteLane p rx lane = { s with ports := ports, clock := { s.clock with linkMon := mon }, sec := sec } := by
  unfold State.noteLane State.recordLane State.checkLinkClock
  dsimp only
  split <;> split <;> exact ⟨_, _, _, rfl⟩

/-- The first failed lane of a port leaves the schedule, its time and the port's latency. -/
theorem loseLane_first_time {p : Fin 16} {rx : Bool} {lane : Nat} {s : State} (hf : (s.port p).failed = []) :
    (s.loseLane p rx lane).scheduleRuns = s.scheduleRuns ∧ (s.loseLane p rx lane).now = s.now
    ∧ (s.loseLane p rx lane).soakPeriod = s.soakPeriod ∧ ((s.loseLane p rx lane).port p).latency = (s.port p).latency := by
  rw [loseLane_eq, if_pos hf, noteLane_port, if_pos (Eq.refl p)]
  obtain ⟨ports, mon, sec, h⟩ := noteLane_only p rx lane s
  rw [h]
  exact ⟨rfl, rfl, rfl, rfl⟩

/-- A NAK queues a retry copy of the flit, or fails the port after 64 copies (R273, R274). -/
theorem exec_nak (p : Fin 16) (s : State) (slot : BitVec 15) (o : Outgoing) (hc : (s.port p).carries = true)
    (hf : (s.port p).sent.find? (fun o => o.slot == slot.toNat) = some o) :
    let n : Outgoing := { o with copies := o.copies + 1 }
    (o.copies < 64 → ∃ c : Outgoing, exec (.nak p slot) s = .next (s.modPort p (fun x => { x with
        sent := x.sent.map (fun y => if y = o then n else y), copies := x.copies ++ [c] }))
      ∧ flitKind c.flit = 2 ∧ c.slot = o.slot ∧ c.start = o.start ∧ c.flit.payload = o.flit.payload
      ∧ flitSlot c.flit = flitSlot o.flit ∧ flitStamp c.flit = flitStamp o.flit)
    ∧ (64 ≤ o.copies → exec (.nak p slot) s = .next (s.failPort p)) := by
  intro n
  obtain ⟨hkind, hslot, hstamp⟩ := retryHeader_fields o.flit.hdr
  constructor
  · intro h
    refine ⟨{ n with wall := s.wall.toNat, flit := { o.flit with hdr := BitVec.ofNat 48 (2 * 2 ^ 46 + o.flit.hdr.toNat % 2 ^ 46) } },
      ?_, hkind, rfl, rfl, rfl, hslot, hstamp⟩
    change execNak p slot s = _
    rw [execNak, hf]
    simp only [hc, Bool.not_true, Bool.false_eq_true, if_false]
    rw [if_neg (by unfold copyLimit; omega)]
  · intro h
    change execNak p slot s = _
    rw [execNak, hf]
    simp only [hc, Bool.not_true, Bool.false_eq_true, if_false]
    exact if_pos h

/-- A flit that misses its deadline is counted; a guarded transfer raises the soak of cause 1, an unguarded one is link poison (R274). -/
theorem exec_deadlineMiss (p : Fin 16) (s : State) (d : Damaged) (hr : s.scheduleRuns = true)
    (hf : (s.port p).damaged.find? (fun d => !d.missed && decide (d.deadline ≤ s.now)) = some d) :
    let x := rxEntry ((s.linkTable p).entry d.slot)
    let t := s.modPort p (fun x => { x with
      misses := satInc x.misses, damaged := x.damaged.map (fun y => if y = d then { y with missed := true } else y) })
    (x.kind = 0 → exec (.deadlineMiss p) s = .next t)
    ∧ (x.kind ≠ 0 → x.guard = true → exec (.deadlineMiss p) s = .next (t.raiseSoak 1 (missTag p d.slot) true))
    ∧ (x.kind ≠ 0 → x.guard = false → exec (.deadlineMiss p) s = .next (t.linkPoison p x.core.val 3 d.slot)) := by
  intro x t
  have hexec : exec (.deadlineMiss p) s = if x.kind = 0 then .next t
      else if x.guard then .next (t.raiseSoak 1 (missTag p d.slot) true) else .next (t.linkPoison p x.core.val 3 d.slot) := by
    change execDeadlineMiss p s = _
    rw [execDeadlineMiss, hr, hf]
    rfl
  rw [hexec]
  exact ⟨fun h => if_pos h, fun h hg => by rw [if_neg h, hg, if_pos rfl], fun h hg => by
    rw [if_neg h, hg]
    rfl⟩

theorem lane_ne_spare {lane : Nat} (h : lane ≠ 8) : (lane == spareLane) = false := beq_false_of_ne h

/-- The first failed lane that a port receives on is reported to the sending end (R261). -/
theorem exec_laneFailure_first {p : Fin 16} {lane : Fin 9} {s : State} (hf : (s.port p).failed = []) (h8 : lane.val ≠ 8)
    (h : s.lanesChange p true lane.val = true) :
    exec (.laneFailure p lane) s = .next ((s.loseLane p true lane.val).modPort p
      (fun x => { x with control := x.control ++ [.laneFailure lane.val] })) := by
  change execLaneFailure p lane s = _
  simp only [execLaneFailure, h, loseLane_first_st h hf, lane_ne_spare h8, Bool.not_true, Bool.or_false, Bool.false_eq_true,
    if_false]

/-- The first failed lane that a port sends on is replaced at its grid point (R260, R261). -/
theorem exec_laneFailureReport_first {p : Fin 16} {lane : Fin 9} {s : State} (hf : (s.port p).failed = []) (h8 : lane.val ≠ 8)
    (h : s.lanesChange p false lane.val = true) :
    exec (.laneFailureReport p lane) s = .next ((s.loseLane p false lane.val).modPort p
      (fun x => { x with remap := some (lane.val,
        if s.scheduleRuns then roundUp (s.now - (s.port p).latency + 256) s.soakPeriod else s.now) })) := by
  obtain ⟨hruns, hnow, hperiod, hlatency⟩ := loseLane_first_time (rx := false) (lane := lane.val) hf
  change execLaneFailureReport p lane s = _
  simp only [execLaneFailureReport, h, loseLane_first_st h hf, lane_ne_spare h8, Bool.not_true, Bool.or_false, Bool.false_eq_true,
    if_false, hruns, hnow, hperiod, hlatency]

/-- The port switches to the spare when its grid point has come, or at once while schedule time stands still (R261, R291). -/
theorem exec_laneRemap {p : Fin 16} {lane due : Nat} {s : State} (hm : (s.port p).remap = some (lane, due))
    (hdue : s.scheduleRuns = true → due ≤ s.now) :
    exec (.laneRemap p) s = .next ((s.modPort p (fun x => { x with
      st := 3, spareFor := BitVec.ofNat 4 lane, remap := none })).event 13 (u8 p.val ++ u8 lane) []) := by
  change execLaneRemap p s = _
  rw [execLaneRemap, hm]
  exact if_neg (fun h => absurd (hdue h.1) (Nat.not_le.mpr h.2))

/-- A second failed lane of a port, of either direction, makes it FAILED (R261). -/
theorem exec_lane_second {p : Fin 16} {rx : Bool} {lane : Fin 9} {s : State} (h : s.lanesChange p rx lane.val = true)
    (hf : (s.port p).failed ≠ []) :
    exec (if rx then .laneFailure p lane else .laneFailureReport p lane) s = .next (s.loseLane p rx lane.val) := by
  have hst : ((s.loseLane p rx lane.val).port p).st = 4 := (loseLane_second rx lane.val hf).1
  cases rx
  · change execLaneFailureReport p lane s = _
    simp [execLaneFailureReport, h, hst]
  · change execLaneFailure p lane s = _
    simp [execLaneFailure, h, hst]

/-- A port that waited for its partner is up (R282, R395). -/
theorem exec_portUp {p : Fin 16} (m : PortMeasure) {s : State} (ha : s.alive = true) (hst : (s.port p).st = 1)
    (hstage : 7 ≤ s.boot.stage.toNat) :
    exec (.portUp p m) s = .next
      (s.modPort p (fun x => (x.withLanes (s.recordedLanes p)).identify.measured m)).pendingLinks.refreshNeighbours := by
  change execPortUp p m s = _
  rw [execPortUp, ha, hst]
  exact if_neg (by simpa using hstage)

/-- A lock report on a live module: noted on its port, and with FOLLOW_PORT's it sets the monitor of LINK (R394). -/
theorem exec_lockedReport (r : LockReport) {s : State} (ha : s.alive = true) :
    exec (.lockedReport r) s =
      if s.links.origin || r.port.val != s.links.followPort.toNat then
        .next (s.modPort r.port (fun x => { x with lockedIn := r.locked }))
      else if r.locked then
        .next ((s.modPort r.port (fun x => { x with lockedIn := r.locked })).modMon .link (fun m => { m with enabled := true }))
      else if s.boot.stage == 7 then
        .next ((s.modPort r.port (fun x => { x with lockedIn := r.locked })).modMon .link (fun _ => SourceMon.initial))
      else .next (s.modPort r.port (fun x => { x with lockedIn := r.locked })) := by
  change execLockedReport r s = _
  rw [execLockedReport, ha]
  rfl

theorem modMon_link_port (f : SourceMon → SourceMon) (p : Fin 16) (s : State) :
    (s.modMon .link f).port p = s.port p ∧ (s.modMon .link f).clock.linkMon = f s.clock.linkMon := ⟨rfl, rfl⟩

/-- Settles O30: each event of a link by the equation of its row; a failed lane through `loseLane_eq`. -/
theorem linkEvents : Obligations.LinkEvents := by
  refine ⟨fun p s => ⟨fun slot o => exec_nak p s slot o, fun d => exec_deadlineMiss p s d, fun lane hf h8 => ?_,
    fun lane due => exec_laneRemap⟩, fun p rx lane s h hf => ?_, fun p s ha => ⟨fun m => exec_portUp m ha, ?_, ?_, ?_⟩⟩
  · exact ⟨exec_laneFailure_first hf h8, exec_laneFailureReport_first hf h8⟩
  · exact ⟨_, exec_lane_second h hf, loseLane_second rx lane.val hf⟩
  · intro ho hp
    refine ⟨_, (exec_lockedReport ⟨p, true⟩ ha).trans (if_neg (by simp [ho, hp])), ?_, rfl, rfl⟩
    rw [(modMon_link_port ..).1, State.port_modPort, if_pos (Eq.refl p)]
  · intro ho hp h7
    refine ⟨_, (exec_lockedReport ⟨p, false⟩ ha).trans ((if_neg (by simp [ho, hp])).trans (if_pos (beq_iff_eq.mpr h7))), ?_, rfl⟩
    rw [(modMon_link_port ..).1, State.port_modPort, if_pos (Eq.refl p)]
  · intro l ho
    exact (exec_lockedReport ⟨p, l⟩ ha).trans (if_pos (by simp [ho]))

end Sys2Proof.Machine
end

section
/-! PROOF. Barriers, commits and holds (R40, R79, R174, R175, R249, R276, R285, R319, R364). -/
namespace Sys2Proof.Machine

/-! ### A barrier that falls due -/

/-- BARRIER_DUE at a barrier: its words pass, BARRIER_SEQ counts it, and it is evaluated but in a fault's hold latency (R79, R249). -/
theorem exec_barrierDue {s : State} {r : BarrierRec} (hr : s.scheduleRuns = true) (hb : s.barrierHere = some r) :
    let n := s.passBarrierWords
    let t := { n with job := { n.job with barrierSeq := n.job.barrierSeq + 1 } }
    exec .barrierDue s = if s.job.faultAt.isSome then .next t else .next (t.evaluate r) := by
  change execBarrierDue s = _
  rw [execBarrierDue, hr, hb]
  rfl

/-- Settles O32: the equations of BARRIER_DUE and of the barrier's evaluation, branch by branch. -/
theorem barrierDue : Obligations.BarrierDue := by
  refine ⟨fun s r hr hb => ?_, fun s r hdue hbar hsus => ?_⟩
  · intro n t w
    have hexec : exec .barrierDue s = if s.job.faultAt.isSome then .next t else .next (t.evaluate r) := exec_barrierDue hr hb
    have heval : t.evaluate r = if w.job.suspectStop then
        ({ w with job := { w.job with barrier := some r, lastBarrier := BitVec.ofNat 16 r.id } } : State).haltAt .evaluate
      else if w.unready r ≠ 0 then w.beginHold r (w.unready r)
      else if !w.tokenHeld then { w with job := { w.job with barrier := some r, tokenDue := true } }
      else w.barrierActions r := rfl
    rw [hexec, heval]
    refine ⟨fun hf => by rw [hf, if_pos rfl], fun hf hs => by simp [hf, hs], fun hf hs hu => by simp [hf, hs, hu],
      fun hf hs hu ht => by simp [hf, hs, hu, ht], fun hf hs hu ht => by simp [hf, hs, hu, ht]⟩
  · intro v
    have htok : v.tokenHeld = s.tokenHeld := rfl
    have hsettle : s.settleToken = if !s.job.tokenDue then s else match s.job.barrier with
      | none => v
      | some r => if s.job.suspectStop then v.haltAt .evaluate else if v.tokenHeld then v.barrierActions r else v.beginHold r 2 := rfl
    rw [hsettle, hdue, hbar, hsus, htok]
    rfl

/-! ### The commit -/

theorem padTo_length (n : Nat) (l : Bytes) : (padTo n l).length = n := slice_length 0 n l

/-- The record body holds 124 bytes (R175). -/
theorem recordBody_length (shelf lg : Bool) (s : State) : (s.recordBody shelf lg).length = 124 := by
  unfold State.recordBody
  cases s.image <;> simp [le16, le32, le64, u8, leBytes_length, padTo_length]

/-- The parameter shelf that a commit leaves (R174). -/
def State.nextShelf (s : State) : Bool := if s.job.abandoned then s.job.g else !s.job.g

/-- The record of a commit: its body and the CRC of it (R175). -/
def State.commitRecord (s : State) : Bytes :=
  s.recordBody s.nextShelf (!s.job.lg) ++ le32 (crc32c (s.recordBody s.nextShelf (!s.job.lg))).toNat

/-- The state of a commit before its notice, but for the counts of its ledger shelf (R174). -/
def State.committed (s : State) : State :=
  let u := s.apply (.hbm (s.commitAddr s.nextShelf) s.commitRecord)
  { u with
    cores := u.cores.map (fun k : CoreState => { k with groups := ([] : List (Nat × GroupEntry)) }),
    job := { u.job with
      g := s.nextShelf, lg := !s.job.lg, stepNum := u.job.stepNum + 1,
      paramStep := (if s.job.abandoned then u.job.paramStep else u.job.stepNum),
      abandoned := false, abandonGroup := 0xFFFF, clipped := 0, fmtSat := false } }

/-- A commit is its write, its bookkeeping, the counts of its ledger shelf and its notice (R174). -/
theorem commit_eq (s : State) :
    let u := s.committed
    s.commit = stepNotice s.job.abandoned s.job.stepNum.toNat s.job.abandonGroup.toNat s.commitRecord { u with job := { u.job with
      ovfRecords := BitVec.ofNat 16 (u.ledgerCount (!s.job.lg) s.job.stepNum.toNat 1),
      invRecords := BitVec.ofNat 16 (u.ledgerCount (!s.job.lg) s.job.stepNum.toNat 2) } } := rfl

/-- The notice of a finished step counts the commit and logs it; memories and cores stay. -/
theorem stepNotice_keeps (ab : Bool) (n group : Nat) (rcd : Bytes) (s : State) :
    (stepNotice ab n group rcd s).hbm = s.hbm ∧ (stepNotice ab n group rcd s).cores = s.cores
    ∧ ∃ k, (stepNotice ab n group rcd s).job = { s.job with commits := k } := by
  unfold stepNotice
  dsimp only
  split
  · obtain ⟨e, f, l, h⟩ := event_onlyLogs 6 (le64 n ++ le16 group) rcd s
    rw [h]
    exact ⟨rfl, rfl, _, rfl⟩
  · split
    · obtain ⟨e, f, l, h⟩ := event_onlyLogs 5 (le64 n) rcd { s with job := { s.job with commits := s.job.commits + 1 } }
      rw [h]
      exact ⟨rfl, rfl, _, rfl⟩
    · exact ⟨rfl, rfl, _, rfl⟩

theorem commit_hbm (s : State) : s.commit.hbm = (s.apply (.hbm (s.commitAddr s.nextShelf) s.commitRecord)).hbm := by
  rw [commit_eq, (stepNotice_keeps ..).1]
  rfl

theorem commit_core (c : Fin 8) (s : State) : s.commit.core c = { s.core c with groups := [] } := by
  have h : s.commit.cores = s.cores.map (fun k : CoreState => { k with groups := ([] : List (Nat × GroupEntry)) }) := by
    rw [commit_eq, (stepNotice_keeps ..).2.1]
    rfl
  simp [State.core, h]

theorem commitRecord_length (s : State) : s.commitRecord.length = 128 := by
  simp [State.commitRecord, recordBody_length, le32, leBytes_length]

/-- Inside a write the bytes written are read. -/
theorem read_writeBytes_inside {m : Memory} (h : m.wf = true) (a k : Nat) (l : Bytes) (hk : k < l.length) :
    some ((m.writeBytes a l).read (a + k)) = l[k]? := by
  rw [Memory.read_writeBytes h, if_pos (by omega), Nat.add_sub_cancel_left, List.getD_eq_getElem?_getD, List.getElem?_eq_getElem hk]
  rfl

/-- A little-endian number that a write stores is read back modulo its width. -/
theorem readLe_writeBytes {m : Memory} (h : m.wf = true) (a n x : Nat) (l : Bytes) :
    (m.writeBytes a (l ++ leBytes n x)).readLe (a + l.length) n = x % 256 ^ n := by
  have hbytes : (m.writeBytes a (l ++ leBytes n x)).readBytes (a + l.length) n = leBytes n x := by
    refine List.ext_getElem? fun k => ?_
    by_cases hk : k < n
    · have hread := read_writeBytes_inside h a (l.length + k) (l ++ leBytes n x) (by simp [leBytes_length, hk])
      rw [List.getElem?_append_right (by omega), Nat.add_sub_cancel_left] at hread
      simp [Memory.readBytes, hk, ← hread, Nat.add_assoc]
    · rw [List.getElem?_eq_none (by simpa using hk), List.getElem?_eq_none (by simpa [leBytes_length] using hk)]
  rw [Memory.readLe, hbytes, leNat_leBytes]

/-- Settles O33: the commit is one write of its record and its bookkeeping, `commit_eq`. -/
theorem commitEffects : Obligations.CommitEffects := by
  intro s hs _ _ t g body
  obtain ⟨-, hwf, -⟩ := hs
  obtain ⟨-, -, k, hjob⟩ := stepNotice_keeps s.job.abandoned s.job.stepNum.toNat s.job.abandonGroup.toNat s.commitRecord
    { s.committed with job := { s.committed.job with
      ovfRecords := BitVec.ofNat 16 (s.committed.ledgerCount (!s.job.lg) s.job.stepNum.toNat 1),
      invRecords := BitVec.ofNat 16 (s.committed.ledgerCount (!s.job.lg) s.job.stepNum.toNat 2) } }
  rw [← commit_eq] at hjob
  have hmem : t.hbm.mem = s.hbm.mem.writeBytes (s.commitAddr g) (body ++ leBytes 4 (crc32c body).toNat) := by
    rw [show t.hbm = _ from commit_hbm s, apply_hbm_mem]
    rfl
  have hbody : body.length = 124 := recordBody_length ..
  rw [show t.job = _ from hjob, hmem]
  refine ⟨hbody, rfl, rfl, rfl, rfl, rfl, rfl, rfl, fun c => ?_, fun i hi => ?_, ?_, fun a ha => ?_, fun c => ?_⟩
  · rw [show t.core c = _ from commit_core c s]
  · rw [read_writeBytes_inside hwf _ _ _ (by simp [leBytes_length]; omega), List.getElem?_append_left (by omega)]
  · rw [← hbody, readLe_writeBytes hwf]
    exact Nat.mod_eq_of_lt (crc32c body).isLt
  · exact Memory.read_writeBytes_ne _ _ _ _ (by simpa [leBytes_length, hbody] using ha)
  · rw [show t.core c = _ from commit_core c s]

/-! ### Tokens and holds -/

/-- A token of a child notes that it is ready (R285). -/
def State.noteReady (p : Fin 16) (s : State) : State :=
  if (s.placementPort p).isChild then s.modPort p (fun x => { x with childReady := true }) else s

/-- A token of the parent notes go, with the release count that its GRID names (R281, R285). -/
def State.noteGo (p : Fin 16) (grid : Nat) (s : State) : State :=
  let t := s.modPort p (fun x => { x with parentGo := some grid })
  { t with links := { t.links with
    goDown := some grid,
    releaseAt := if grid ≠ 0 then some (t.namedRelease grid)
      else if t.job.st == .hold then some t.clusterWall else t.links.releaseAt } }

theorem takeToken_eq (p : Fin 16) (grid : Nat) (s : State) :
    s.takeToken p grid = if (s.placementPort p).isParent then (s.noteReady p).noteGo p grid else s.noteReady p := rfl

theorem noteReady_keeps (p : Fin 16) (s : State) : ∃ ports, s.noteReady p = { s with ports := ports } := by
  unfold State.noteReady
  split
  · exact ⟨_, rfl⟩
  · exact ⟨s.ports, rfl⟩

theorem noteReady_child {p : Fin 16} {s : State} (h : (s.placementPort p).isChild = true) :
    ((s.noteReady p).port p).childReady = true := by
  rw [State.noteReady, if_pos h, State.port_modPort, if_pos (Eq.refl p)]

theorem noteGo_port (p : Fin 16) (grid : Nat) (s : State) : (s.noteGo p grid).port p = { s.port p with parentGo := some grid } := by
  change (s.modPort p (fun x => { x with parentGo := some grid })).port p = _
  rw [State.port_modPort, if_pos (Eq.refl p)]

/-- A token of a child notes it ready; a token of the parent notes go, with the release count that its GRID names (R281, R285). -/
theorem takeToken_notes (p : Fin 16) (grid : Nat) (s : State) :
    ((s.placementPort p).isChild = true → ((s.takeToken p grid).port p).childReady = true)
    ∧ ((s.placementPort p).isParent = true → ((s.takeToken p grid).port p).parentGo = some grid
        ∧ (s.takeToken p grid).links.goDown = some grid
        ∧ (grid ≠ 0 → (s.takeToken p grid).links.releaseAt = some (s.namedRelease grid))) := by
  rw [takeToken_eq]
  refine ⟨fun hc => ?_, fun hp => ?_⟩
  · split
    · rw [noteGo_port, noteReady_child hc]
    · exact noteReady_child hc
  · rw [if_pos hp, noteGo_port]
    refine ⟨rfl, rfl, fun h0 => (if_pos h0).trans ?_⟩
    obtain ⟨ports, h⟩ := noteReady_keeps p s
    rw [h]
    rfl

/-- BARRIER_RELEASE of a held barrier with its release count (R40, R285). -/
theorem exec_barrierRelease {s : State} {r : BarrierRec} {w : Nat} (hst : s.job.st = .hold) (hb : s.job.barrier = some r)
    (hw : s.links.releaseAt = some w) :
    exec .barrierRelease s = if s.clusterWall < w ∨ s.job.faultAt.isSome then .next s
      else .next ((s.endStand.setJobState .running 0).barrierActions r).reraise := by
  change execBarrierRelease s = _
  rw [execBarrierRelease, hst, hb, hw]

/-- Recording a hold logs: links and job stay (R40, R319). -/
theorem recordHold_keeps (r : BarrierRec) (s : State) : (s.recordHold r).links = s.links ∧ (s.recordHold r).job = s.job := by
  obtain ⟨e, f, l, h⟩ := eventAt_onlyLogs 2 0 s.now s.job.holdWall (holdData s.wall.toNat r.id s.job.holdCause) [] s
  rw [State.recordHold, h]
  exact ⟨rfl, rfl⟩

/-- A hold that ends is recorded, as is a soak raised at it (R40, R276). -/
theorem endStand_hold {s : State} {r : BarrierRec} (hst : s.job.st = .hold) (hb : s.job.barrier = some r) :
    s.endStand = if s.links.active && s.links.stopAt.isNone then (s.recordHold r).endSoak else s.recordHold r := by
  unfold State.endStand
  simp [hst, hb, recordHold_keeps]

/-- HOLD_NOTICE of a held barrier (R83, R319). -/
theorem exec_holdNotice {s : State} {r : BarrierRec} (hst : s.job.st = .hold) (hb : s.job.barrier = some r) :
    exec .holdNotice s = if s.job.holdNoticed || s.wall.toNat < s.job.holdWall + field s.cfg.seqCfg.toNat 0 32 then .next s
      else .next (({ s with job := { s.job with holdNoticed := true } } : State).eventAt 2 16 s.now s.job.holdWall
        (holdData 0 r.id s.job.holdCause) []) := by
  change execHoldNotice s = _
  rw [execHoldNotice, hst, hb]
  rfl

theorem grid_toNat_ne_zero {grid : BitVec 2} (h : grid ≠ 0) : grid.toNat ≠ 0 := fun h0 => h (BitVec.eq_of_toNat_eq h0)

/-- Settles O34: the equations of the three rows, with what a token notes (`takeToken_notes`) and what a hold's end records (`endStand_hold`). -/
theorem holdRows : Obligations.HoldRows := by
  refine ⟨fun p grid s him htok => ?_, fun s r w hst hb hw => ?_, fun s r hst hb => ?_⟩
  · intro t
    obtain ⟨hchild, hparent⟩ := takeToken_notes p grid.toNat s
    refine ⟨?_, hchild, fun hp => ?_⟩
    · change execBarrierToken p grid s = _
      rw [execBarrierToken, Option.isNone_eq_false_iff.mpr him, Option.isNone_eq_false_iff.mpr htok]
      rfl
    · obtain ⟨hgo, hdown, hrelease⟩ := hparent hp
      exact ⟨hgo, hdown, fun h => hrelease (grid_toNat_ne_zero h)⟩
  · rw [exec_barrierRelease hst hb hw]
    refine ⟨fun h => if_pos h, fun hwall hf => ?_⟩
    rw [if_neg (by simp [hf, hwall]), endStand_hold hst hb]
    rfl
  · rw [exec_holdNotice hst hb]
    refine ⟨fun h => by rw [h]; rfl, fun h hwall => ?_⟩
    rw [h, if_neg (by simpa using hwall)]

end Sys2Proof.Machine
end

section
/-! PROOF. What becomes of an accepted packet: it runs, waits, is answered FROZEN or repeats a reply (R295 to R308). -/
namespace Sys2Proof.Machine

/-! ### Running, waiting, leaving the queue -/

/-- A packet of an open session whose sequence is new begins, as no queued packet carries its sequence (R305). -/
theorem openPacket_starts {d : Spec} {x : Session} {p : Packet} {s : State} (hopen : x.st = .open_) (hv : p.version = 1)
    (hq : ∀ q ∈ s.queueOf x.id, q.seq ≠ p.seq) (hw : x.window p.seq.toNat (p.tag.take 4) = .execute) :
    openPacket d x p s = start d x p (s.heard x p) := by
  have hnone : ((s.heard x p).queueOf x.id).find? (fun q => q.seq == p.seq) = none :=
    List.find?_eq_none.mpr fun q hmem => by simpa using hq q hmem
  unfold openPacket
  simp only [hv, hopen, hnone, hw]
  rfl

/-- A command waits behind another of its session, or for the slots of its access (R21, R306). -/
theorem start_holds {d : Spec} {x : Session} {p : Packet} {s : State}
    (h : s.executing x.id = true ∨ s.queueOf x.id ≠ [] ∨ (s.scheduleRuns = true ∧ d.slots x p s ≠ [])) :
    start d x p s = s.hold d x p := by
  refine if_pos ?_
  rcases h with h | h | ⟨hr, hs⟩
  · simp [h]
  · simp [h]
  · simp [hr, hs]

/-- What leaves the command queue is the packet, and nothing else of its session (R306). -/
theorem dequeue_queueOf (p : Packet) (s : State) (n : Nat) :
    (s.dequeue p).queueOf n = (s.queueOf n).filter (fun q => q != p) := by
  simp only [State.queueOf, State.heldOf, State.dequeue, List.filter_filter, List.filter_map, Function.comp_def]
  simp only [Bool.and_comm]

/-- A packet whose turn in the queue has come leaves it and is answered, once its answer fits (R89, R308). -/
theorem receive_released {d : Spec} {x : Session} {p : Packet} {s : State} (hr : s.released p = true)
    (hx : s.session p.session.toNat = some x) : receive d p s = runHeld d x p s := by
  unfold receive
  simp only [hr, hx]

/-- Settles O38: every session row is received alike; a packet starts, is held, or is taken from the queue. -/
theorem acceptedRuns : Obligations.AcceptedRuns := by
  intro r hr x p s
  rw [exec_sessionRow hr]
  refine ⟨fun h => by rw [receive_accepted h], fun hx ht hm hopen hauth htag hv hq hw hwait => ?_, fun hrel hx => ?_⟩
  · rw [receive_known hx ht hm (by rw [hopen]; decide) hauth htag, openPacket_starts hopen hv hq hw]
    rw [start_holds (by simpa using hwait)]
  · rw [receive_released hrel hx]
    refine ⟨fun hst hfits => ?_, fun hst hroom => ?_, dequeue_queueOf p s x.id⟩
    · rw [runHeld, beq_false_of_ne hst]
      exact congrArg Host.Outcome.next (if_pos hfits)
    · rw [runHeld, beq_iff_eq.mpr hst]
      exact congrArg Host.Outcome.next (if_pos hroom)

/-- Settles O40: the session's state is looked at before its window and its rows. -/
theorem frozenAnswers : Obligations.FrozenAnswers := by
  intro r hr x p s ht hx hm hst hauth htag hv
  rw [exec_sessionRow hr, receive_known hx ht hm (by rw [hst]; decide) hauth htag]
  unfold openPacket
  simp only [hv, hst]
  rfl

/-- Settles O41: the window answers the repeat from its record, or drops a packet with another tag. -/
theorem repeatsRunNothing : Obligations.RepeatsRunNothing := by
  intro r hr x p s e ht hx hm hst hauth htag hv hqueue hidle hseen
  have hwaits : s.power.waitReplies.any (fun w => w.session == x.id && w.seq == p.seq.toNat) = false := by
    refine List.any_eq_false.mpr fun w hw => ?_
    simp [List.any_eq_false.mp hidle w hw]
  rw [exec_sessionRow hr, receive_known hx ht hm (by rw [hst]; decide) hauth htag]
  unfold openPacket
  simp only [hv, hst, State.heard_queueOf, hqueue, List.find?_nil, Session.window, hseen]
  refine ⟨fun htag4 hshort => ?_, fun htag4 => ?_⟩
  · simp only [htag4, hshort, if_true]
    rw [show (s.heard x p).power = s.power from rfl, hwaits]
    rfl
  · simp only [htag4, if_false]
    rfl

/-! ### Long rows -/

theorem ringStatus_changesNothing (x : Session) (p : Packet) (s : State) : (ringStatusSpec.run x p s).state = s := by
  simp only [ringStatusSpec]
  split
  · rfl
  · simp

theorem regionRead_changesNothing (x : Session) (p : Packet) (s : State) : (regionReadSpec.run x p s).state = s := by
  simp [regionReadSpec]

theorem counterRead_changesNothing (x : Session) (p : Packet) (s : State) : (counterReadSpec.run x p s).state = s := by
  simp [counterReadSpec]

theorem logRead_changesNothing (x : Session) (p : Packet) (s : State) : (logReadSpec.run x p s).state = s := by
  simp only [logReadSpec]
  split
  · rfl
  · split <;> rfl

theorem inputRead_changesNothing (x : Session) (p : Packet) (s : State) : (inputReadSpec.run x p s).state = s := by
  simp only [inputReadSpec]
  split
  · rfl
  · split <;> rfl

theorem telemetry_changesNothing (x : Session) (p : Packet) (s : State) : (telemetrySpec.run x p s).state = s := by
  simp only [telemetrySpec]
  split <;> rfl

theorem faultLog_changesNothing (x : Session) (p : Packet) (s : State) : (faultLogSpec.run x p s).state = s := by
  simp [faultLogSpec]

theorem cfgRead_changesNothing (x : Session) (p : Packet) (s : State) : (cfgReadSpec.run x p s).state = s := by
  simp only [cfgReadSpec]
  split
  · rfl
  · split <;> rfl

/-- Settles O42: each of the long rows answers with the state that it reads. -/
theorem longReadsChangeNothing : Obligations.LongReadsChangeNothing := by
  intro d hd
  simp only [List.mem_cons, List.not_mem_nil, or_false] at hd
  rcases hd with rfl | rfl | rfl | rfl | rfl | rfl | rfl | rfl | rfl | rfl | rfl | rfl
  · exact ⟨rfl, fun _ _ _ => rfl⟩
  · exact ⟨rfl, fun _ _ _ => rfl⟩
  · exact ⟨rfl, ringStatus_changesNothing⟩
  · exact ⟨rfl, regionRead_changesNothing⟩
  · exact ⟨rfl, counterRead_changesNothing⟩
  · exact ⟨rfl, logRead_changesNothing⟩
  · exact ⟨rfl, inputRead_changesNothing⟩
  · exact ⟨rfl, telemetry_changesNothing⟩
  · exact ⟨rfl, faultLog_changesNothing⟩
  · exact ⟨rfl, cfgRead_changesNothing⟩
  · exact ⟨rfl, fun _ p s => replyPart_state _ _ s⟩
  · exact ⟨rfl, fun _ p s => replyPart_state _ _ s⟩

end Sys2Proof.Machine
end

section
/-! PROOF. Replies, freezes, and the events of ports and sessions that run no command (R89, R90, R295 to R309, R317). -/
namespace Sys2Proof.Machine

/-! ### What an event leaves of a session -/

/-- The state of a session of the module. -/
def State.sessionSt (n : Nat) (s : State) : Option SessionSt := (s.session n).map (·.st)

theorem noticesTo_fcp (r : EventRec) (l : List Session) (s : State) : (l.foldl (fun s x => noticeTo r x s) s).fcp = s.fcp :=
  foldl_same (·.fcp) (f := fun s x => noticeTo r x s) (fun _ _ => rfl) l s

/-- A notice counts on its sessions and leaves their numbers and states. -/
theorem find_map_sessionSt (l : List Session) (f : Session → Session) (hf : ∀ y, (f y).id = y.id ∧ (f y).st = y.st) (n : Nat) :
    ((l.map f).find? (fun x => x.id == n)).map (·.st) = (l.find? (fun x => x.id == n)).map (·.st) := by
  rw [List.find?_map, Option.map_map]
  simp only [Function.comp_def, (hf _).1, (hf _).2]

theorem notify_sessionSt (r : EventRec) (n : Nat) (s : State) : (s.notify r).sessionSt n = s.sessionSt n := by
  refine (find_map_sessionSt _ _ (fun y => ?_) n).trans (congrArg (fun f : FcpState => (f.sessions.find? _).map _) (noticesTo_fcp ..))
  split <;> exact ⟨rfl, rfl⟩

/-- What the log and the notices of an event leave, an event leaves (R301, R318). -/
theorem event_same {β : Type} (g : State → β) (hlog : ∀ (l : LogState) (s : State), g { s with log := l } = g s)
    (hnotify : ∀ (r : EventRec) (s : State), g (s.notify r) = g s) (k : Nat) (d x : Bytes) (s : State) : g (s.event k d x) = g s := by
  have hraise (r : EventRec) (s : State) : g (s.raiseNotice r) = g s := by
    unfold State.raiseNotice
    split
    · exact hnotify r s
    · exact hlog _ s
  have hadd (k f a b : Nat) (d x : Bytes) (s : State) : g (s.addEvent k f a b d x) = g s := by
    unfold State.addEvent
    split
    · exact hlog _ s
    · exact (hraise _ _).trans (hlog _ s)
  have hlow (s : State) : g s.eventLow = g s := by
    unfold State.eventLow
    dsimp only
    split
    · exact (hadd _ _ _ _ _ _ _).trans (hlog _ s)
    · split
      · exact hlog _ s
      · rfl
  exact (hlow _).trans (hadd _ _ _ _ _ _ s)

theorem event_sessionSt (k : Nat) (d x : Bytes) (n : Nat) (s : State) : (s.event k d x).sessionSt n = s.sessionSt n :=
  event_same (·.sessionSt n) (fun _ _ => rfl) (fun r s => notify_sessionSt r n s) k d x s

/-- The end of a session's stream changes the stream and the logs (R316). -/
theorem endStreamOf_only (id : Nat) (s : State) : ∃ ckpt, OnlyLogs { s with ckpt := ckpt } (s.endStreamOf id) := by
  unfold State.endStreamOf State.dropStream
  split
  · split
    · exact ⟨_, event_onlyLogs ..⟩
    · split
      · exact ⟨_, .rfl⟩
      · exact ⟨s.ckpt, .rfl⟩
  · exact ⟨s.ckpt, .rfl⟩

theorem endStreamOf_sessionSt (id n : Nat) (s : State) : (s.endStreamOf id).sessionSt n = s.sessionSt n := by
  unfold State.endStreamOf State.dropStream
  split
  · split
    · exact event_sessionSt ..
    · split <;> rfl
  · rfl

/-! ### Replies -/

/-- The window answers the repeat of a recorded sequence (R305). -/
theorem window_record (y : Session) (seq status : Nat) (tag4 params : Bytes) :
    (y.record seq tag4 status params).window seq tag4 = .again ⟨seq, tag4, status, params.take 32⟩ := by
  have hfind : (y.record seq tag4 status params).seen.find? (fun e => e.seq == seq) = some ⟨seq, tag4, status, params.take 32⟩ := by
    have hnone : (y.accept seq).seen.find? (fun e => e.seq == seq) = none := by
      refine List.find?_eq_none.mpr fun e he => ?_
      have hne := (List.mem_filter.mp he).2
      simp only [Bool.and_eq_true, bne_iff_ne] at hne
      simpa using hne.1
    simp only [Session.record, List.find?_append, hnone, Option.none_or, List.find?_singleton, beq_self_eq_true, if_true]
  simp only [Session.window, hfind, if_true]

/-- An answer that does not wait and does not freeze sends its reply and records its sequence (R295, R305). -/
theorem finish_plain {op : Nat} {x : Session} {p : Packet} {r : Reply} (hw : r.waits = false) (hf : freezes r.status = false) :
    finish op x p r = (r.state.reply p op (some x.key) r.status r.params).modSession x.id
      (fun y => y.record p.seq.toNat (p.tag.take 4) r.status r.params) := by
  simp only [finish, Reply.send, hw, hf, Bool.false_and, Bool.false_eq_true, if_false]

/-- Settles O43: `finish_plain`; the reply is the one packet that `State.reply` sends. -/
theorem replyIsSent : Obligations.ReplyIsSent := by
  intro op x p r y hw hf hy hid t
  have ht : t = _ := finish_plain hw hf
  rw [ht]
  refine ⟨⟨{ (replyPacket p op 1 r.status r.params r.state).sign (some x.key) with
      sport := r.state.cfg.udpPort.toNat, sealed := r.state.macsecOn p.port }, ?_, rfl, rfl, rfl, rfl, rfl, rfl, rfl, rfl, rfl, rfl⟩,
    ⟨y.record p.seq.toNat (p.tag.take 4) r.status r.params, ?_, rfl, rfl, rfl, rfl, window_record ..⟩, rfl, rfl, rfl, rfl, rfl, rfl, rfl⟩
  · simp [State.modSession, State.reply, State.send, OutPacket.sign, replyPacket]
  · rw [State.session_modSession, show (r.state.reply p op _ _ _).session x.id = r.state.session x.id from rfl, hy,
      Option.map_some, if_pos hid]
    exact fun _ => rfl

/-! ### Freezes -/

/-- A freeze keeps jobs and memories, adds one record of a session, and only logs besides (R250, R308). -/
theorem freezeSession_only (id status seq : Nat) (f : FaultRec) (s : State) :
    ∃ ring fcp, OnlyLogs { s with fcp := fcp, faults := { s.faults with session := ring, sessionFaults := s.faults.sessionFaults + 1 } }
      (s.freezeSession id status seq f) := ⟨_, _, event_onlyLogs ..⟩

/-- A session that is frozen reads FROZEN (R308). -/
theorem freezeSession_sessionSt (id status seq : Nat) (f : FaultRec) (s : State) (st : SessionSt)
    (h : (s.freezeSession id status seq f).sessionSt id = some st) : st = .frozen := by
  rw [State.freezeSession, event_sessionSt] at h
  obtain ⟨z, hz, rfl⟩ := Option.map_eq_some_iff.mp h
  have hmap : (s.modSession id (fun y => { y with st := .frozen })).session id = some z := hz
  rw [State.session_modSession] at hmap
  · obtain ⟨y, hy, rfl⟩ := Option.map_eq_some_iff.mp hmap
    rw [if_pos (by simpa using List.find?_some hy)]
  · exact fun _ => rfl

/-- What the reply of a request and the record of its sequence leave of a state: all but ports, sessions and waiting replies. -/
theorem recorded_only (op : Nat) (x : Session) (p : Packet) (r : Reply) :
    ∃ eth fcp power, (r.send op x p).modSession x.id (fun y => y.record p.seq.toNat (p.tag.take 4) r.status r.params)
      = { r.state with eth := eth, fcp := fcp, power := power } := by
  unfold Reply.send
  dsimp only
  split
  · exact ⟨r.state.eth, _, _, rfl⟩
  · exact ⟨_, _, r.state.power, rfl⟩

/-- The record of a sequence keeps the session. -/
theorem recorded_session {op : Nat} {x : Session} {p : Packet} {r : Reply} {y : Session} (hy : r.state.session x.id = some y) :
    (((r.send op x p).modSession x.id (fun y => y.record p.seq.toNat (p.tag.take 4) r.status r.params)).session x.id).isSome = true := by
  have hsend : (r.send op x p).session x.id = r.state.session x.id := by
    unfold Reply.send
    dsimp only
    split <;> rfl
  rw [State.session_modSession, hsend, hy]
  · rfl
  · exact fun _ => rfl

/-- An answer whose status freezes: its session is FROZEN, with one more record in the session fault ring, and nothing of the job or the
memories changes (R308, R317). -/
theorem finish_freezes {op : Nat} {x : Session} {p : Packet} {r : Reply} {y : Session} (hf : freezes r.status = true)
    (hy : r.state.session x.id = some y) :
    (∀ z, (finish op x p r).session x.id = some z → z.st = .frozen)
    ∧ ∃ ring eth fcp power log ckpt, finish op x p r = { r.state with
        eth := eth, fcp := fcp, power := power, log := log, ckpt := ckpt,
        faults := { r.state.faults with session := ring, sessionFaults := r.state.faults.sessionFaults + 1 } } := by
  obtain ⟨eth, fcp, power, hrec⟩ := recorded_only op x p r
  have hsome := recorded_session (op := op) (p := p) hy
  have hfinish : ∃ f, finish op x p r = (({ r.state with eth := eth, fcp := fcp, power := power } : State).freezeSession
      x.id r.status p.seq.toNat f).endStreamOf x.id := by
    simp only [finish, hrec] at hsome ⊢
    rw [hf, hsome]
    exact ⟨_, rfl⟩
  obtain ⟨f, hfinish⟩ := hfinish
  rw [hfinish]
  refine ⟨fun z hz => freezeSession_sessionSt x.id r.status p.seq.toNat f { r.state with eth := eth, fcp := fcp, power := power } _ ?_, ?_⟩
  · rw [← endStreamOf_sessionSt x.id, State.sessionSt, hz]
    rfl
  · obtain ⟨ring, fcp1, eth2, fcp2, log2, h2⟩ := freezeSession_only x.id r.status p.seq.toNat f
      { r.state with eth := eth, fcp := fcp, power := power }
    rw [h2]
    obtain ⟨ckpt, eth3, fcp3, log3, h3⟩ := endStreamOf_only x.id ({ r.state with
      eth := eth2, fcp := fcp2, power := power, log := log2,
      faults := { r.state.faults with session := ring, sessionFaults := r.state.faults.sessionFaults + 1 } } : State)
    exact ⟨ring, eth3, fcp3, power, log3, ckpt, h3⟩

/-- A session that a packet was heard of is still the module's. -/
theorem heard_session {x : Session} {p : Packet} {s : State} {n : Nat} (hx : s.session n = some x) :
    (s.heard x p).session n = some { x with port := p.port, src := p.src } := by
  rw [State.heard, State.session_modSession, hx]
  · simp
  · exact fun _ => rfl

/-- Settles O44: `finish_freezes`, for any answer and for that of an unknown opcode. -/
theorem freezingStatuses : Obligations.FreezingStatuses := by
  refine ⟨fun op x p r y hf hy hid => ?_, fun op x p s h hop h510 => ?_⟩
  · obtain ⟨hfrozen, ring, eth, fcp, power, log, ckpt, hstate⟩ := finish_freezes (op := op) (p := p) hf hy
    refine ⟨hfrozen, ?_⟩
    rw [hstate]
    exact ⟨rfl, rfl⟩
  · have hrun : (badOpcodeSpec op.toNat).run x p (s.heard x p) = Reply.refuse 1 (s.heard x p) := by
      have hne : op.toNat ≠ 0x510 := fun he => h510 (BitVec.eq_of_toNat_eq he)
      simp [badOpcodeSpec, hne]
    have hexec : exec (.badOpcode p op) s = .next (finish op.toNat x p (Reply.refuse 1 (s.heard x p))) := by
      change execBadOpcode p op s = _
      rw [execBadOpcode, hop, if_neg Bool.false_ne_true, receive_fits h (by rw [hrun]; exact Nat.zero_le _), hrun]
      rfl
    have hx : s.session x.id = some x := by rw [h.sameId]; exact h.known
    obtain ⟨hfrozen, ring, eth, fcp, power, log, ckpt, hstate⟩ :=
      finish_freezes (op := op.toNat) (p := p) (r := Reply.refuse 1 (s.heard x p)) rfl (heard_session hx)
    refine ⟨_, hexec, hfrozen, ?_⟩
    rw [hstate]
    exact ⟨rfl, rfl, rfl, rfl⟩

/-! ### Events of ports and sessions -/

/-- A session that closes is the module's no longer (R309). -/
theorem closeSession_session (id : Nat) (s : State) : (s.closeSession id).session id = none := by
  have hst : (s.closeSession id).sessionSt id = none := by
    rw [State.closeSession, endStreamOf_sessionSt]
    refine Option.map_eq_none_iff.mpr (List.find?_eq_none.mpr fun x hx => ?_)
    simpa using (List.mem_filter.mp hx).2
  exact Option.map_eq_none_iff.mp hst

theorem session_id {s : State} {n : Nat} {x : Session} (h : s.session n = some x) : x.id = n := by
  simpa using List.find?_some h

theorem exec_ingressDrop {port : Fin 2} {s : State} (hs : s.firmwareServes = true) (hl : s.eth[port].link ≠ 0) :
    exec (.ingressDrop port) s =
      .next { s with eth := s.eth.set port { s.eth[port] with ingressDrop := satInc s.eth[port].ingressDrop } } := by
  change execIngressDrop port s = _
  rw [execIngressDrop, hs, bne_iff_ne.mpr hl]
  rfl

theorem exec_badTag {p : Packet} {s : State} (h : s.intake p ≠ .ignored) : exec (.badTag p) s = .next (s.dropTag p.port) := by
  change execBadTag p s = _
  unfold execBadTag
  cases hi : s.intake p with
  | ignored => exact absurd hi h
  | counted => rfl
  | packet => rfl

theorem exec_sessionIdle {id : U16} {x : Session} {s : State} (hx : s.session id.toNat = some x) (hs : s.firmwareServes = true)
    (hidle : s.cfg.sessionIdle ≠ 0) (hst : x.st ≠ .pending) : exec (.sessionIdle id) s = .next (s.closeSession id.toNat) := by
  change execSessionIdle id s = _
  rw [execSessionIdle, hx]
  simp only [hs, bne_iff_ne.mpr hidle, bne_iff_ne.mpr hst, session_id hx]
  rfl

theorem exec_pendingSessionExpiry {id : U16} {x : Session} {s : State} (hx : s.session id.toNat = some x)
    (hs : s.firmwareServes = true) (hst : x.st = .pending) :
    exec (.pendingSessionExpiry id) s = .next (s.closeSession id.toNat) := by
  change execPendingSessionExpiry id s = _
  rw [execPendingSessionExpiry, hx]
  simp only [hs, hst, session_id hx]
  rfl

/-- The first waiting notice leaves where it finds room, else it waits on (R90). -/
theorem exec_notice {r : EventRec} {l : List EventRec} {s : State} (hl : s.log.waiting = r :: l) :
    exec .notice s = .next (if s.roomFor r then ({ s with log := { s.log with waiting := l } } : State).notify r else s) := by
  change execNotice s = _
  rw [execNotice, State.drainNotice, hl]

/-- Settles O45: the equation of each event, and that a closed session is the module's no longer (`closeSession_session`). -/
theorem sessionEvents : Obligations.SessionEvents := by
  refine fun s => ⟨fun port hs hl => ?_, fun p hi => ?_, fun id x hx hs hidle hst => ?_, fun id x hx hs hst => ?_, fun r l hl => ?_⟩
  · refine ⟨_, exec_ingressDrop hs hl, by simp, fun q hq => ?_, rfl, rfl⟩
    simp [Fin.val_ne_of_ne (Ne.symm hq)]
  · exact ⟨_, exec_badTag hi, by simp [State.dropTag], rfl, rfl⟩
  · exact ⟨_, exec_sessionIdle hx hs hidle hst, closeSession_session id.toNat s⟩
  · exact ⟨_, exec_pendingSessionExpiry hx hs hst, closeSession_session id.toNat s⟩
  · rw [exec_notice hl]
    exact ⟨fun h => by rw [if_pos h], fun h => by rw [h]; rfl⟩

end Sys2Proof.Machine
end

section
/-! SUPPORT. The command of an accepted packet is finished with what its row answers, or sent for session 0. -/
namespace Sys2Proof.Machine

theorem beBytes_length (n x : Nat) : (beBytes n x).length = n := by rw [beBytes, List.length_reverse, leBytes_length]

/-- The command of a row whose packet is accepted finishes with the row's answer, where that fits the port's MTU (R295, R300). -/
theorem exec_accepted (d : Spec) {i : Instr} {x : Session} {p : Packet} {s t : State} {r : Reply} (hexec : exec i s = .next (receive d p t))
    (h : Accepted d x p t) (hrun : d.run x p (t.heard x p) = r) (hroom : r.params.length ≤ t.roomOf p.port) :
    exec i s = .next (finish d.opcode x p r) := by
  subst hrun
  rw [hexec, receive_fits h hroom]

/-- Session 0 sends what the row of an accepted packet answers, where that fits the port's MTU (R299, R300). -/
theorem receiveBoth_answers {d : Spec} {ok : State → Bool} {p : Packet} {s : State} {r : Reply} (h : AcceptedZero d ok p s)
    (hrun : d.run sessionZero p s = r) (hroom : r.params.length ≤ s.roomOf p.port) :
    receiveBoth d ok p s = r.state.reply p d.opcode none r.status r.params := by
  subst hrun
  rw [receiveBoth_zero h, answerZero_ok h, if_neg (Nat.not_lt.mpr hroom)]

end Sys2Proof.Machine
end

section
/-! PROOF. Sessions, keys and the commands of the job (R81, R82, R87, R284, R301 to R312, R340). -/
namespace Sys2Proof.Machine

/-! ### Opening and authenticating -/

/-- The pending session that SESSION_OPEN makes (R303, R304). -/
def pendingOf (p : Packet) (key hn dn : Bytes) (seat id : Nat) : Session :=
  { id := id, seat := seat, st := .pending, key := sessionKey key hn dn seat id, hostNonce := hn, devNonce := dn,
    high := 0, seen := [], mask := 0x200, port := p.port, src := p.src, notices := 0, chunks := 0, report := none }

/-- SESSION_OPEN of a known seat while a number and a pending place are free (R303, R304). -/
theorem openSession_opens {p : Packet} {s : State} {key : Bytes} {id : Nat} (hseat : allSeats.contains (beAt p.params 0 1) = true)
    (hclaimed : s.claimed = true) (hkey : s.seatKey (beAt p.params 0 1) = some key) (hid : s.freeSession = some id)
    (hpending : (s.fcp.sessions.filter (fun x => x.st == .pending)).length < 64) :
    let dn := padTo 32 (Config.trngBytes s.free)
    openSession p s = Reply.ok (be16 id ++ List.replicate 6 0 ++ dn) { s with
      free := s.free + 1
      fcp := { s.fcp with sessions := insertSession (pendingOf p key (slice 8 32 p.params) dn (beAt p.params 0 1) id) s.fcp.sessions } } := by
  simp only [openSession, hseat, hclaimed, hkey, hid, if_neg (Nat.not_le.mpr hpending)]
  rfl

/-- A pending session's packet of SESSION_AUTH is looked at under the session's own rule (R304). -/
theorem exec_sessionAuth_pending {p : Packet} {s : State} {x : Session} (hx : s.session p.session.toNat = some x) (hst : x.st = .pending)
    (ht : TakenAtOnce p s) (hm : p.magic = 0x46454C54) : exec (.sessionAuth p) s = .next (authenticate x p s) := by
  change execSessionAuth p s = _
  rw [execSessionAuth, hx]
  simp only [hst, arrive_taken _ ht, hm]
  rfl

/-- Settles O46: `openSession_opens`, and the branches of SESSION_AUTH by the host proof. -/
theorem sessionsOpen : Obligations.SessionsOpen := by
  refine ⟨fun p s key id h => ?_, fun p s x key hx hst ht hm hkey => ?_⟩
  · intro seat dn hn hseat hclaimed hkey hid hpending hroom
    refine ⟨pendingOf p key hn dn seat id, rfl, rfl, rfl, rfl, rfl, ?_⟩
    exact congrArg Host.Outcome.next (receiveBoth_answers h (openSession_opens hseat hclaimed hkey hid hpending)
      (by simpa [Reply.ok, be16, beBytes_length, padTo_length] using hroom))
  · intro proof device
    rw [exec_sessionAuth_pending hx hst ht hm]
    refine ⟨fun hp htag hauth hv hh => ?_, fun hp => ?_⟩
    · refine ⟨_, ?_, rfl⟩
      simp only [authenticate, hkey, hp, htag, hauth, hv, hh, proof]
      simp
      rfl
    · simp only [authenticate, hkey]
      rw [if_pos (bne_iff_ne.mpr hp)]

/-! ### Sessions -/

/-- A list of sessions is cut to the port's MTU: 8 bytes each (R300, R312). -/
theorem sessionList_length (l : List Session) (room : Nat) :
    ((l.take (min 256 (room / 8))).flatMap (fun y => be16 y.id ++ u8 y.seat ++ u8 y.st.code ++ be32 y.high)).length ≤ room := by
  rw [List.length_flatMap]
  simp only [List.length_append, be16, be32, u8, beBytes_length, List.length_singleton, List.map_const', List.sum_replicate_nat, List.length_take]
  omega

/-- Settles O47: each command's answer, on the state in which its session was heard. -/
theorem sessionCommands : Obligations.SessionCommands := by
  intro x p s h
  refine ⟨fun ha => exec_accepted nopSpec rfl ha rfl (Nat.zero_le _), fun ha hid => ?_, fun y ha hy hst => ?_, fun ha hroom => ?_, fun ha => ?_⟩
  · have hx : h.session x.id = some { x with port := p.port, src := p.src } := heard_session (by rw [ha.sameId]; exact ha.known)
    have hown : (if beAt p.params 0 2 = 0xFFFF then x.id else beAt p.params 0 2) = x.id := by
      split
      · rfl
      · exact hid.resolve_left ‹_›
    refine exec_accepted closeSpec rfl ha ?_ (Nat.zero_le _)
    simp only [closeSpec, hown]
    rw [if_neg (by simp), show (s.heard x p).session x.id = _ from hx]
    rfl
  · refine exec_accepted thawSpec rfl ha ?_ (Nat.zero_le _)
    simp only [thawSpec]
    rw [show (s.heard x p).session (beAt p.params 0 2) = _ from hy]
    simp [hst]
    rfl
  · exact exec_accepted subscribeSpec rfl ha rfl (by simpa [Reply.ok, be64, beBytes_length] using hroom)
  · exact exec_accepted listSpec rfl ha rfl (sessionList_length ..)

/-! ### Keys -/

/-- Settles O48: each key command's answer, from its row. -/
theorem keyCommands : Obligations.KeyCommands := by
  intro x p s h
  refine ⟨fun ha hc => ?_, fun ha hc => ?_, fun ha hseat => ?_, fun ha hword hst => ?_, fun ha hport han hdir => ?_⟩
  · exact congrArg Host.Outcome.next (receiveBoth_answers ha (r := Reply.ok [] _) (by simp only [operatorKeySpec, hc]; rfl) (Nat.zero_le _))
  · exact congrArg Host.Outcome.next (receiveBoth_answers ha (r := Reply.refuse 0x106 _) (by simp only [operatorKeySpec, hc]; rfl)
      (Nat.zero_le _))
  · refine exec_accepted seatKeySpec rfl ha ?_ (Nat.zero_le _)
    simp only [seatKeySpec, hseat]
    rfl
  · refine exec_accepted unclaimSpec rfl ha ?_ (Nat.zero_le _)
    simp only [unclaimSpec, hword, show (s.heard x p).job.st = .empty from hst]
    rfl
  · refine exec_accepted macsecSpec rfl ha ?_ (Nat.zero_le _)
    simp only [macsecSpec]
    exact if_neg (by omega)

/-! ### The job -/

/-- A load that its state and its extent allow is decided by the image's checks (R87). -/
theorem loadImage_checked {offset len : Nat} {s : State} (hst : s.job.st = .empty) (hstage : s.boot.stage = 9)
    (hfw : s.sec.fwPending = false) (hext : offset + len ≤ s.staging.2) :
    let b := s.hbm.mem.readBytes (s.staging.1 + offset) len
    loadImage offset len s = (loadStatus s b, if loadStatus s b = 0 then installImage b s else s.setJobState .empty (loadStatus s b)) := by
  intro b
  unfold loadImage
  simp only [hst, hstage, hfw, if_neg (Nat.not_lt.mpr hext), bne_self_eq_false, Bool.or_false, Bool.false_eq_true, if_false]
  by_cases hb : loadStatus s b = 0
  · simp only [b] at hb
    simp only [hb, b, if_true]
  · simp only [b] at hb
    simp only [hb, b, if_false]

/-- Settles O49: each job command's answer where the job's state admits it. -/
theorem jobCommands : Obligations.JobCommands := by
  intro x p s h
  refine ⟨fun ha hroom => ?_, fun ha hst hstage hfw hext => ?_, fun ha hstatus => ?_, fun ha hroom hst hseq => ?_, fun ha hst => ?_,
    fun ha hroom hstatus hst => ?_⟩
  · exact exec_accepted jobStatusSpec rfl ha rfl (by simpa [Reply.ok, be64, beBytes_length] using hroom)
  · refine exec_accepted loadSpec rfl ha ?_ (Nat.zero_le _)
    simp only [loadSpec]
    rw [loadImage_checked (s := s.heard x p) hst hstage hfw hext]
  · refine exec_accepted startSpec rfl ha ?_ (Nat.zero_le _)
    simp only [startSpec]
    exact if_pos hstatus
  · refine exec_accepted haltSpec rfl ha ?_ (by simpa [Reply.ok, be64, beBytes_length] using hroom)
    have hstates : (s.job.st == .running || s.job.st == .hold || s.job.st == .soak) = true := by
      rcases hst with hst | hst | hst <;> rw [hst] <;> rfl
    have hlater : ¬(beAt p.params 0 8 ≠ 0 ∧ beAt p.params 0 8 ≤ h.releasedSeq) := by omega
    simp only [haltSpec, show (s.heard x p).job = s.job from rfl, hstates]
    exact if_neg hlater
  · refine exec_accepted unloadSpec rfl ha ?_ (Nat.zero_le _)
    have hstates : (s.job.st == .loaded || s.job.st == .halted || s.job.st == .faultHeld) = true := by
      rcases hst with hst | hst | hst <;> rw [hst] <;> rfl
    simp only [unloadSpec, show (s.heard x p).job = s.job from rfl, hstates]
    rfl
  · refine exec_accepted pointSpec rfl ha ?_ (by simpa [Reply.ok, be64, beBytes_length] using hroom)
    simp only [pointSpec, show (s.heard x p).pointStatus _ _ = 0 from hstatus, show (s.heard x p).job = s.job from rfl,
      beq_false_of_ne hst]
    rfl

end Sys2Proof.Machine
end

section
/-! PROOF. What a load, an UNLOAD, a halt and a start leave (R73, R81, R82, R85, R87, R285). -/
namespace Sys2Proof.Machine

/-! ### What the writes of a load, the neighbours and a change of state leave -/

/-- What the later parts of a load or an UNLOAD leave: the image with its tables, what is under way, and the job's counts. -/
def State.loadFrame (s : State) :=
  ((s.image, s.regions, s.inflight, s.running, s.stopped), (s.ckptMaster, s.testMaster, s.counters),
    (s.job.barrierSeq, s.job.stepNum, s.job.shadows), s.flash)

theorem OnlyLogs.loadFrame {s t : State} (h : OnlyLogs s t) : t.loadFrame = s.loadFrame := by
  obtain ⟨e, f, l, rfl⟩ := h
  rfl

theorem setJobState_loadFrame (st : JobState) (k : Nat) (s : State) : (s.setJobState st k).loadFrame = s.loadFrame := by
  obtain ⟨sel, h⟩ := setJobState_only st k s
  exact h.loadFrame

theorem refreshNeighbours_loadFrame (s : State) : s.refreshNeighbours.loadFrame = s.loadFrame :=
  foldl_same State.loadFrame (f := fun s p => s.modPort p (fun x => { x with neighbourOk := s.neighbourMatches p })) (fun _ _ => rfl) _ s

theorem writePlace_loadFrame (r : Region) (ext : List (Nat × Nat)) (f : Nat → Memory → Memory) (s : State) :
    (writePlace r ext f s).loadFrame = s.loadFrame := by
  unfold writePlace
  split
  · rfl
  · refine foldl_same State.loadFrame (fun s c => ?_) allCores s
    split <;> rfl

theorem sealTiles_loadFrame (rs : List Region) (r : Region) (prov : Nat → Byte) (ext : List (Nat × Nat)) (s : State) :
    (sealTiles rs r prov ext s).loadFrame = s.loadFrame := by
  unfold sealTiles
  dsimp only
  split
  · rfl
  · exact writePlace_loadFrame ..

theorem writeInit_loadFrame (rs : List Region) (s : State) (d : InitData) : (writeInit rs s d).loadFrame = s.loadFrame :=
  (sealTiles_loadFrame ..).trans (writePlace_loadFrame ..)

theorem writeLedger_loadFrame (im : Image) (rs : List Region) (s : State) : (writeLedger im rs s).loadFrame = s.loadFrame :=
  foldl_same State.loadFrame (fun _ _ => (sealTiles_loadFrame ..).trans (writePlace_loadFrame ..)) _ s

/-! ### A load -/

/-- A key that no set of a table names reads what it held before. -/
theorem tabGet_foldl_tabSet {α β : Type} (d : α) (key : β → Nat) (val : β → α) (n : Nat) (l : List β) (t : List (Nat × α))
    (h : ∀ e ∈ l, key e ≠ n) : tabGet d n (l.foldl (fun t e => tabSet (key e) (val e) t) t) = tabGet d n t := by
  induction l generalizing t with
  | nil => rfl
  | cons e l ih =>
    rw [List.foldl_cons, ih _ (fun e he => h e (List.mem_cons_of_mem _ he)), tabGet_tabSet, if_neg (h e List.mem_cons_self)]

/-- The counters of an image: those that it owns, at their initial values (R73). -/
def loadedCounters (b : Bytes) : CounterBlock :=
  let cs := (imageCounters b).filter (fun e => e.owner != 0)
  ⟨cs.foldl (fun t e => tabSet e.counter (BitVec.ofNat 32 e.initial) t) [], cs.foldl (fun t e => tabSet e.counter e.owner t) [],
    cs.foldl (fun t e => tabSet e.counter (BitVec.ofNat 32 e.initial) t) []⟩

/-- A load leaves the image with its tables, nothing under way and the counts of a fresh job (R73, R82, R87). -/
theorem installImage_loadFrame (b : Bytes) (s : State) : (installImage b s).loadFrame =
    ((some (imageOf b), imageRegions b, [], [], []), (false, false, loadedCounters b), (0, 0, s.job.shadows), s.flash) := by
  unfold installImage
  rw [setJobState_loadFrame, refreshNeighbours_loadFrame, writeLedger_loadFrame, foldl_same State.loadFrame (writeInit_loadFrame _)]
  rfl

/-- A counter that the image leaves unused reads 0 (R73). -/
theorem loadedCounters_unused {b : Bytes} {n : Nat} (h : ∀ e ∈ imageCounters b, e.counter = n → e.owner = 0) :
    tabGet 0 n (loadedCounters b).values = 0 := by
  refine tabGet_foldl_tabSet (0 : U32) (fun e : CounterEntry => e.counter) (fun e => BitVec.ofNat 32 e.initial) n _ [] (fun e he hn => ?_)
  obtain ⟨hmem, howner⟩ := List.mem_filter.mp he
  simp [h e hmem hn] at howner

/-! ### UNLOAD -/

/-- An UNLOAD leaves no image, no region, no counter and nothing under way (R82, R85). -/
theorem unloadJob_loadFrame (s : State) : s.unloadJob.loadFrame =
    ((none, [], [], [], []), (false, false, ⟨[], [], []⟩), (0, 0, []), s.dropStream.discardPoint.flash) := by
  unfold State.unloadJob
  rw [setJobState_loadFrame, refreshNeighbours_loadFrame]
  rfl

theorem dropStream_flash (s : State) : s.dropStream.flash = s.flash := by
  unfold State.dropStream State.endStream
  split
  · exact congrArg (fun x => x.2.2.2) (event_onlyLogs ..).loadFrame
  · split <;> rfl

theorem discardPoint_only (s : State) : ∃ power, s.discardPoint = { s with power := power } := by
  unfold State.discardPoint
  split
  · exact ⟨s.power, rfl⟩
  · dsimp only
    split <;> exact ⟨_, rfl⟩

/-- An UNLOAD keeps the bytes of every memory (R82). -/
theorem unloadJob_mems (s : State) :
    Vector.map CoreState.mem s.unloadJob.cores = Vector.map CoreState.mem s.cores ∧ s.unloadJob.hbm.mem = s.hbm.mem := by
  obtain ⟨power, h⟩ := discardPoint_only s.dropStream
  unfold State.unloadJob
  simp only [setJobState_mems, refreshNeighbours_mems, h, dropStream_mems, and_true]
  rw [← (dropStream_mems s).1]
  simp [CoreState.atLoad, Function.comp_def]

/-! ### A start -/

/-- A module that neither SUSPECT nor a halt stops watches its restart barrier: only links change (R278). -/
theorem watchRestart_only {s : State} (hs : s.job.suspectStop = false) (hh : s.job.halt = none) :
    ∃ links, s.watchRestart = { s with links := links } := by
  have hstanding : s.haltStanding = s := by simp [State.haltStanding, hs, hh]
  unfold State.watchRestart
  rw [hstanding]
  dsimp only
  split
  · exact ⟨s.links, rfl⟩
  · split <;> exact ⟨_, rfl⟩

/-- A loaded job as its start readies it: fresh counts, and its restart barrier to come (R82, R284). -/
def State.readied (mode : Nat) (s : State) : State :=
  let t := s.freshJob.clearTokens.clearRestart
  { t with job := { t.job with starting := true, replay := t.job.replay || mode == 1 } }

theorem startJob_of_loaded {s : State} (mode : Nat) (hl : s.job.st = .loaded) (hr : s.job.restored = false) :
    s.startJob mode = ((s.readied mode).setJobState .running 0).watchRestart := by
  unfold State.startJob
  rw [hl, hr]
  rfl

/-- A start of a loaded job that nothing stops leaves it running at its restart barrier, with fresh counts and every byte (R82, R284). -/
theorem startJob_leaves {s : State} (mode : Nat) (hs : s.job.suspectStop = false) (hh : s.job.halt = none) (hl : s.job.st = .loaded)
    (hr : s.job.restored = false) :
    let t := s.startJob mode
    t.job.st = .running ∧ t.job.starting = true ∧ t.sched = 0 ∧ t.job.barrierSeq = 0 ∧ t.scheduleRuns = false
    ∧ (mode = 1 → t.job.replay = true) ∧ t.hbm = s.hbm := by
  obtain ⟨sel, eth, fcp, log, hset⟩ := setJobState_only .running 0 (s.readied mode)
  have hsuspect : ((s.readied mode).setJobState .running 0).job.suspectStop = false := by
    rw [hset]
    exact hs
  have hhalt : ((s.readied mode).setJobState .running 0).job.halt = none := by
    rw [hset]
    exact hh
  obtain ⟨links, hwatch⟩ := watchRestart_only hsuspect hhalt
  rw [startJob_of_loaded mode hl hr, hwatch, hset]
  refine ⟨rfl, rfl, rfl, rfl, rfl, fun hm => ?_, rfl⟩
  subst hm
  exact Bool.or_true _

/-- A module that halts is HALTED, and nothing of its halt, stop or start is left (R81). -/
theorem haltAt_leaves (how : Resume) (s : State) :
    let t := s.haltAt how
    t.job.st = .halted ∧ t.job.halt = none ∧ t.job.resume = how ∧ t.links.stopAt = none ∧ t.job.starting = false := by
  unfold State.haltAt
  dsimp only
  obtain ⟨sel, eth, fcp, log, hset⟩ := setJobState_only .halted 0 ({ s.endStand.clearTokens.clearRestart with
    job := { s.endStand.clearTokens.clearRestart.job with
      halt := none, resume := how, starting := false, holdNoticed := false, suspectStop := false },
    links := { s.endStand.clearTokens.clearRestart.links with active := false, stopAt := none } } : State)
  rw [hset]
  exact ⟨rfl, rfl, rfl, rfl, rfl⟩

/-- Settles O50: what the four operations leave, each through its own frame. -/
theorem jobStates : Obligations.JobStates := by
  refine ⟨fun b s => ?_, fun s => ?_, fun s mode how => ?_⟩
  · intro t
    have hframe : t.loadFrame = _ := installImage_loadFrame b s
    simp only [State.loadFrame, Prod.mk.injEq] at hframe
    obtain ⟨⟨himage, hregions, hinflight, hrunning, hstopped⟩, ⟨hckpt, htest, hcounters⟩, ⟨hseq, hstep, -⟩, -⟩ := hframe
    refine ⟨setJobState_st .., himage, hregions, hinflight, hrunning, hstopped, hseq, hstep, hckpt, htest, fun n hn => ?_⟩
    rw [State.counter, hcounters, loadedCounters_unused hn]
    rfl
  · intro t
    have hframe : t.loadFrame = _ := unloadJob_loadFrame s
    simp only [State.loadFrame, Prod.mk.injEq] at hframe
    obtain ⟨⟨himage, hregions, hinflight, hrunning, -⟩, ⟨-, -, hcounters⟩, ⟨-, -, hshadows⟩, hflash⟩ := hframe
    obtain ⟨hcores, hhbm⟩ := unloadJob_mems s
    obtain ⟨power, hpoint⟩ := discardPoint_only s.dropStream
    refine ⟨setJobState_st .., himage, hregions, hinflight, hrunning, by rw [hcounters], hshadows, hhbm, core_mem_of_mems hcores, ?_⟩
    rw [hflash, hpoint]
    exact dropStream_flash s
  · obtain ⟨hst, hhalt, hresume, hstop, hstarting⟩ := haltAt_leaves how s
    refine ⟨hst, hhalt, hresume, hstop, hstarting, (haltAt_counts how s).2, fun hs hh hl hr _ => ?_⟩
    obtain ⟨hrunning, hstart, hsched, hseq, hruns, hreplay, hhbm⟩ := startJob_leaves mode hs hh hl hr
    exact ⟨hrunning, hstart, hsched, hseq, hruns, hreplay, core_mem_of_mems (startJob_mems mode s).1, hhbm⟩

end Sys2Proof.Machine
end

section
/-! PROOF. Memory, region, counter and ring commands (R73, R230, R232, R242, R248, R250, R312, R321 to R323, R328). -/
namespace Sys2Proof.Machine

/-! ### What a read's corrections leave -/

/-- What a host read leaves: the cores, the bytes of HBM, the job, the counters and the rings. -/
def State.readFrame (s : State) := (s.cores, s.hbm.mem, s.job, s.counters, s.fcp.rings)

theorem notify_readFrame (r : EventRec) (s : State) : (s.notify r).readFrame = s.readFrame :=
  foldl_same State.readFrame (f := fun s x => noticeTo r x s) (fun _ _ => rfl) _ s

theorem event_readFrame (k : Nat) (d x : Bytes) (s : State) : (s.event k d x).readFrame = s.readFrame :=
  event_same State.readFrame (fun _ _ => rfl) notify_readFrame k d x s

theorem countCorrected_readFrame (hbm : Bool) (n : Nat) (s : State) : (s.countCorrected hbm n).readFrame = s.readFrame :=
  (foldl_same State.readFrame (fun _ _ => event_readFrame ..) _ _).trans rfl

theorem addRepair_readFrame (e : Nat) (s : State) : (s.addRepair e).readFrame = s.readFrame := by
  unfold State.addRepair
  dsimp only
  split <;> rfl

theorem correctedRow_readFrame (row : Nat) (s : State) : (s.correctedRow row).readFrame = s.readFrame := by
  unfold State.correctedRow
  dsimp only
  split
  · exact (addRepair_readFrame ..).trans (countCorrected_readFrame ..)
  · exact countCorrected_readFrame ..

/-- Corrections are counted; the memories keep their bytes (R232, R237). -/
theorem correct_readFrame (hbm : Bool) (marks : List Nat) (s : State) : (s.correct hbm marks).readFrame = s.readFrame := by
  refine foldl_same State.readFrame (fun s a => ?_) marks s
  split
  · exact correctedRow_readFrame ..
  · exact countCorrected_readFrame ..

theorem readBanks_readFrame (pl : HostPlace) (a len : Nat) (s : State) : (s.readBanks pl a len).readFrame = s.readFrame := by
  unfold State.readBanks
  split <;> rfl

/-- A host read of an extent without an uncorrectable error or a wrong tile returns its bytes (R232, R242, R250). -/
theorem hostRead_clean {x : Session} {p : Packet} {pl : HostPlace} {off len : Nat} {s : State} :
    let u := (s.readBanks pl pl.addr len).correct pl.hbm (eccGood (s.marksAt pl).1 (s.marksAt pl).2 pl.addr len)
    (eccScan (s.marksAt pl).1 (s.marksAt pl).2 pl.addr len).1 = none → u.badTile pl off len = none →
    s.hostRead x p pl off len = Reply.ok ((u.memAt pl).readBytes pl.addr len) u := by
  intro u hscan htile
  unfold State.hostRead
  dsimp only
  rw [hscan]
  dsimp only
  rw [show ((s.readBanks pl pl.addr len).correct pl.hbm (eccGood (s.marksAt pl).1 (s.marksAt pl).2 pl.addr len)).badTile pl off len = none
    from htile]

/-! ### Writes -/

/-- A place without check entries takes the bytes alone (R242). -/
theorem hostWrite_unchecked {pl : HostPlace} {off : Nat} {data : Bytes} {s : State}
    (h : pl.region = none ∨ ∀ i, pl.region = some i → (s.region i).check = false) : s.hostWrite pl off data = s.writeAt pl pl.addr data := by
  unfold State.hostWrite
  cases hr : pl.region with
  | none => rfl
  | some i =>
    have hcheck : (s.region i).check = false := (h.resolve_left (by simp [hr])) i hr
    simp [hcheck]

theorem writeAt_hbm {pl : HostPlace} (h : pl.hbm = true) (a : Nat) (data : Bytes) (s : State) :
    s.writeAt pl a data = s.apply (.hbm a data) := by
  unfold State.writeAt
  exact if_pos h

theorem writeAt_slice_standing {pl : HostPlace} (h : pl.hbm = false) (a : Nat) (data : Bytes) {s : State} (hr : s.scheduleRuns = false) :
    s.writeAt pl a data = s.apply (.sp pl.core a .plain 9 data) := by
  unfold State.writeAt
  rw [h, hr]
  rfl

theorem writeAt_slice_running {pl : HostPlace} (h : pl.hbm = false) (a : Nat) (data : Bytes) {s : State} (hr : s.scheduleRuns = true) :
    s.writeAt pl a data = { s with inflight := s.inflight ++ [⟨s.now, true, hostOrigin pl, .sp pl.core a .plain 9 data⟩] } := by
  unfold State.writeAt
  rw [h, hr]
  rfl

/-- A plain write in a slice's plain window is read back (R228). -/
theorem apply_sp_read {c : Fin 8} {a port : Nat} {data : Bytes} {s : State} (hs : s.Canonical) (ha : spWindow a = some (.plain, a))
    {k : Nat} (hk : k < data.length) : ((s.apply (.sp c a .plain port data)).core c).mem.read (a + k) = data[k] := by
  have htarget : spTarget .plain a = (.plain, a) := by
    unfold spTarget
    rw [ha]
  simp only [State.apply, State.core_modCore, if_true, spStore, htarget]
  exact read_spWrite .plain (hs.1 c) a data hk

theorem heard_canonical {x : Session} {p : Packet} {s : State} (h : s.Canonical) : (s.heard x p).Canonical := h

/-- A write of the control processor into HBM: its bytes, every other byte as before, and no core. -/
theorem writeAt_hbm_bytes {pl : HostPlace} (h : pl.hbm = true) (data : Bytes) (s : State) :
    (∀ a, (a < pl.addr ∨ pl.addr + data.length ≤ a) → (s.writeAt pl pl.addr data).hbm.mem.read a = s.hbm.mem.read a)
    ∧ (s.Canonical → ∀ (k : Nat) (hk : k < data.length), (s.writeAt pl pl.addr data).hbm.mem.read (pl.addr + k) = data[k])
    ∧ (s.writeAt pl pl.addr data).cores = s.cores := by
  rw [writeAt_hbm h, apply_hbm_mem]
  refine ⟨fun a ha => Memory.read_writeBytes_ne _ _ _ _ ha, fun hs k hk => ?_, rfl⟩
  have hread := read_writeBytes_inside hs.2.1 pl.addr k data hk
  rw [List.getElem?_eq_getElem hk] at hread
  exact Option.some.inj hread

/-- A write of the control processor into a slice while no schedule runs: its bytes, every other byte as before, and HBM. -/
theorem writeAt_slice_bytes {pl : HostPlace} (h : pl.hbm = false) (data : Bytes) {s : State} (hr : s.scheduleRuns = false) :
    (∀ (c : Fin 8) (a : Nat), (c ≠ pl.core ∨ a < (spTarget .plain pl.addr).2 ∨ (spTarget .plain pl.addr).2 + data.length ≤ a) →
        ((s.writeAt pl pl.addr data).core c).mem.read a = (s.core c).mem.read a)
    ∧ (s.Canonical → spWindow pl.addr = some (.plain, pl.addr) → ∀ (k : Nat) (hk : k < data.length),
        ((s.writeAt pl pl.addr data).core pl.core).mem.read (pl.addr + k) = data[k])
    ∧ (s.writeAt pl pl.addr data).hbm = s.hbm := by
  rw [writeAt_slice_standing h _ _ hr]
  refine ⟨fun c a ha => apply_slice_read _ s c a ?_, fun hs hw k hk => apply_sp_read hs hw hk, rfl⟩
  rintro ⟨hc, hlo, hhi⟩
  omega

/-! ### Rings -/

/-- A ring of the module reads what was set of it. -/
theorem ring_setRing {s : State} {id : Nat} (n : Nat) (h : s.fcp.rings.any (fun r => r.id == id) = true) :
    ((s.setRing { s.ring id with published := n }).ring id).published = n := by
  obtain ⟨r, hr⟩ := Option.isSome_iff_exists.mp (List.find?_isSome.mpr (List.any_eq_true.mp h))
  have hid : r.id = id := by simpa using List.find?_some hr
  have hring : s.ring id = r := by rw [State.ring, hr]; rfl
  have hfind : (s.fcp.rings.map (fun y => if y.id = r.id then { r with published := n } else y)).find? (fun y => y.id == id)
      = some { r with published := n } := by
    rw [List.find?_map]
    have hsame : (fun y : Ring => y.id == id) ∘ (fun y => if y.id = r.id then { r with published := n } else y) = (fun y => y.id == id) := by
      funext y
      simp only [Function.comp]
      split
      next hy => rw [hy]
      next => rfl
    rw [hsame, hr]
    simp
  rw [hring, State.ring, State.setRing]
  dsimp only
  rw [hfind]
  rfl

theorem ringTake_declared {s : State} {id : Nat} {t : Take} (h : s.ringTake id = some t) :
    s.fcp.rings.any (fun r => r.id == id) = true := by
  unfold State.ringTake at h
  split at h
  next hany => exact hany
  next => cases h

/-- A publication: PUBLISHED and its counter one more, and no byte changed (R73, R323). -/
theorem publish_leaves {s : State} {id : Nat} (t : Take) (h : s.fcp.rings.any (fun r => r.id == id) = true) :
    ((s.publish t id).ring id).published = (s.ring id).published + 1
    ∧ (s.publish t id).counter t.counter = (s.counter t.counter + 1) % 2 ^ 32
    ∧ (s.publish t id).hbm = s.hbm ∧ (s.publish t id).cores = s.cores := by
  refine ⟨ring_setRing _ h, ?_, rfl, rfl⟩
  unfold State.publish
  dsimp only
  rw [State.counter_setCounter, if_pos (Eq.refl _)]
  rfl

/-- MEM_READ of an extent that the session may use reads it (R250, R300). -/
theorem memReadSpec_run {x : Session} {p : Packet} {s : State} {pl : HostPlace}
    (hparams : memParamsOk (beAt p.params 0 2) (beAt p.params 2 1) (beAt p.params 8 8) (beAt p.params 16 4) = true)
    (hroom : beAt p.params 16 4 ≤ s.roomOf p.port)
    (hplace : s.hostPlace x p 0x400 (beAt p.params 0 2) (beAt p.params 2 1) 0 (beAt p.params 8 8) (beAt p.params 16 4) = .ok pl) :
    memReadSpec.run x p s = s.hostRead x p pl (beAt p.params 8 8) (beAt p.params 16 4) := by
  simp only [memReadSpec, hparams, decide_eq_false (Nat.not_lt.mpr hroom), hplace]
  rfl

/-- MEM_WRITE of an extent that the session may use writes it (R242, R300). -/
theorem memWriteSpec_run {x : Session} {p : Packet} {s : State} {pl : HostPlace}
    (hparams : memParamsOk (beAt p.params 0 2) (beAt p.params 2 1) (beAt p.params 8 8) (p.params.drop 16).length = true)
    (hplace : s.hostPlace x p 0x401 (beAt p.params 0 2) (beAt p.params 2 1) 1 (beAt p.params 8 8) (p.params.drop 16).length = .ok pl) :
    memWriteSpec.run x p s = Reply.ok [] (s.hostWrite pl (beAt p.params 8 8) (p.params.drop 16)) := by
  simp only [memWriteSpec, hparams, hplace]
  rfl

/-- RING_WRITE of an entry inside the window writes it (R321, R322). -/
theorem ringWriteSpec_run {x : Session} {p : Packet} {s : State} {t : Take} (ht : s.ringTake (beAt p.params 0 1) = some t)
    (howner : (s.region t.region).owner = x.seat) (hoff : beAt p.params 4 4 % 64 = 0)
    (hwin : beAt p.params 8 8 < (s.ring (beAt p.params 0 1)).window + t.slots)
    (hpub : (s.ring (beAt p.params 0 1)).published ≤ beAt p.params 8 8)
    (hlen : beAt p.params 4 4 + (p.params.drop 16).length ≤ t.entryBytes) :
    ringWriteSpec.run x p s = Reply.ok [] (s.hostWrite (s.ringPlace t (t.slotOff (beAt p.params 8 8) + beAt p.params 4 4))
      (t.slotOff (beAt p.params 8 8) + beAt p.params 4 4) (p.params.drop 16)) := by
  simp only [ringWriteSpec, ht]
  rw [if_neg (not_not_intro howner), if_neg (not_not_intro hoff), if_neg (Nat.not_le.mpr hwin), if_neg (Nat.not_lt.mpr hpub),
    if_neg (Nat.not_lt.mpr hlen)]

/-- RING_PUBLISH of the next entry, sound and outside a replay, publishes it (R322, R323). -/
theorem ringPublishSpec_run {x : Session} {p : Packet} {s : State} {t : Take} (ht : s.ringTake (beAt p.params 0 1) = some t)
    (howner : (s.region t.region).owner = x.seat) (hpub : beAt p.params 8 8 = (s.ring (beAt p.params 0 1)).published) :
    let pl := s.ringPlace t (t.slotOff (beAt p.params 8 8))
    let v := (s.readBanks pl pl.addr t.entryBytes).correct pl.hbm (eccGood (s.marksAt pl).1 (s.marksAt pl).2 pl.addr t.entryBytes)
    v.job.replay = false → (eccScan (s.marksAt pl).1 (s.marksAt pl).2 pl.addr t.entryBytes).1 = none →
    entryOk t (beAt p.params 8 8) ((v.memAt pl).readBytes pl.addr t.entryBytes) = true →
    ∃ recs, let u := ({ v with fcp := { v.fcp with replayRecs := recs } } : State).publish t (beAt p.params 0 1)
      ringPublishSpec.run x p s = Reply.ok (be64 (u.ring (beAt p.params 0 1)).published) u := by
  intro pl v hreplay hscan hok
  refine ⟨v.fcp.replayRecs.filter (fun r => !(v.job.replay && r.ring == beAt p.params 0 1 && r.entry == beAt p.params 8 8)), ?_⟩
  simp only [ringPublishSpec, ht]
  rw [if_neg (not_not_intro howner), if_neg (not_not_intro hpub), hscan]
  dsimp only
  rw [if_neg (by simpa using hok), if_neg (by simp only [hreplay, v, pl]; simp)]

theorem entryBytes_length (r : Region) : r.entryBytes.length = 32 := by
  simp [Region.entryBytes, le16, le32, le64, u8, leBytes_length]

theorem entryOf_length (s : State) (i : Nat) : (s.entryOf i).length = 32 := by
  unfold State.entryOf
  split
  · exact entryBytes_length _
  · rfl

/-- A block of equal items is as long as their number says. -/
theorem flatMap_range_length {n k : Nat} {f : Nat → Bytes} (h : ∀ i, (f i).length = k) : ((List.range n).flatMap f).length = k * n := by
  simp only [List.length_flatMap, h, List.map_const', List.length_range, List.sum_replicate_nat]
  exact Nat.mul_comm n k

/-- Settles O51: each memory, region, counter and ring command by the answer of its row. -/
theorem memoryCommands : Obligations.MemoryCommands := by
  intro x p s h region view off
  refine ⟨fun pl ha hparams hroom hplace => ?_, fun pl ha hparams hplace => ?_, fun pl data => ?_, fun ha hcount hfirst hroom => ?_,
    fun ha hcount hfirst hroom => ?_, fun t ht => ⟨fun ha howner hoff hwin hpub hlen => ?_, fun ha hroom howner hpub hreplay => ?_,
      fun ha hroom hseat => ?_⟩, fun ha hroom hbad => ?_⟩
  · intro u hscan htile
    have hu : u.readFrame = h.readFrame := (correct_readFrame ..).trans (readBanks_readFrame ..)
    simp only [State.readFrame, Prod.mk.injEq] at hu
    obtain ⟨hcores, hhbm, hjob, hcounters, -⟩ := hu
    refine ⟨?_, hcores, hhbm, hjob, hcounters⟩
    exact exec_accepted memReadSpec rfl ha ((memReadSpec_run (s := h) hparams hroom hplace).trans (hostRead_clean hscan htile))
      (by simpa [Reply.ok] using hroom)
  · exact exec_accepted memWriteSpec rfl ha (memWriteSpec_run hparams hplace) (Nat.zero_le _)
  · refine ⟨hostWrite_unchecked, fun hh => writeAt_hbm_bytes hh data h, fun hh hr => writeAt_slice_bytes hh data (s := h) hr, fun hh hr => ?_⟩
    rw [writeAt_slice_running (s := h) hh _ _ hr]
    exact ⟨rfl, rfl⟩
  · refine exec_accepted regionReadSpec rfl ha (if_neg (by omega)) ?_
    exact Nat.le_trans (Nat.le_of_eq (flatMap_range_length (fun _ => entryOf_length _ _))) hroom
  · refine exec_accepted counterReadSpec rfl ha (if_neg (by omega)) ?_
    exact Nat.le_trans (Nat.le_of_eq (flatMap_range_length (fun _ => beBytes_length 4 _))) hroom
  · exact exec_accepted ringWriteSpec rfl ha (ringWriteSpec_run ht howner hoff hwin hpub hlen) (Nat.zero_le _)
  · intro pl v hscan hok
    have hv : v.readFrame = h.readFrame := (correct_readFrame ..).trans (readBanks_readFrame ..)
    simp only [State.readFrame, Prod.mk.injEq] at hv
    obtain ⟨hcores, hhbm, hjob, hcounters, hrings⟩ := hv
    obtain ⟨recs, hrun⟩ := ringPublishSpec_run (x := x) ht howner hpub (by rw [show State.job _ = _ from hjob]; exact hreplay) hscan hok
    obtain ⟨hpublished, hcounter, hkeepsHbm, hkeepsCores⟩ := publish_leaves (s := { v with fcp := { v.fcp with replayRecs := recs } })
      (id := beAt p.params 0 1) t (by rw [show FcpState.rings _ = _ from hrings]; exact ringTake_declared ht)
    refine ⟨_, exec_accepted ringPublishSpec rfl ha hrun (by simpa [Reply.ok, be64, beBytes_length] using hroom), ?_, ?_, ?_, ?_⟩
    · rw [hpublished]
      exact congrArg (fun l : List Ring => ((l.find? _).getD _).published + 1) hrings
    · rw [hcounter]
      exact congrArg (fun c : CounterBlock => ((tabGet 0 _ c.values).toNat + 1) % 2 ^ 32) hcounters
    · rw [hkeepsHbm]
      exact hhbm
    · rw [hkeepsCores]
      exact hcores
  · refine exec_accepted ringStatusSpec rfl ha (r := Reply.ok _ _) ?_ ?_
    · simp only [ringStatusSpec]
      rw [show (s.heard x p).ringTake (beAt p.params 0 1) = some t from ht]
      exact if_neg (by rw [show [((s.heard x p).region t.region).owner, 2, 4].contains x.seat = true from hseat]; exact Bool.false_ne_true)
    · simpa [Reply.ok, be16, be32, be64, beBytes_length] using hroom
  · refine exec_accepted replayLoadSpec rfl ha ?_ (by simpa [Reply.ok, be16, beBytes_length] using hroom)
    exact if_neg (by rw [hbad]; exact Bool.false_ne_true)

end Sys2Proof.Machine
end

section
/-! PROOF. Checkpoints and restores by packet (R312, R316, R369, R370, R375, R376). -/
namespace Sys2Proof.Machine

/-- A request that its status admits and that streams no capture at once waits for its barrier (R369). -/
theorem ckptRequestSpec_run {x : Session} {p : Packet} {s : State} (hstatus : requestStatus (beAt p.params 0 8) (beAt p.params 8 1) s = 0)
    (hlater : s.streamsNow (beAt p.params 0 8) = false) :
    let u : State := { s with ckpt := { s.ckpt with buddy := beAt p.params 8 1 == 1, session := x.id, st := 1 } }
    ckptRequestSpec.run x p s = Reply.ok (be64 (u.commitSeq (beAt p.params 0 8)))
      { u with ckpt := { u.ckpt with target := u.commitSeq (beAt p.params 0 8) } } := by
  intro u
  have hu : u.streamsNow (beAt p.params 0 8) = false := hlater
  simp only [ckptRequestSpec, hstatus]
  rw [if_neg (not_not_intro rfl)]
  exact if_neg (by rw [hu]; exact Bool.false_ne_true)

/-- An acknowledgement of bytes sent, short of the stream's end, advances the window (R316). -/
theorem ckptAckSpec_run {x : Session} {p : Packet} {s : State} (hst : s.ckpt.st = 2) (h0 : s.ckpt.stream ≠ 0) (hbuddy : s.ckpt.buddy = false)
    (hid : s.ckpt.session = x.id) (hstream : beAt p.params 0 4 = s.ckpt.stream) (hread : beAt p.params 8 8 ≤ s.ckpt.read)
    (hopen : max s.ckpt.acked (beAt p.params 8 8) < s.ckpt.data.length) :
    ckptAckSpec.run x p s = Reply.ok [] { s with ckpt := { s.ckpt with
      acked := max s.ckpt.acked (beAt p.params 8 8), sent := max s.ckpt.sent (beAt p.params 8 8) } } := by
  simp only [ckptAckSpec]
  rw [if_neg (by simp [h0, hbuddy, hid]), if_neg (by simp [hst, hstream]), if_neg (Nat.not_lt.mpr hread), if_neg (Nat.not_le.mpr hopen)]

/-- A stream that no read fails gives its next part (R370). -/
theorem readPart_sound {s : State} (n : Nat) (h : s.ckpt.failAt = none) :
    let part := (s.ckpt.data.drop s.ckpt.sent).take n
    s.readPart n = (some part, { s with ckpt := { s.ckpt with
      sent := s.ckpt.sent + part.length, read := max s.ckpt.read (s.ckpt.sent + part.length),
      fetched := max s.ckpt.fetched (s.ckpt.sent + part.length) } }) := by
  unfold State.readPart
  rw [h]

/-- The next chunk leaves for its session: the window, egress and the engine have room for it (R316). -/
theorem exec_ckptChunk {x : Session} {s : State} (hx : s.session s.ckpt.session = some x) (hserves : s.firmwareServes = true)
    (hst : s.ckpt.st = 2) (hbuddy : s.ckpt.buddy = false) (hmaster : s.ckptMaster = false) (hfail : s.ckpt.failAt = none)
    (hmore : s.ckpt.sent < s.ckpt.data.length) (hwindow : s.ckpt.sent + s.chunkSize x.port ≤ s.ckpt.acked + ckptWindow)
    (hroom : s.eth[x.port].occupancy + 64 + s.chunkSize x.port ≤ egressSize) (hfetched : s.fetchedPart (s.chunkSize x.port) = true) :
    let part := (s.ckpt.data.drop s.ckpt.sent).take (s.chunkSize x.port)
    let u : State := { s with ckpt := { s.ckpt with
      sent := s.ckpt.sent + part.length, read := max s.ckpt.read (s.ckpt.sent + part.length),
      fetched := max s.ckpt.fetched (s.ckpt.sent + part.length) } }
    exec .ckptChunk s = .next (((u.send ((chunkPacket x s.ckpt.stream s.ckpt.sent s.wall.toNat part).sign (some x.key))).modSession
      x.id (fun y => { y with chunks := y.chunks + 1 })).releaseCkpt) := by
  change execCkptChunk s = _
  rw [execCkptChunk, hx]
  dsimp only
  rw [if_neg (by simp [hserves, hst, hbuddy, hmaster, hmore, hwindow, hfetched]; exact hroom), readPart_sound _ hfail]

/-- Data of the restore under way, inside its length, enter the buffer (R375). -/
theorem restoreDataSpec_run {x : Session} {p : Packet} {s : State} (hrestoring : s.restoring (beAt p.params 0 4) = true)
    (hoff : beAt p.params 8 8 % 64 = 0) (hlen : beAt p.params 8 8 + (p.params.drop 16).length ≤ roundUp s.ckpt.restoreLen 64) :
    restoreDataSpec.run x p s = Reply.ok [] { s with ckpt := { s.ckpt with
      restoreBuf := s.ckpt.restoreBuf.writeBytes (beAt p.params 8 8) (p.params.drop 16) } } := by
  have hstates : s.job.st = .loaded ∧ s.ckpt.st = 5 := by
    simp only [State.restoring, Bool.and_eq_true, beq_iff_eq] at hrestoring
    exact hrestoring.1
  simp only [restoreDataSpec]
  rw [if_neg (by simp [hstates]), if_neg (by simp [hrestoring, hoff]; simpa using hlen)]

/-- A restore that is accepted has its stream (R375). -/
theorem restoreStatus_accepted {im : Image} {held : List TensorPlace} {may : Bool} {b : Bytes} (h : (restoreStatus im held may b).1 = 0) :
    ∃ r, restoreStatus im held may b = (0, some r) := by
  unfold restoreStatus at h ⊢
  cases hp : parseStream b with
  | none => simp [hp] at h
  | some r =>
    simp only [hp] at h ⊢
    refine ⟨r, ?_⟩
    split at h
    · cases h
    · split at h
      · cases h
      · split at h
        · cases h
        · split at h
          · cases h
          · simp [*]

/-- RESTORE_END restores an accepted stream, and refuses another with its shelf undefined (R375, R376; log 141). -/
theorem restoreEndSpec_run {x : Session} {p : Packet} {s : State} {im : Image} (hst : s.job.st = .loaded) (hckpt : s.ckpt.st = 5)
    (hrestoring : s.restoring (beAt p.params 0 4) = true) (him : s.image = some im) :
    let k := restoreStatus im s.heldTensors s.mayRestore (s.ckpt.restoreBuf.readBytes 0 s.ckpt.restoreLen)
    let u := s.restore im (k.2.getD ⟨[], []⟩)
    let v : State := { s with job := { s.job with restored := false },
                              ckpt := { s.ckpt with st := 6, restoreStream := none, restoreBuf := [] } }
    restoreEndSpec.run x p s = if k.1 = 0 then Reply.ok (be64 u.ckpt.step) u else Reply.refuse k.1 (v.spoilShelf false) := by
  intro k u v
  simp only [restoreEndSpec]
  rw [if_neg (by simp [hst, hckpt]), if_neg (by simp [hrestoring])]
  split
  next hnone => exact absurd (him.symm.trans hnone) (Option.some_ne_none im)
  next im' him' =>
    obtain rfl : im = im' := Option.some.inj (him.symm.trans him')
    by_cases h0 : k.1 = 0
    · obtain ⟨r, hr⟩ := restoreStatus_accepted h0
      rw [if_pos h0, show u = s.restore im r from by simp only [u, k, hr, Option.getD_some], hr]
      rfl
    · rw [if_neg h0]
      split
      next r hr => exact absurd (congrArg Prod.fst hr) h0
      next status _ _ hr => rw [show k.1 = status from congrArg Prod.fst hr]

/-- Settles O52: each command by the answer of its row. -/
theorem checkpointCommands : Obligations.CheckpointCommands := by
  intro x p s h
  refine ⟨fun ha hroom hstatus hlater => ?_, fun ha hst h0 hbuddy hid hstream hread hopen => ?_, fun ha hroom => ?_, exec_ckptChunk,
    fun hst hbuddy => ?_, fun ha hroom hst => ?_, fun ha hrestoring hoff hlen => ?_, fun im r ha hroom hst hckpt hrestoring him => ?_⟩
  · exact exec_accepted ckptRequestSpec rfl ha (ckptRequestSpec_run hstatus hlater) (by simpa [Reply.ok, be64, beBytes_length] using hroom)
  · exact exec_accepted ckptAckSpec rfl ha (ckptAckSpec_run (s := h) hst h0 hbuddy hid hstream hread hopen) (Nat.zero_le _)
  · exact exec_accepted ckptStatusSpec rfl ha rfl (by simpa [Reply.ok, u8, be32, be64, beBytes_length] using hroom)
  · change execCkptResend s = _
    rw [execCkptResend, hst, hbuddy]
    rfl
  · refine exec_accepted restoreBeginSpec rfl ha ?_ (by simpa [Reply.ok, be32, beBytes_length] using hroom)
    simp only [restoreBeginSpec]
    exact if_neg (by simp [show (s.heard x p).job = s.job from rfl, hst])
  · exact exec_accepted restoreDataSpec rfl ha (restoreDataSpec_run (s := h) hrestoring hoff hlen) (Nat.zero_le _)
  · refine ⟨exec_accepted restoreEndSpec rfl ha (restoreEndSpec_run (s := h) hst hckpt hrestoring him) ?_, rfl, rfl⟩
    split
    · simpa [Reply.ok, be64, beBytes_length] using hroom
    · exact Nat.zero_le _

end Sys2Proof.Machine
end

section
/-! PROOF. Log and register commands, tests, reports and the firmware's update (R84 to R86, R297, R300, R310 to R315, R320, R326, R351,
R362, R366, R388 to R401). -/
namespace Sys2Proof.Machine

/-! ### Records within the MTU -/

/-- A block of records of one size, cut to what a packet carries, fits it (R300). -/
theorem cutRecords_length {α : Type} {f : α → Bytes} {k : Nat} (hf : ∀ x, (f x).length = k) (l : List α) (room : Nat) :
    ((l.take (room / k)).flatMap f).length ≤ room := by
  have hsum : ((l.take (room / k)).flatMap f).length = (l.take (room / k)).length * k := by
    simp only [List.length_flatMap, hf, List.map_const', List.sum_replicate_nat]
  calc _ = (l.take (room / k)).length * k := hsum
    _ ≤ room / k * k := Nat.mul_le_mul_right k (List.length_take_le ..)
    _ ≤ room := Nat.div_mul_le_self ..

theorem eventBytes_length (r : EventRec) : r.bytes.length = 64 := by
  simp [EventRec.bytes, le16, le32, le64, leBytes_length, padTo_length]

theorem faultBytes_length (r : FaultRec) : r.bytes.length = 64 := by
  simp [FaultRec.bytes, u8, le16, le32, le64, leBytes_length]

theorem replyPart_of {b c : Bytes} {part : Nat} (s : State) (h : partOf b part = some c) : replyPart b part s = Reply.ok c s := by
  rw [replyPart, h]

/-- Settles O53: each read and acknowledgement by the answer of its row. -/
theorem logCommands : Obligations.LogCommands := by
  intro x p s h
  refine ⟨fun l ha hcount hl => ?_, fun ha hseq => ?_, fun l ha hcount hl hroom => ?_, fun ha hseq => ?_, fun b ha hb hroom => ?_,
    fun ha hlog => ?_, fun b ha hb hroom => ?_⟩
  · refine exec_accepted logReadSpec rfl ha ?_ (cutRecords_length eventBytes_length l _)
    simp only [logReadSpec]
    rw [if_neg (Nat.not_lt.mpr hcount), show (s.heard x p).log = s.log from rfl, hl]
    rfl
  · exact exec_accepted logAckSpec rfl ha (if_neg (Nat.not_le.mpr hseq)) (Nat.zero_le _)
  · refine exec_accepted inputReadSpec rfl ha ?_ hroom
    simp only [inputReadSpec]
    rw [if_neg (Nat.not_lt.mpr hcount), show (s.heard x p).log = s.log from rfl, hl]
    rfl
  · exact exec_accepted inputAckSpec rfl ha (if_neg (Nat.not_le.mpr hseq)) (Nat.zero_le _)
  · refine exec_accepted telemetrySpec rfl ha ?_ hroom
    simp only [telemetrySpec]
    rw [show (s.heard x p).telemetry _ = some b from hb]
  · exact exec_accepted faultLogSpec rfl ha (if_neg (Nat.not_lt.mpr hlog)) (cutRecords_length faultBytes_length _ _)
  · exact exec_accepted healthReadSpec rfl ha (replyPart_of _ hb) hroom

/-! ### Registers -/

/-- An accepted CFG_WRITE writes its register, whichever of its rows executes it (R84, R314). -/
theorem cfgWriteSpec_run {x : Session} {p : Packet} {s : State} {n inst : Nat} (hf : fieldOf (beAt p.params 0 4) = some (n, inst))
    (hstatus : s.writeStatus x.seat ⟨n, inst, beAt p.params 8 8, beAt p.params 16 8, beAt p.params 24 8⟩ = 0) :
    cfgWriteSpec.run x p s = Reply.ok [] (s.writeCfg ⟨n, inst, beAt p.params 8 8, beAt p.params 16 8, beAt p.params 24 8⟩) := by
  simp only [cfgWriteSpec, hf]
  exact if_pos hstatus

theorem writeCfg_later {w : CfgOp} {s : State} (hb : w.touches .barrier = true) (hst : s.job.st ≠ .empty)
    (hm : w.mask &&& writableMask w.reg ≠ 0) :
    s.writeCfg w = s.addShadow ⟨fieldCode w.reg w.inst, BitVec.ofNat 64 w.value, BitVec.ofNat 64 (w.mask &&& writableMask w.reg), w.seq, true⟩ := by
  unfold State.writeCfg
  rw [if_neg hm, hb, bne_iff_ne.mpr hst]
  rfl

theorem writeCfg_now {w : CfgOp} {s : State} (hb : w.touches .barrier = false) (hr : w.rootSource = false)
    (hm : w.mask &&& writableMask w.reg ≠ 0) :
    s.writeCfg w = s.setReg w.reg w.inst (s.after w) (w.value &&& (w.mask &&& writableMask w.reg)) := by
  unfold State.writeCfg
  rw [if_neg hm, hb, hr]
  rfl

/-- Settles O54: each register and time command by the answer of its row. -/
theorem configCommands : Obligations.ConfigCommands := by
  intro x p s h
  refine ⟨fun n inst v ha hf hv hroom => ?_, fun n inst ha hf => ?_, fun ha => ?_, fun ha hns hlock => ?_, fun ha hns hlock => ?_⟩
  · refine exec_accepted cfgReadSpec rfl ha ?_ hroom
    simp only [cfgReadSpec]
    rw [hf]
    dsimp only
    rw [show (s.heard x p).regValue n inst = some v from hv]
  · intro w hstatus
    refine ⟨fun cmd hcmd => ?_, writeCfg_later (s := h), writeCfg_now⟩
    have hexec : exec (cmd p) s = .next (receive cfgWriteSpec p s) := by
      simp only [List.mem_cons, List.not_mem_nil, or_false] at hcmd
      rcases hcmd with rfl | rfl | rfl | rfl | rfl <;> rfl
    exact exec_accepted cfgWriteSpec hexec ha (cfgWriteSpec_run hf hstatus) (Nat.zero_le _)
  · exact exec_accepted cfgSaveSpec rfl ha rfl (Nat.zero_le _)
  · refine exec_accepted setTimeSpec rfl ha ?_ (Nat.zero_le _)
    simp only [setTimeSpec]
    rw [if_neg (Nat.not_le.mpr hns), show (s.heard x p).timeLocked = false from hlock]
    rfl
  · refine exec_accepted setTimeSpec rfl ha ?_ (Nat.zero_le _)
    simp only [setTimeSpec]
    rw [if_neg (Nat.not_le.mpr hns), show (s.heard x p).timeLocked = true from hlock]
    rfl

/-! ### Tests, reports and the firmware -/

/-- A packet of a session is received as such, also where session 0 could carry its row (R310). -/
theorem receiveBoth_session {d : Spec} {ok : State → Bool} {p : Packet} (h : p.session ≠ 0) (s : State) :
    receiveBoth d ok p s = receive d p s := if_neg (by simpa using h)

/-- FW_COMMIT of a pending update: the checks decide, then the read-back (R388, R390; log 1). -/
theorem fwCommitSpec_run {ok : Bool} {x : Session} {p : Packet} {s : State} (hpending : s.sec.fwPending = true) :
    let image := s.hbm.mem.readBytes s.staging.1 s.sec.fwLength
    let u : State := { s with sec := { s.sec with fwPending := false } }
    let k := fwStatus (fwCheck s.fuses.svn image)
    (fwCommitSpec ok).run x p s = if k ≠ 0 then Reply.refuse k u
      else if ok then Reply.ok [] { u with flash := { u.flash with firmware := image } }
      else Reply.refuse 0x903 { u with free := s.free + 1, flash := { u.flash with
        firmware := (List.range image.length).map (Config.freeByte s.free) } } := by
  simp only [fwCommitSpec, hpending]
  rfl

/-- The boot ROM takes a well-formed block (R391). -/
theorem exec_recoveryLoad {p : Packet} {s : State} (hin : romIntake p s = true) (hm : p.magic = 0x46454C54) (h0 : p.session = 0)
    (hauth : packetUnauth p = true) (hv : p.version = 1) (htag : p.tag = List.replicate 16 0) :
    exec (.recoveryLoad p) s = .next (s.recoveryBlock p) := by
  change execRecoveryLoad p s = _
  rw [execRecoveryLoad, if_pos hin, if_neg (by simp [hm, h0, hauth, hv, htag])]

theorem exec_recoveryRewriteDone {image : Bytes} {s : State} (ha : s.alive = true) (hr : s.boot.rewriting = true)
    (hi : s.boot.arrived = some image) :
    exec .recoveryRewriteDone s = .next { s with
      flash := { s.flash with firmware := image }, boot := { s.boot with rewriting := false, sram := [], sramGot := [] } } := by
  change execRecoveryRewriteDone s = _
  rw [execRecoveryRewriteDone, ha, hr, hi]
  rfl

/-- OPEN_SPYHOLE with its word, DEBUG_EN high and the port closed opens the port (R401). -/
theorem spyholeSpec_run {x : Session} {p : Packet} {s : State} (hword : beAt p.params 0 4 = 0x4F50454E) (hdebug : s.pins.debugEn = true)
    (hclosed : s.sec.spyholeOpen = false) : spyholeSpec.run x p s = Reply.ok [] s.openPort := by
  simp only [spyholeSpec]
  rw [if_neg (not_not_intro hword), hdebug, hclosed]
  rfl

theorem event_flash (k : Nat) (d x : Bytes) (s : State) : (s.event k d x).flash = s.flash := by
  obtain ⟨e, f, l, h⟩ := event_onlyLogs k d x s
  rw [h]

theorem closeSession_flash (id : Nat) (s : State) : (s.closeSession id).flash = s.flash := by
  obtain ⟨ckpt, e, f, l, h⟩ := endStreamOf_only id ({ s with
    fcp := { s.fcp with
      sessions := s.fcp.sessions.filter (fun x => x.id != id), held := s.fcp.held.filter (fun h => h.packet.session.toNat != id) },
    power := { s.power with waitReplies := s.power.waitReplies.filter (fun p => p.session != id) } } : State)
  rw [State.closeSession, h]

theorem closeSessions_flash (f : Session → Bool) (s : State) : (s.closeSessions f).flash = s.flash :=
  foldl_same (·.flash) (fun _ _ => closeSession_flash ..) _ s

/-- A health record that is written changes its own copy in flash alone: keys and fuses stay (R366). -/
theorem writeHealth_keeps (s : State) :
    s.writeHealth.flash.keysA = s.flash.keysA ∧ s.writeHealth.flash.keysB = s.flash.keysB ∧ s.writeHealth.fuses = s.fuses := by
  unfold State.writeHealth
  split
  · exact ⟨rfl, rfl, rfl⟩
  · dsimp only
    split <;> split <;> exact ⟨rfl, rfl, rfl⟩

/-- The opening of the port blows the fuse and erases the key stores (R401). -/
theorem openPort_leaves (s : State) :
    s.openPort.fuses.identityKill = true ∧ s.openPort.flash.keysA = none ∧ s.openPort.flash.keysB = none
    ∧ s.openPort.sec.spyholeOpen = true := by
  unfold State.openPort
  dsimp only
  rw [(writeHealth_keeps _).1, (writeHealth_keeps _).2.1, (writeHealth_keeps _).2.2]
  refine ⟨rfl, ?_, ?_, rfl⟩
  · exact congrArg FlashState.keysA (closeSessions_flash _ _)
  · exact congrArg FlashState.keysB (closeSessions_flash _ _)

/-- Settles O55: each service command by the answer of its row, recovery by its own intake. -/
theorem serviceCommands : Obligations.ServiceCommands := by
  intro x p s h
  refine ⟨fun failed ha hst => ?_, fun claimEn b h0 => ⟨fun ha hroom => ?_, fun ha hroom hb => ?_⟩, fun ha hst hr hmod hlen => ?_,
    fun ha hpending hmod hlen => ?_, fun ok ha hpending => ?_, exec_recoveryLoad, fun image => exec_recoveryRewriteDone,
    fun ha hword hclosed => ⟨?_, openPort_leaves _⟩⟩
  · refine exec_accepted (testRunSpec failed) rfl ha ?_ (Nat.zero_le _)
    simp only [testRunSpec]
    exact if_neg (by rw [show (s.heard x p).job = s.job from rfl, hst]; decide)
  · intro a hb
    exact exec_accepted attestSpec (congrArg Host.Outcome.next (receiveBoth_session h0 _)) ha (replyPart_of _ hb) hroom
  · exact exec_accepted identitySpec (congrArg Host.Outcome.next (receiveBoth_session h0 _)) ha (replyPart_of _ hb) hroom
  · refine exec_accepted fwBeginSpec rfl ha ?_ (Nat.zero_le _)
    simp only [fwBeginSpec]
    rw [if_neg (by simp [show (s.heard x p).job = s.job from rfl, show (s.heard x p).boot = s.boot from rfl, hst, hr]), if_neg (by omega)]
  · refine exec_accepted fwDataSpec rfl ha ?_ (Nat.zero_le _)
    have hext : ¬(beAt p.params 0 8 % 64 ≠ 0 ∨ s.sec.fwLength < beAt p.params 0 8 + (p.params.drop 8).length) := by omega
    simp only [fwDataSpec]
    rw [show (s.heard x p).sec = s.sec from rfl, hpending]
    exact if_neg hext
  · intro image u k
    refine exec_accepted (fwCommitSpec ok) rfl ha (fwCommitSpec_run (s := h) hpending) ?_
    split
    · exact Nat.zero_le _
    · split <;> exact Nat.zero_le _
  · exact exec_accepted spyholeSpec rfl ha (spyholeSpec_run hword rfl hclosed) (Nat.zero_le _)

end Sys2Proof.Machine
end

section
/-! PROOF. The Ethernet ports beside FCP, and the test access port (R293 to R297, R329, R334, R400, R402, R421). -/
namespace Sys2Proof.Machine

/-! ### Frames -/

/-- A frame that MACsec does not pass is dropped and counted (R296). -/
theorem frameTo_counted {f : Frame} {s : State} (go : State → State) (hs : s.portServes f.port = true) (hm : s.macsecOn f.port = true)
    (hp : f.prot ≠ .verified) : s.frameTo f go = s.dropTag f.port := by
  have hin : s.frameIn f = .counted := if_pos (by simp [hm, hp])
  unfold State.frameTo
  rw [hs, hin]
  rfl

/-- A frame that a port does not take as its own is dropped (R294). -/
theorem frameTo_ignored {f : Frame} {s : State} (go : State → State) (hs : s.portServes f.port = true) (hin : s.frameIn f = .ignored) :
    s.frameTo f go = s := by
  unfold State.frameTo
  rw [hs, hin]
  rfl

/-- A frame that a port takes goes on as it came. -/
theorem frameTo_packet {f : Frame} {s : State} (go : State → State) (hs : s.portServes f.port = true) (hin : s.frameIn f = .packet) :
    s.frameTo f go = go s := by
  unfold State.frameTo
  rw [hs, hin]
  rfl

/-- A protected frame on a port without MACsec is none of the port's (R296; log 110). -/
theorem frameIn_unprotected {f : Frame} {s : State} (hm : s.macsecOn f.port = false) (hp : f.prot ≠ .bare) : s.frameIn f = .ignored := by
  unfold State.frameIn
  rw [hm, if_neg (by simp)]
  exact if_pos (by simp [hp])

/-- A frame of another VLAN, and a fragment, are none of the port's (R294). -/
theorem frameIn_foreign {f : Frame} {s : State} (hm : s.macsecOn f.port = true → f.prot = .verified)
    (h : (f.vlan ≠ 0 ∧ f.vlan.toNat ≠ s.vlan f.port) ∨ f.fragmented = true) : s.frameIn f = .ignored := by
  have hverified : ¬(s.macsecOn f.port && f.prot != .verified) = true := by
    cases hon : s.macsecOn f.port
    · simp
    · simp [hm hon]
  unfold State.frameIn
  rw [if_neg hverified]
  refine if_pos ?_
  rcases h with ⟨h0, hv⟩ | hfrag
  · simp [hv, show ¬f.vlan = 0#12 from h0]
  · simp [hfrag]

/-- The frames that no session takes reach their port alike (R294). -/
theorem exec_frameTo {f : Frame} {cmd : Instr} (h : (∃ target src, cmd = .neighbourDiscovery f target src) ∨ (∃ target src, cmd = .arp f target src)
    ∨ (∃ v6 target src data, cmd = .echo f v6 target src data) ∨ (∃ m locked ns, cmd = .ptpMessage f m locked ns)) :
    ∃ go : State → State, ∀ s, exec cmd s = .next (s.frameTo f go) := by
  rcases h with ⟨_, _, rfl⟩ | ⟨_, _, rfl⟩ | ⟨_, _, _, _, rfl⟩ | ⟨_, _, _, rfl⟩
  · exact ⟨_, fun _ => rfl⟩
  · exact ⟨_, fun _ => rfl⟩
  · exact ⟨_, fun _ => rfl⟩
  · exact ⟨_, fun _ => rfl⟩

/-- A message of the domain that a port's slave clock follows (R297). -/
theorem exec_ptpMessage {f : Frame} {m : PtpHeader} {s : State} (locked : Bool) (ns : U64) (hserves : s.firmwareServes = true)
    (hs : s.portServes f.port = true) (hin : s.frameIn f = .packet) (hon : s.ptpOn f.port = true) (hd : m.domain = s.cfg.ptpDomain) :
    exec (.ptpMessage f m locked ns) s = .next (s.ptpMessage f.port m.kind locked ns.toNat) := by
  change Host.Outcome.next (s.frameTo f _) = _
  rw [frameTo_packet _ hs hin]
  exact congrArg Host.Outcome.next (if_pos (by simp [hserves, hon, hd]))

/-- A Delay_Req after a Sync: the flag of its Follow_Up is clear (R297). -/
theorem setPtp_answer (port : Fin 2) (s : State) :
    (s.setPtp port false s.eth[port].ptpLocked).answer port 4 0 0 [] = { s with eth := s.eth.set port { s.eth[port] with
      ptpWaits := false, answers := s.eth[port].answers ++ [⟨4, 0, 0, [], s.macsecOn port⟩] } } := by
  simp [State.setPtp, State.answer, State.macsecOn]

/-- Settles O56: the equation of each event; the frames through `exec_frameTo`. -/
theorem ethernetRows : Obligations.EthernetRows := by
  intro port s e put say
  refine ⟨fun hs => ?_, fun f cmd hport hs hcmd => ?_, fun f target src data v6 hport hs hin => ⟨fun h => ?_, fun h => ?_, fun h => ?_⟩,
    fun f target src hport hs hin => ⟨fun h => ?_, fun h => ?_⟩, fun f domain locked ns hport hserves hs hin hon hd => ?_, fun h => ?_, rfl⟩
  · change execPauseFrame port s = _
    rw [execPauseFrame, hs]
    rfl
  · subst hport
    obtain ⟨go, hexec⟩ := exec_frameTo hcmd
    rw [hexec]
    refine ⟨fun hm hp => by rw [frameTo_counted go hs hm hp]; rfl, fun hm hp => ?_, fun hm h => ?_⟩
    · rw [frameTo_ignored go hs (frameIn_unprotected hm hp)]
    · rw [frameTo_ignored go hs (frameIn_foreign hm h)]
  · subst hport
    change Host.Outcome.next (s.frameTo f _) = _
    rw [frameTo_packet _ hs hin]
    exact congrArg Host.Outcome.next (if_pos h)
  · subst hport
    change Host.Outcome.next (s.frameTo f _) = _
    rw [frameTo_packet _ hs hin]
    exact congrArg Host.Outcome.next (if_neg (by rw [h]; exact Bool.false_ne_true))
  · subst hport
    change Host.Outcome.next (s.frameTo f _) = _
    rw [frameTo_packet _ hs hin]
    exact congrArg Host.Outcome.next (if_pos h)
  · subst hport
    change Host.Outcome.next (s.frameTo f _) = _
    rw [frameTo_packet _ hs hin]
    exact congrArg Host.Outcome.next (if_pos h)
  · subst hport
    change Host.Outcome.next (s.frameTo f _) = _
    rw [frameTo_packet _ hs hin]
    exact congrArg Host.Outcome.next (if_neg (by rw [h]; exact Bool.false_ne_true))
  · subst hport
    have hptp (kind : PtpKind) := exec_ptpMessage (m := ⟨kind, domain⟩) locked ns hserves hs hin hon hd
    refine ⟨?_, hptp _, fun hw => ?_, hptp _⟩
    · rw [hptp]
      exact congrArg Host.Outcome.next (setPtp_answer ..)
    · rw [hptp]
      exact congrArg Host.Outcome.next ((if_pos hw).trans (setPtp_answer ..))
  · change execEthLinkUp port s = _
    rw [execEthLinkUp, h]
    rfl

/-! ### The test access port -/

theorem tap_on {s : State} (h : s.pins.pwrOk = true) (x : JtagSel) : s.tap x = { s with jtag := { s.jtag with sel := x } } := by
  unfold State.tap
  exact if_pos h

theorem tap_off {s : State} (h : s.pins.pwrOk = false) (x : JtagSel) : s.tap x = s := by
  unfold State.tap
  exact if_neg (by rw [h]; exact Bool.false_ne_true)

/-- An instruction that drives pins selects its register in EMPTY only (R400). -/
theorem tapEmpty_on {s : State} (h : s.pins.pwrOk = true) (x : JtagSel) :
    s.tapEmpty x = { s with jtag := { s.jtag with sel := if s.job.st = .empty then x else .bypass } } := by
  unfold State.tapEmpty
  rw [tap_on h]
  simp only [beq_iff_eq]

theorem spyCtrl_closed {s : State} (h : s.pins.pwrOk = true) (hc : s.sec.spyholeOpen = false) (op core unit addr : Nat) (ok : Bool) :
    s.spyCtrl op core unit addr ok = { s with jtag := { s.jtag with sel := .bypass } } := by
  unfold State.spyCtrl
  rw [h, hc, tap_on h]
  rfl

theorem spyCtrl_open {s : State} (h : s.pins.pwrOk = true) (hc : s.sec.spyholeOpen = true) (op core unit addr : Nat) (ok : Bool) :
    s.spyCtrl op core unit addr ok = { s with jtag := { s.jtag with sel := .spyCtrl, spy := some ⟨op, core, unit, addr, ok⟩ } } := by
  unfold State.spyCtrl
  rw [h, hc]
  rfl

/-- SPY_DATA reads the next word of the access: all ones where the access is not allowed (R402). -/
theorem exec_spyData {s : State} {a : SpyAccess} (h : s.pins.pwrOk = true) (hc : s.sec.spyholeOpen = true) (ha : s.jtag.spy = some a) :
    exec .spyData s = .next { (s.spyWordOf a).2 with jtag := { (s.spyWordOf a).2.jtag with
      sel := .spyData, dataOut := (s.spyWordOf a).1, spy := some { a with addr := a.addr + 1 } } } := by
  change execSpyData s = _
  rw [execSpyData, h, hc, ha]
  rfl

theorem spyWordOf_keeps (a : SpyAccess) (s : State) :
    (s.spyWordOf a).2.job = s.job ∧ (s.spyWordOf a).2.cores = s.cores ∧ (a.allowed = false → (s.spyWordOf a).1 = BitVec.allOnes 64) := by
  unfold State.spyWordOf
  split
  · exact ⟨rfl, rfl, fun _ => rfl⟩
  next hallowed =>
    refine ⟨?_, ?_, fun h => absurd h (by simpa using hallowed)⟩
    · split
      · split <;> rfl
      · rfl
    · split
      · split <;> rfl
      · rfl

/-- Settles O60: the instructions by the register that each selects. -/
theorem testAccessRows : Obligations.TestAccessRows := by
  intro s sel
  refine ⟨fun h => ⟨congrArg Host.Outcome.next (tap_on h _), congrArg Host.Outcome.next (tap_on h _), fun hst => ?_, fun hst cmd hcmd => ?_, ?_,
    fun core unit addr => ⟨fun hc cmd hcmd => ?_, fun hc => ?_⟩, fun a hc ha => ?_⟩, fun h cmd hcmd => ?_, rfl⟩
  · have htap (x : JtagSel) : s.tapEmpty x = sel x := by rw [tapEmpty_on h, if_pos hst]
    exact ⟨congrArg Host.Outcome.next (htap _), congrArg Host.Outcome.next (htap _), congrArg Host.Outcome.next (htap _),
      congrArg Host.Outcome.next (htap _)⟩
  · have htap (x : JtagSel) : s.tapEmpty x = sel .bypass := by rw [tapEmpty_on h, if_neg hst]
    simp only [List.mem_cons, List.not_mem_nil, or_false] at hcmd
    rcases hcmd with rfl | rfl | rfl | rfl <;> exact congrArg Host.Outcome.next (htap _)
  · change execSamplePreload s = _
    rw [execSamplePreload, h]
    rfl
  · simp only [List.mem_cons, List.not_mem_nil, or_false] at hcmd
    rcases hcmd with rfl | rfl | rfl | rfl
    · exact congrArg Host.Outcome.next (spyCtrl_closed h hc ..)
    · exact congrArg Host.Outcome.next (spyCtrl_closed h hc ..)
    · exact congrArg Host.Outcome.next (spyCtrl_closed h hc ..)
    · change execSpyData s = _
      rw [execSpyData, h, hc, tap_on h]
      rfl
  · exact ⟨congrArg Host.Outcome.next (spyCtrl_open h hc ..), congrArg Host.Outcome.next (spyCtrl_open h hc ..),
      congrArg Host.Outcome.next (spyCtrl_open h hc ..)⟩
  · obtain ⟨hjob, hcores, hones⟩ := spyWordOf_keeps a s
    exact ⟨_, exec_spyData h hc ha, rfl, rfl, hones, hjob, hcores⟩
  · simp only [List.mem_cons, List.not_mem_nil, or_false] at hcmd
    rcases hcmd with rfl | rfl | rfl | rfl | rfl | rfl | rfl | rfl
    · exact congrArg Host.Outcome.next (tap_off h _)
    · exact congrArg Host.Outcome.next (tap_off h _)
    · exact congrArg Host.Outcome.next (tap_off h _)
    · exact congrArg Host.Outcome.next (tap_off h _)
    · exact congrArg Host.Outcome.next (tap_off h _)
    · exact congrArg Host.Outcome.next (tap_off h _)
    · change execSamplePreload s = _
      rw [execSamplePreload, h]
      rfl
    · change execSpyData s = _
      rw [execSpyData, h]
      rfl

end Sys2Proof.Machine
end

section
/-! PROOF. Clock sources, their monitors and the root (R333 to R337). -/
namespace Sys2Proof.Machine

/-! ### Monitors -/

theorem ClockState.mon_setMon {src : Source} (h : src ≠ .int) (m : SourceMon) (c : ClockState) : (c.setMon src m).mon src = m := by
  cases src with
  | int => exact absurd (Eq.refl _) h
  | localRef => rfl
  | link => rfl
  | eth => rfl

/-- The monitor of a source that was changed reads what it was changed to. -/
theorem modMon_mon {src : Source} (h : src ≠ .int) (f : SourceMon → SourceMon) (s : State) :
    (s.modMon src f).clock.mon src = f (s.clock.mon src) := ClockState.mon_setMon h _ _

/-- A change of a monitor leaves the root. -/
theorem modMon_root (src : Source) (f : SourceMon → SourceMon) (s : State) :
    (s.modMon src f).clock.rootActive = s.clock.rootActive ∧ (s.modMon src f).clock.clockLost = s.clock.clockLost := by
  cases src <;> exact ⟨rfl, rfl⟩

theorem localReturns_clock (s : State) : s.localReturns.clock = s.clock := by
  unfold State.localReturns
  split <;> rfl

/-- A source counts as ready, but LINK while its lane's receiver is unlocked (R333). -/
theorem sourceReady_ready {src : Source} {s : State} (h : src ≠ .int) (hlink : src = .link → s.linkLocked = true) :
    ((s.sourceReady src).clock.mon src).ready = true := by
  have hlocked : ¬(src == .link && !s.linkLocked) = true := by
    simp only [Bool.and_eq_true, beq_iff_eq, Bool.not_eq_true', not_and]
    exact fun he => by simp [hlink he]
  unfold State.sourceReady
  rw [if_neg hlocked, localReturns_clock, modMon_mon h]

/-- The second gate in a row inside the window makes a source ready (R333). -/
theorem compareGate_ready {src : Source} {s : State} {ppm : Int} (h : src ≠ .int) (hin : ppm.natAbs ≤ s.cfg.monWindow.toNat)
    (hgood : 1 ≤ (s.clock.mon src).good) (hlink : src = .link → s.linkLocked = true) :
    ((s.compareGate src ppm).clock.mon src).ready = true := by
  have hwindow : s.inWindowPpm ppm = true := decide_eq_true hin
  unfold State.compareGate
  dsimp only
  rw [modMon_mon h]
  simp only [hwindow, if_true]
  split
  · exact sourceReady_ready h hlink
  next hnot =>
    have hgood2 : 2 ≤ (s.clock.mon src).good + 1 := by omega
    rw [modMon_mon h]
    simpa [hgood2] using hnot

/-! ### Failures -/

theorem raiseSoak_keeps (cause tag : Nat) (held : Bool) (s : State) :
    (s.raiseSoak cause tag held).clock = s.clock ∧ (s.raiseSoak cause tag held).power = s.power := by
  unfold State.raiseSoak State.takeStop
  dsimp only
  (repeat' split) <;> exact ⟨rfl, rfl⟩

theorem discardPoint_keeps (s : State) : s.discardPoint.clock = s.clock ∧ s.discardPoint.power.pending = none := by
  unfold State.discardPoint
  split
  next h => exact ⟨rfl, h⟩
  · dsimp only
    split <;> exact ⟨rfl, rfl⟩

theorem discardRising_keeps (s : State) : s.discardRising.clock = s.clock ∧ s.discardRising.power.pending = s.power.pending := by
  unfold State.discardRising
  split
  · exact ⟨rfl, rfl⟩
  · split <;> exact ⟨rfl, rfl⟩

/-- The loss of the root's source moves the root to INT and discards a pending point (R335, R340). -/
theorem loseClock_leaves (src : Source) (check ppm : Nat) (s : State) :
    (s.loseClock src check ppm).clock = { s.clock with clockLost := true, rootActive := 2 }
    ∧ (s.loseClock src check ppm).power.pending = none := by
  obtain ⟨e, f, l, h⟩ := event_onlyLogs 9 (u8 (sourceCode src) ++ u8 check ++ le16 0 ++ le32 ppm) []
    { s with clock := { s.clock with clockLost := true, rootActive := 2 } }
  unfold State.loseClock
  dsimp only
  rw [(raiseSoak_keeps ..).1, (raiseSoak_keeps ..).2, (discardRising_keeps _).1, (discardRising_keeps _).2, (discardPoint_keeps _).1,
    (discardPoint_keeps _).2, h]
  exact ⟨rfl, rfl⟩

/-- A monitor as its source's failure leaves it (R333). -/
def SourceMon.failed (m : SourceMon) : SourceMon := { m with ready := false, good := 0, bad := 0 }

/-- A check's failure clears READY; of the root's own source it sets CLOCK_LOST (R333, R335). -/
theorem sourceFails_eq (src : Source) (check ppm : Nat) (s : State) :
    s.sourceFails src check ppm =
      if (sourceCode src == s.clock.rootActive.toNat && !s.clock.clockLost) = true then (s.modMon src SourceMon.failed).loseClock src check ppm
      else s.modMon src SourceMon.failed := by
  obtain ⟨hroot, hlost⟩ := modMon_root src SourceMon.failed s
  rw [← hroot, ← hlost]
  rfl

theorem ClockState.mon_lost (c : ClockState) (src : Source) (lost : Bool) (root : BitVec 2) :
    ({ c with clockLost := lost, rootActive := root } : ClockState).mon src = c.mon src := by
  cases src <;> rfl

theorem sourceFails_notReady {src : Source} (h : src ≠ .int) (check ppm : Nat) (s : State) :
    ((s.sourceFails src check ppm).clock.mon src).ready = false := by
  rw [sourceFails_eq]
  split
  · rw [(loseClock_leaves ..).1, ClockState.mon_lost, modMon_mon h]
    rfl
  · rw [modMon_mon h]
    rfl

/-- The second gate in a row outside the window is the check's failure (R334). -/
theorem fineGate_fails {src : Source} {s : State} {ppm : Int} (h : src ≠ .int) (hout : s.cfg.monWindow.toNat < ppm.natAbs)
    (hbad : 1 ≤ (s.clock.mon src).bad) : ((s.fineGate src ppm).clock.mon src).ready = false := by
  have hwindow : s.inWindowPpm ppm = false := decide_eq_false (Nat.not_le.mpr hout)
  have hbad2 : 2 ≤ (s.clock.mon src).bad + 1 := by omega
  unfold State.fineGate
  dsimp only
  rw [modMon_mon h]
  simp only [hwindow, Bool.false_eq_true, if_false, hbad2, if_true]
  exact sourceFails_notReady h ..

/-! ### Gates, counts and the root -/

theorem modMon_ethFailed (src : Source) (f : SourceMon → SourceMon) (s : State) :
    (s.modMon src f).clock.ethFailed = s.clock.ethFailed := by
  cases src <;> rfl

theorem sourceReady_ethFailed (src : Source) (s : State) : (s.sourceReady src).clock.ethFailed = s.clock.ethFailed := by
  unfold State.sourceReady
  split
  · rfl
  · rw [localReturns_clock, modMon_ethFailed]

/-- Compare mode decides nothing of ETH (R333). -/
theorem compareGate_ethFailed (src : Source) (ppm : Int) (s : State) : (s.compareGate src ppm).clock.ethFailed = s.clock.ethFailed := by
  have hmon := modMon_ethFailed src (fun m => { m with good := (if s.inWindowPpm ppm then m.good + 1 else 0) }) s
  unfold State.compareGate
  dsimp only
  generalize s.modMon src (fun m => { m with good := (if s.inWindowPpm ppm then m.good + 1 else 0) }) = t at hmon ⊢
  split
  · rw [sourceReady_ethFailed, hmon]
  · exact hmon

theorem exec_fineMonitorGate {src : Source} {ppm compare : Int} {s : State} (ha : s.alive = true) (h : src ≠ .int)
    (he : (s.clock.mon src).enabled = true) :
    exec (.fineMonitorGate src ⟨ppm, compare⟩) s =
      let c := if s.compareMode src && s.compareRuns then s.compareGate src compare else s
      .next (if s.clock.ethFailed then c else c.fineGate src ppm) := by
  change execFineMonitorGate src ⟨ppm, compare⟩ s = _
  unfold execFineMonitorGate
  rw [if_neg (by simp [ha, h, he])]
  dsimp only
  split
  · rw [compareGate_ethFailed]
  · rfl

/-- GROSS_MONITOR_GATE without an edge: the source fails, ETH with both ports (R334). -/
theorem exec_grossMonitorGate_none {src : Source} {s : State} (ha : s.alive = true) (h : src ≠ .int)
    (he : (s.clock.mon src).enabled = true) :
    exec (.grossMonitorGate src none) s = .next (if src = .eth then s.ethFails else s.sourceFails src 2 0x7FFFFFFF) := by
  change execGrossMonitorGate src none s = _
  unfold execGrossMonitorGate
  rw [if_neg (by simp [ha, h, he])]
  cases src <;> rfl

theorem exec_grossMonitorGate_inside {src : Source} {s : State} {d : Int} (ha : s.alive = true) (h : src ≠ .int) (h' : src ≠ .eth)
    (he : (s.clock.mon src).enabled = true) (hd : d.natAbs ≤ 50000) : exec (.grossMonitorGate src (some d)) s = .next s := by
  change execGrossMonitorGate src (some d) s = _
  unfold execGrossMonitorGate
  rw [if_neg (by simp [ha, h, he])]
  simp only [decide_eq_false (Nat.not_lt.mpr hd), beq_false_of_ne h']
  rfl

theorem exec_sourceReadyCount {src : Source} {s : State} (ha : s.alive = true) (h : src ≠ .int) (he : (s.clock.mon src).enabled = true)
    (hmode : s.compareMode src = false) : exec (.sourceReadyCount src) s = .next (s.sourceReady src) := by
  change execSourceReadyCount src s = _
  exact if_neg (by simp [ha, h, he, hmode])

/-- ROOT_RELOCK runs the root from the source that ROOT_SRC names (R337). -/
theorem exec_rootRelock {s : State} (ha : s.alive = true) (hr : s.clock.relocking = true) :
    ∃ t, exec .rootRelock s = .next t ∧ t.clock.rootLocked = true ∧ t.clock.relocking = false
      ∧ t.clock.rootActive = s.cfg.rootSrc ∧ (s.cfg.rootSrc = 1 → s.links.origin = false → t.links.locked = true) := by
  have hexec : exec .rootRelock s = execRootRelock s := rfl
  rw [hexec, execRootRelock, if_neg (by simp [ha, hr])]
  dsimp only
  split
  · exact ⟨_, rfl, rfl, rfl, rfl, fun _ _ => rfl⟩
  next hnot => exact ⟨_, rfl, rfl, rfl, rfl, fun hs ho => absurd (by simp [hs, ho]) hnot⟩

/-- Settles O57: each event of a source through its own gate, `sourceFails_eq` and `loseClock_leaves`. -/
theorem clockRows : Obligations.ClockRows := by
  intro s ha
  refine ⟨fun src ppm compare h he => ⟨exec_fineMonitorGate ha h he, compareGate_ready h, fineGate_fails h, fun heth hroot hlost => ?_,
    fun heth d hd => exec_grossMonitorGate_inside ha h heth he hd, fun hmode hlink => ?_⟩, fun he => ?_, exec_rootRelock ha⟩
  · have hlose : s.sourceFails src 2 0x7FFFFFFF = (s.modMon src SourceMon.failed).loseClock src 2 0x7FFFFFFF := by
      rw [sourceFails_eq]
      exact if_pos (by simp [hroot, hlost])
    refine ⟨_, (exec_grossMonitorGate_none ha h he).trans (by rw [if_neg heth]), ?_, ?_, sourceFails_notReady h .., ?_⟩
    · rw [hlose, (loseClock_leaves ..).1]
    · rw [hlose, (loseClock_leaves ..).1]
    · rw [hlose, (loseClock_leaves ..).2]
  · exact ⟨_, exec_sourceReadyCount ha h he hmode, sourceReady_ready h hlink⟩
  · refine ⟨s.ethFails, (exec_grossMonitorGate_none ha (by decide) he).trans (by rw [if_pos rfl]), rfl, fun p => ?_, rfl⟩
    simp [State.ethFails]

end Sys2Proof.Machine
end

section
/-! PROOF. Input power, reset, start-up and tests (R359 to R366, R382 to R396, R401, R412, R413, R418 to R421, R426). -/
namespace Sys2Proof.Machine

/-! ### Rails, power and reset -/

/-- The regulators start, or the pins stay (R418, R419). -/
theorem start_eq (p : PinState) : p.start = p ∨ p.start = { p with rails := true } := by
  unfold PinState.start
  split
  · exact .inr rfl
  · exact .inl rfl

theorem start_keeps (p : PinState) :
    p.start.stage = p.stage ∧ p.start.pwrEn = p.pwrEn ∧ p.start.sb3v3 = p.sb3v3 ∧ p.start.trip = p.trip := by
  rcases start_eq p with h | h <;> rw [h] <;> exact ⟨rfl, rfl, rfl, rfl⟩

theorem start_rails {p : PinState} (he : p.pwrEn = true) (hsb : p.sb3v3 = true) (hst : p.stage = .charged) (hin : p.inputGood = true)
    (htrip : p.trip = false) : p.start.rails = true := by
  unfold PinState.start
  rw [if_pos (by simp [PinState.enabled, he, hsb, hst, hin, htrip])]

/-- A loss of power loses every volatile state; flash, with the health record that was due, and fuses stay (R364, R383, R420; log 154). -/
theorem lose_leaves (pins : PinState) (s : State) :
    let t := s.lose pins
    t.pins = pins ∧ t.flash = s.writeHealth.flash ∧ t.fuses = s.fuses ∧ t.image = none ∧ t.hbm.mem = [] ∧ t.fcp.sessions = []
    ∧ t.job.st = .empty ∧ t.boot.stage = 1 :=
  ⟨rfl, rfl, (writeHealth_keeps s).2.2, rfl, rfl, rfl, rfl, rfl⟩

/-- The rails switch off and a pin follows the event (R413, R418, R420, R426). -/
theorem railsOff_leaves (f : PinState → PinState) (s : State) (hf : ∀ p, (f p).rails = p.rails ∧ (f p).pwrOk = p.pwrOk) :
    let t := s.railsOff.modPins f
    t.pins.rails = false ∧ t.pins.pwrOk = false ∧ t.flash = s.writeHealth.flash ∧ t.fuses = s.fuses ∧ t.image = none ∧ t.hbm.mem = []
    ∧ t.fcp.sessions = [] ∧ t.job.st = .empty ∧ t.boot.stage = 1 := by
  obtain ⟨-, hflash, hfuses, himage, hhbm, hsessions, hst, hstage⟩ := lose_leaves { s.pins with rails := false, pwrOk := false } s
  exact ⟨(hf _).1, (hf _).2, hflash, hfuses, himage, hhbm, hsessions, hst, hstage⟩

/-- Every event that ends the input power ends in the rails' switching off (R413, R418, R420, R426). -/
theorem exec_powerLoss {rail : Fin 9} {s : State} (hr : s.pins.rails = true) {cmd : Instr}
    (h : cmd ∈ [Instr.inputUnderVoltage, .s1Break, .pwrEnFall, .railFault rail, .sb3v3Loss]) :
    ∃ f : PinState → PinState, (∀ p, (f p).rails = p.rails ∧ (f p).pwrOk = p.pwrOk) ∧ exec cmd s = .next (s.railsOff.modPins f) := by
  simp only [List.mem_cons, List.not_mem_nil, or_false] at h
  rcases h with rfl | rfl | rfl | rfl | rfl
  · exact ⟨fun p => { p with inputGood := false, stage := .off }, fun _ => ⟨rfl, rfl⟩, rfl⟩
  · exact ⟨fun p => { p with s1 := false, inputGood := false, stage := .off }, fun _ => ⟨rfl, rfl⟩, rfl⟩
  · exact ⟨fun p => { p with pwrEn := false }, fun _ => ⟨rfl, rfl⟩, rfl⟩
  · exact ⟨fun p => p, fun _ => ⟨rfl, rfl⟩, congrArg Host.Outcome.next (if_pos hr)⟩
  · exact ⟨fun p => { p with sb3v3 := false, trip := false }, fun _ => ⟨rfl, rfl⟩, rfl⟩

/-! ### Stages -/

theorem exec_bootRom {s : State} (h : s.inStage 1 = true) : exec .bootRom s = .next (({ s with
    clock := { s.clock with rootLocked := true, rootActive := 2 },
    sec := { s.sec with spyholeOpen := s.fuses.identityKill && s.pins.debugEn } } : State).toStage 2) := by
  change execBootRom s = _
  rw [execBootRom, h]
  rfl

theorem exec_firmwareLoad {s : State} (h : s.inStage 2 = true) :
    exec .firmwareLoad s = .next (if s.stage2Fails then s.toStage 15 else s.firmwareEntry s.flash.firmware) := by
  change execFirmwareLoad s = _
  rw [execFirmwareLoad, h]
  cases s.stage2Fails <;> rfl

theorem endSoak_only (s : State) : ∃ links, OnlyLogs { s with links := links } s.endSoak := by
  have hlogs (l : List Nat) (s : State) :
      OnlyLogs s (l.foldl (fun s c => s.eventAt 1 0 s.links.soakStop.toNat s.links.stopWall (s.soakData c) []) s) := by
    induction l generalizing s with
    | nil => exact .rfl
    | cons c l ih => exact (eventAt_onlyLogs ..).trans (ih _)
  obtain ⟨e, f, l, h⟩ := hlogs (s.links.soakCause.toNat :: s.links.joined) s
  unfold State.endSoak
  rw [h]
  exact ⟨_, e, f, l, rfl⟩

/-- A cause that clears changes the links and the logs (R279). -/
theorem clearCause_only (cause tag : Nat) (s : State) : ∃ links, OnlyLogs { s with links := links } (s.clearCause cause tag) := by
  unfold State.clearCause
  dsimp only
  split
  · exact ⟨s.links, .rfl⟩
  · split
    · exact endSoak_only _
    · exact ⟨_, .rfl⟩

/-- ROOT_LOCK moves the root to LOCAL and ends stage 3 (R394). -/
theorem exec_rootLock {s : State} (ha : s.alive = true) (hst : s.boot.stage = 3) (hr : s.clock.localMon.ready = true) :
    ∃ t, exec .rootLock s = .next t ∧ t.boot.stage = 4 ∧ t.clock.rootActive = 0 ∧ t.cfg.rootSrc = 0 := by
  have hexec : exec .rootLock s = .next ((({ s with
      cfg := { s.cfg with rootSrc := 0 }, boot := { s.boot with overrun := false },
      clock := { s.clock with rootActive := 0, rootLocked := true, clockLost := false, relocking := false } } : State).clearCause 6 0).toStage 4) := by
    change execRootLock s = _
    rw [execRootLock, ha, hst, hr]
    rfl
  obtain ⟨links, e, f, l, h⟩ := clearCause_only 6 0 ({ s with
      cfg := { s.cfg with rootSrc := 0 }, boot := { s.boot with overrun := false },
      clock := { s.clock with rootActive := 0, rootLocked := true, clockLost := false, relocking := false } } : State)
  rw [h] at hexec
  exact ⟨_, hexec, rfl, rfl, rfl⟩

/-- POWER_ON_PASS ends stage 5; POWER_ON_OK says that no slice failed (R382). -/
theorem exec_powerOnPass {s : State} (h : s.mayEnd 5 = true) (failed : List (Fin 8 × Fin 40)) :
    ∃ t, exec (.powerOnPass failed) s = .next t ∧ t.boot.stage = 6 ∧ (failed = [] → t.test.powerOnOk = true) := by
  have hexec : exec (.powerOnPass failed) s = execPowerOnPass failed s := rfl
  rw [hexec, execPowerOnPass, h]
  refine ⟨_, rfl, rfl, fun hf => ?_⟩
  subst hf
  rfl

theorem exec_linkTraining {s : State} (h : s.mayEnd 6 = true) (ports : List PortTraining) :
    ∃ t, exec (.linkTraining ports) s = .next t ∧ t.boot.stage = 7 := by
  have hexec : exec (.linkTraining ports) s = execLinkTraining ports s := rfl
  rw [hexec, execLinkTraining, h]
  exact ⟨_, rfl, rfl⟩

/-- CLOCK_FOLLOW of the origin locks it at once (R394). -/
theorem exec_clockFollow_origin {s : State} (h : s.mayEnd 7 = true) (ho : s.links.origin = true) (depth : BitVec 6) :
    ∃ t, exec (.clockFollow depth) s = .next t ∧ t.boot.stage = 8 ∧ t.links.locked = true := by
  have hexec : exec (.clockFollow depth) s = execClockFollow depth s := rfl
  rw [hexec, execClockFollow, h, ho]
  exact ⟨_, rfl, rfl, rfl⟩

theorem exec_unfollowed {s : State} (h : s.mayEnd 7 = true) (ho : s.links.origin = false) (hl : s.links.locked = false) :
    ∃ t, exec .unfollowed s = .next t ∧ t.boot.stage = 8 ∧ t.boot.unfollowed = true := by
  have hexec : exec .unfollowed s = execUnfollowed s := rfl
  rw [hexec, execUnfollowed, h, ho, hl]
  exact ⟨_, rfl, rfl, rfl⟩

theorem exec_ready {s : State} (h : s.mayEnd 8 = true) (ms : U32) :
    ∃ t, exec (.ready ms) s = .next t ∧ t.boot.stage = 9 ∧ t.boot.ready = true ∧ t.fuses.svn = max s.fuses.svn s.boot.fwSvn := by
  have hexec : exec (.ready ms) s = execReady ms s := rfl
  rw [hexec, execReady, h]
  exact ⟨_, rfl, rfl, rfl, rfl⟩

/-- The ports that take their measurements (R282). -/
def State.measurePorts (ports : List PortMeasure) (s : State) : State :=
  allPorts.foldl (fun s p => match ports[p.val]? with
    | some m => s.modPort p (fun x => if x.up then x.measured m else x)
    | none => s) s

/-- The ports' measurements leave the links and the wall count. -/
theorem measurePorts_keeps (ports : List PortMeasure) (s : State) :
    (s.measurePorts ports).links = s.links ∧ (s.measurePorts ports).wall = s.wall := by
  refine Prod.mk.inj (foldl_same (fun s : State => (s.links, s.wall)) (fun s p => ?_) allPorts s)
  split
  · rfl
  · rfl

/-- CHANNEL_MEASUREMENT sets the offset from the parent's wall count (R282, R283; log 120). -/
theorem exec_channelMeasurement {s : State} (h : s.mayEnd 8 = true) (ports : List PortMeasure) (w : U64) :
    ∃ t, exec (.channelMeasurement ports w) s = .next t
      ∧ t.links.offset = (if s.links.origin || !s.links.locked then 0 else w - s.wall) := by
  have hexec : exec (.channelMeasurement ports w) s = execChannelMeasurement ports w s := rfl
  rw [hexec, execChannelMeasurement, h]
  obtain ⟨hlinks, hwall⟩ := measurePorts_keeps ports s
  rw [← hlinks, ← hwall]
  exact ⟨_, rfl, rfl⟩

/-! ### Tests -/

theorem OnlyLogs.faults {s t : State} (h : OnlyLogs s t) : t.faults = s.faults := by
  obtain ⟨e, f, l, rfl⟩ := h
  rfl

/-- A suspicion sets SUSPECT and no fault record (R363). -/
theorem makeSuspect_leaves (a b c : Nat) (d : Bytes) (s : State) :
    (s.makeSuspect a b c d).test.suspect = true ∧ (s.makeSuspect a b c d).faults = s.faults := by
  obtain ⟨h, x, j, ⟨e, f, l, hs⟩, hx⟩ := makeSuspect_only a b c d s
  rw [hs]
  exact ⟨hx, rfl⟩

/-- A slice that fails makes the module SUSPECT and is no fault record (R361, R363). -/
theorem sliceFails_leaves (c : Fin 8) (slice mode detail : Nat) (s : State) :
    (s.sliceFails c slice mode detail).test.suspect = true ∧ (s.sliceFails c slice mode detail).faults = s.faults := by
  obtain ⟨hsuspect, hfaults⟩ := makeSuspect_leaves 1 c.val slice _ (State.event 16 _ [] _)
  exact ⟨hsuspect, hfaults.trans (event_onlyLogs ..).faults⟩

theorem sliceDone_fails (c : Fin 8) (detail : Nat) (s : State) :
    (s.sliceDone c false detail).test.suspect = true ∧ (s.sliceDone c false detail).faults = s.faults :=
  sliceFails_leaves c _ 0 detail _

theorem insertFault_ne_nil (r : FaultRec) (l : List FaultRec) : insertFault r l ≠ [] := by
  cases l with
  | nil => simp [insertFault]
  | cons x t =>
    unfold insertFault
    split <;> simp

/-- A fault leaves a record in the log, its own or sixteen others (R250, R253). -/
theorem raiseFault_logged (r : FaultRec) (s : State) : (s.raiseFault r).faults.job ≠ [] := by
  have hjob : (s.raiseFault r).faults.job
      = if 16 ≤ s.faults.job.length then s.faults.job else insertFault (s.stampRecord r) s.faults.job := by
    simp only [State.raiseFault, freezeMaster_faults, decide_eq_true_eq]
    split <;> simp
  rw [hjob]
  split
  · next h => exact List.ne_nil_of_length_pos (by omega)
  · exact insertFault_ne_nil _ _

/-- DRAW_RING_WINDOW counts the window and runs the core's next slice (R359). -/
theorem exec_drawRingWindow {s : State} {core : Fin 8} (hw : s.windowBegins core = true) (ht : s.cfg.testsOff = false) :
    ∃ t, exec (.drawRingWindow core) s = .next t ∧ t.test.windows = s.test.windows + 1 ∧ (t.core core).test.busy = true := by
  have hexec : exec (.drawRingWindow core) s = execDrawRingWindow core s := rfl
  rw [hexec, execDrawRingWindow, hw, ht]
  exact ⟨_, rfl, rfl, by simp⟩

/-- A march without an error that cannot be corrected ends with the slice's own result (R361). -/
theorem exec_testSliceDone_clean {s : State} {core : Fin 8} (hb : (s.core core).test.busy = true) (hr : s.scheduleRuns = true)
    {a len : Nat} (hx : (marchExtent (s.core core).test.next).getD (0, 0) = (a, len)) (hm : s.marchFault core a len = none)
    (pass : Bool) (d : U32) :
    exec (.testSliceDone core pass d false) s = .next ((s.marchErrors core a (a + len)).sliceDone core pass d.toNat) := by
  have hexec : exec (.testSliceDone core pass d false) s = execTestSliceDone core pass d false s := rfl
  rw [hexec, execTestSliceDone, hb, hr, hx]
  simp only [hm, Bool.not_true, Bool.or_self, Bool.false_eq_true, if_false, Option.getD_none]

/-- An error that cannot be corrected, met in a march, is a fault of master TEST, and the slice fails (R361). -/
theorem exec_testSliceDone_fault {s : State} {core : Fin 8} (hb : (s.core core).test.busy = true) (hr : s.scheduleRuns = true)
    {a len : Nat} (hx : (marchExtent (s.core core).test.next).getD (0, 0) = (a, len)) {ecc : Bool}
    (hm : ecc = true ∨ s.marchFault core a len ≠ none) (pass : Bool) (d : U32) :
    ∃ t, exec (.testSliceDone core pass d ecc) s = .next t ∧ t.test.suspect = true ∧ t.faults.job ≠ [] := by
  obtain ⟨w, hw⟩ : ∃ w, (if ecc then some (8 * d.toNat) else s.marchFault core a len) = some w := by
    cases ecc with
    | true => exact ⟨_, rfl⟩
    | false => exact Option.ne_none_iff_exists'.1 (hm.resolve_left Bool.false_ne_true)
  have hexec : exec (.testSliceDone core pass d ecc) s = execTestSliceDone core pass d ecc s := rfl
  rw [hexec, execTestSliceDone, hb, hr, hx]
  simp only [hw, Bool.not_true, Bool.or_self, Bool.false_eq_true, if_false]
  refine ⟨_, rfl, (sliceDone_fails ..).1, ?_⟩
  rw [(sliceDone_fails ..).2]
  exact raiseFault_logged _ _

/-! ### The clauses of the pins -/

theorem exec_inrushEnd {s : State} (hst : s.pins.stage = .charging) : ∃ t, exec .inrushEnd s = .next t ∧ t.pins.stage = .charged
    ∧ (s.pins.pwrEn = true → s.pins.sb3v3 = true → s.pins.inputGood = true → s.pins.trip = false → t.pins.rails = true) := by
  have hexec : exec .inrushEnd s = .next (s.modPins (fun _ => ({ s.pins with stage := .charged } : PinState).start)) := by
    change execInrushEnd s = _
    simp [execInrushEnd, State.modPins, hst]
  refine ⟨_, hexec, (start_keeps _).1, fun he hsb hin htrip => ?_⟩
  exact start_rails (p := { s.pins with stage := .charged }) he hsb rfl hin htrip

theorem exec_pwrEnRise {s : State} (h : s.pins.pwrEn = false) :
    ∃ t, exec .pwrEnRise s = .next t ∧ t.pins.pwrEn = true ∧ (s.pins.sb3v3 = true → t.pins.trip = false) := by
  have hexec : exec .pwrEnRise s = .next (s.modPins (fun p => ({ p with pwrEn := true, trip := p.trip && !p.sb3v3 } : PinState).start)) := by
    change execPwrEnRise s = _
    rw [execPwrEnRise, h]
    rfl
  obtain ⟨-, hpwrEn, -, htrip⟩ := start_keeps ({ s.pins with pwrEn := true, trip := s.pins.trip && !s.pins.sb3v3 } : PinState)
  exact ⟨_, hexec, hpwrEn, fun hsb => htrip.trans (by simp [hsb])⟩

theorem exec_sb3v3Return {s : State} (h : s.pins.sb3v3 = false) : ∃ t, exec .sb3v3Return s = .next t ∧ t.pins.sb3v3 = true := by
  have hexec : exec .sb3v3Return s = .next (s.modPins (fun p => ({ p with sb3v3 := true } : PinState).start)) := by
    change execSb3v3Return s = _
    rw [execSb3v3Return, h]
    rfl
  exact ⟨_, hexec, (start_keeps ({ s.pins with sb3v3 := true } : PinState)).2.2.1⟩

theorem exec_pwrOk {s : State} (h : s.pins.rails = true) : exec .pwrOk s = .next { s with pins := { s.pins with pwrOk := true } } := by
  change execPwrOk s = _
  simp [execPwrOk, State.modPins, h]

theorem exec_recovery {s : State} (h : s.inStage 2 = true) (hf : s.stage2Fails = true) : exec .recovery s = .next (s.toStage 15) := by
  change execRecovery s = _
  rw [execRecovery, h, hf]
  rfl

theorem exec_stageOverrun {s : State} (ha : s.alive = true) (h9 : s.boot.stage ≠ 9) (h15 : s.boot.stage ≠ 15) :
    exec .stageOverrun s = .next { s with boot := { s.boot with overrun := true } } := by
  change execStageOverrun s = _
  have h : (s.alive && s.boot.stage != 9 && s.boot.stage != 15) = true := by rw [ha, bne_iff_ne.2 h9, bne_iff_ne.2 h15]; rfl
  exact if_pos h

/-- Settles O59: the rails start or switch off with their events, a loss of power or reset keeps fuses and flash, and each stage of
start-up that may end leaves for the next. -/
theorem startRows : Obligations.StartRows := by
  unfold Obligations.StartRows
  intro s
  refine ⟨⟨_, rfl, rfl, rfl, fun h => ?_⟩, exec_inrushEnd, exec_pwrEnRise, exec_pwrOk, exec_sb3v3Return, ?_, ?_, ?_, ?_, ?_, ?_, ?_,
    fun h failed => exec_powerOnPass h failed, fun h ports => exec_linkTraining h ports, ?_, ?_, exec_stageOverrun, ?_, ?_⟩
  case refine_1 =>
    change (if s.pins.stage == .off then _ else _) = _
    rw [h]
    rfl
  case refine_2 =>
    intro rail hr cmd hcmd
    obtain ⟨f, hf, hexec⟩ := exec_powerLoss hr hcmd
    exact ⟨_, hexec, railsOff_leaves f s hf⟩
  case refine_3 =>
    obtain ⟨hpins, hflash, -, himage, -⟩ := lose_leaves { s.pins with resetN := false } s
    exact ⟨_, rfl, rfl, rfl, hflash, himage⟩
  case refine_4 =>
    intro st
    exact ⟨_, rfl, rfl, rfl, rfl, rfl, rfl, rfl, rfl, rfl⟩
  case refine_5 => exact fun h => ⟨_, exec_bootRom h, rfl, rfl, rfl⟩
  case refine_6 => exact fun h => ⟨exec_firmwareLoad h, exec_recovery h, rfl⟩
  case refine_7 => exact exec_rootLock
  case refine_8 => exact fun h => if_pos h
  case refine_9 => exact fun h depth => ⟨fun ho => exec_clockFollow_origin h ho depth, exec_unfollowed h⟩
  case refine_10 => exact fun h => ⟨exec_ready h, exec_channelMeasurement h⟩
  case refine_11 =>
    refine fun core => ⟨exec_drawRingWindow, fun pass ecc d hb hr => ?_⟩
    rcases hx : (marchExtent (s.core core).test.next).getD (0, 0) with ⟨a, len⟩
    refine ⟨fun he hm => ⟨?_, fun hp => ?_⟩, fun hm => exec_testSliceDone_fault hb hr hx hm pass d⟩
    · rw [he]
      exact exec_testSliceDone_clean hb hr hx hm pass d
    · rw [hp]
      exact (sliceDone_fails ..).1
  case refine_12 => exact fun h => ⟨congrArg Host.Outcome.next (if_pos h), congrArg Host.Outcome.next (if_pos h)⟩

end Sys2Proof.Machine
end
